-- ==== Sys2Proof/Word.lean ====
section
/-! DEFINITION. The word types of the fabric and the sparse table type that its arrays are held in.
Every multi-byte field is little-endian and bit 0 is the least significant bit (R8). -/

namespace Sys2Proof

/-- One byte. -/
abbrev Byte := BitVec 8

/-- A register word, 64 bits (R434). -/
abbrev Word := BitVec 64

/-- A sparse table: keys strictly rising; a key that is not listed holds the table's default. -/
abbrev Tab (α : Type) := List (Nat × α)

/-- A size in GiB (R7). -/
def gib (n : Nat) : Nat := n * 2 ^ 30

end Sys2Proof
end

