-- ==== Sys2Proof/Syntax.lean ====
section
/-! DEFINITION. The commands of the fabric: one constructor per row of spec/opcode_table.json.
The table gives the rows no operands and no bits; the operands here are what the cited rules say
arrives with the step. A row that is a control packet (R408, R410) carries the whole packet. -/

namespace Sys2Proof

/-- The path a control packet arrives on; it fixes the packet's authority (R408).
`fn 0` is the PF, `fn f` with `f` from 1 to 255 a VF. -/
inductive Path where
  | mailbox (session : BitVec 32)
  | fn (f : Nat)
deriving DecidableEq, Repr

/-- A control packet (R410). `params` holds packet bytes 0x18 to 0x3F, byte 0x18 in bits [7:0]. -/
structure Packet where
  path : Path
  opcode : BitVec 16
  len : Byte
  sliceByte : Byte
  seq : BitVec 32
  tag : BitVec 128
  params : BitVec 320
deriving DecidableEq, Repr

/-- One END 0 beat of the engine port (R455). -/
structure Beat where
  member : Nat
  digest : Word
  shape : Word
  active : Nat
  memWait : Nat
  linkWait : Nat
  ce : Nat
deriving DecidableEq, Repr

/-- What the engine agent measured of a run when it ended (R72): counted, stall and stretch time in ns,
and the part of stall and stretch that makes no difference to the count. -/
structure Meter where
  counted : Nat
  stall : Nat
  stretch : Nat
deriving DecidableEq, Repr

/-- A sealed link unit as the receiving port sees it (R314, R315). `authOk` is the outcome of AES-256-GCM
under the key that the tag names, which no fabric logic can read. -/
structure LinkUnit where
  port : Nat
  keyTag : BitVec 16
  vl : Nat
  ctrLo : BitVec 40
  payload : Nat
  length : Nat
  crcOk : Bool
  authOk : Bool
deriving DecidableEq, Repr

/-- A message of a link: the unit that brings it (R315), and what it names first: a group, a job, or a time. -/
structure Arrival (α : Type) where
  unit : LinkUnit
  body : α
deriving DecidableEq, Repr

/-- A limit on an engine's running tile, with its stall and stretch time up to the limit, as the engine agent counts it (R72). -/
structure TileLimit where
  engine : Nat
  paused : Nat
deriving DecidableEq, Repr

/-- A slice and the index of one of its link job keys (R313). -/
structure SliceKey where
  slice : Nat
  jobKey : Nat
deriving DecidableEq, Repr

/-- The header of a chunk (R291). -/
structure ChunkHdr where
  job : BitVec 32
  step : Nat
  phase : Nat
  src : Nat
  index : Nat
  count : Nat
  partialSum : Bool
  nan : Bool
  last : Bool
deriving DecidableEq, Repr

/-- A rank's view of a READY or GO token on VL 7 (R286, R289, R298). -/
structure Token where
  step : Nat
  crc : BitVec 32
  hold : Nat
  drag : Nat
  slowRank : Nat
  slowHold : Nat
  slowDrag : Nat
  allReachSwitch : Bool
  useSwitch : Bool
deriving DecidableEq, Repr

/-- The causes with which a step is aborted (R287). -/
inductive AbortCause where
  | mismatch | timeout | path | cancel | stale | unreadable
deriving DecidableEq, Repr

/-- The operations of the key port and what the security block answers (R305, R308, R318, R319, R342, R234). -/
inductive KeyPortOp where
  | unwrap (ok : Bool)
  | zeroed (slice : Nat)
  | escrowDestroyed (slice : Nat)
  | slotEscrowDestroyed (kind index : Nat)
  | restore (kind index : Nat) (ok : Bool)
  | projKey (ok : Bool)
  | auditSeed (ok : Bool)
  | fabricSlots (ok : Bool)
deriving DecidableEq, Repr

/-- A request that crossed to another clock domain and expects a reply (R21). Sensor reads and Fid's reads have rows of
their own. -/
inductive Crossing where
  | register (fn offset size : Nat)
  | keyPort (op : KeyPortOp)
  | other
deriving DecidableEq, Repr

/-- A request of a source that went unanswered (R21). -/
structure LostRequest where
  source : Nat
  lost : Crossing
deriving DecidableEq, Repr

/-- The engine port timing bounds whose breach is a port protocol error (R457). -/
inductive PortBound where
  | issueReady | abort | scrub | test
deriving DecidableEq, Repr

/-- The ledger accesses that complete through the management block (R396, R365 to R368, R453). -/
inductive LedgerOp where
  | startUp (identityOk : Bool) (ledgerTime stress : Nat) (notice80 notice95 : Bool) (retired : List (BitVec 32))
  | flush
  | summary
  | read (bytes : BitVec 256)
deriving DecidableEq, Repr

/-- The words of the fuse block (R462). -/
structure Fuses where
  grade : Byte
  chipId : BitVec 128
  mfrId : BitVec 11
  enginePresent : BitVec 256
  dmaPresent : BitVec 64
  stackPresent : BitVec 16
  portPresent : BitVec 32
deriving DecidableEq, Repr

/-- The commands. The comment before each group names the rules. -/
inductive Instr where
  -- slice lifecycle packets (R59, R424)
  | sliceDefine (p : Packet)
  | sliceCreate (p : Packet)
  | sliceActivate (p : Packet)
  | sliceAmend (p : Packet)
  | sliceDestroy (p : Packet)
  | sliceQuery (p : Packet)
  -- frame table packets (R85, R425)
  | ftabHeader (p : Packet)
  | ftabWrite (p : Packet)
  | ftabCheck (p : Packet)
  | ftabSwitch (p : Packet)
  | ftabQuery (p : Packet)
  | frameSyncSet (p : Packet)
  -- key, weight, attestation and debug packets (R306, R426)
  | keyStage (p : Packet)
  | keyInstall (p : Packet)
  | keyDestroy (p : Packet)
  | keyQuery (p : Packet)
  | weightImport (p : Packet)
  | attestReport (p : Packet)
  | debugOpen (p : Packet)
  | debugClose (p : Packet)
  -- queue, object, translation and window packets (R136, R166, R427)
  | vfEnable (p : Packet)
  | vfDisable (p : Packet)
  | cqCreate (p : Packet)
  | cqDestroy (p : Packet)
  | sqCreate (p : Packet)
  | sqDestroy (p : Packet)
  | ctxCancel (p : Packet)
  | objRegister (p : Packet)
  | objRelease (p : Packet)
  | objQuery (p : Packet)
  | astagCreate (p : Packet)
  | astagDestroy (p : Packet)
  | winOpen (p : Packet)
  | winClose (p : Packet)
  | accSnapshot (p : Packet)
  -- Belay, fault and test packets (R276, R369, R428)
  | belayAuditSet (p : Packet)
  | belayWatch (p : Packet)
  | belayHeldQuery (p : Packet)
  | replicaDefine (p : Packet)
  | replicaCheck (p : Packet)
  | replicaExpel (p : Packet)
  | fcRuleSet (p : Packet)
  | fcInject (p : Packet)
  | fcErrClear (p : Packet)
  | fcReactSet (p : Packet)
  | unitRetire (p : Packet)
  | testSet (p : Packet)
  | ledgerRead (p : Packet)
  -- telemetry packets (R429)
  | tmGuard (p : Packet)
  | tmResource (p : Packet)
  | tmChip (p : Packet)
  -- recovery packets (R406, R430)
  | ccRestart (p : Packet)
  | engineReset (p : Packet)
  | sliceReset (p : Packet)
  | chipReset (p : Packet)
  | powerCycle (p : Packet)
  | vfQuiesce (p : Packet)
  | vfResume (p : Packet)
  | peerNotice (p : Packet)
  | dumpTake (p : Packet)
  | dumpRead (p : Packet)
  | recoveryQuery (p : Packet)
  | chipNumberSet (p : Packet)
  -- collective group packets (R281, R431)
  | grpDefine (p : Packet)
  | grpCreate (p : Packet)
  | grpDestroy (p : Packet)
  | grpQuery (p : Packet)
  | switchAttest (p : Packet)
  -- the intakes (R408)
  | mailboxPacket (p : Packet)
  | ctlReqSubmit (fn : Nat) (word7 : Word)
  -- host registers (R411, R142, R154, R174, R353, R157, R371, R446, R439, R433 to R438)
  | ctlHead (fn : Nat) (head : BitVec 32)
  | sqDoorbell (fn j : Nat) (tail : BitVec 32)
  | cqDoorbell (fn k : Nat) (head : BitVec 32)
  | mapqDoorbell (slice : Nat) (tail : BitVec 32)
  | faultHead (fn : Nat) (head : BitVec 32)
  | fenceWrite (fn n : Nat) (v : Word)
  | heartbeat (count : BitVec 32) (fwState : BitVec 4)
  | faultRingEnable (fn : Nat) (v : Word)
  | faultRingDisable (fn : Nat) (v : Word)
  | ctlRingEnable (fn : Nat) (v : Word)
  | ctlRingDisable (fn : Nat) (v : Word)
  | mapqEnable (slice : Nat) (v : Word)
  | mapqDisable (slice : Nat) (v : Word)
  | ringWindowWrite (fn : Nat) (offset : Nat) (data : List Byte)
  | registerWrite (fn : Nat) (offset size : Nat) (v : Word)
  | registerRcRead (fn : Nat) (offset size : Nat)
  -- the life of a tile (R22, R108, R91, R121, R249, R95, R265, R229)
  | descriptorRead (sq : Nat) (readable : Bool)
  | descriptorBind (sq : Nat) (seq : BitVec 32) (tableError : Option (Nat × Nat))
  | countRead (sq : Nat) (seq : BitVec 32) (data : Option (BitVec 32))
  | tilePlace (slice : Nat)
  | formWaitExpiry (sq : Nat)
  | tileComplete (engine : Nat) (m : Meter) (beats : List Beat)
  | engineAbortDone (engine : Nat) (m : Meter)
  | operandUnreadable (engine : Nat) (m : Meter)
  | exactRangeExceeded (engine : Nat) (m : Meter)
  | testDone (engine : Nat) (signature : Word)
  | engineResetDone (engine : Nat)
  | scrubDone (engine : Nat)
  | regionsReport (engine : Nat) (count : Nat) (regions : BitVec 512) (status : BitVec 768)
  | spData (engine : Nat) (beat : BitVec 256)
  | addressResolve (engine : Nat) (xreq : BitVec 48)
  | budgetExpiry (tile : TileLimit)
  | hangLimit (tile : TileLimit)
  | isolatedReplayLimit (tile : TileLimit)
  | extraRunPlace (sq : Nat) (seq : BitVec 32)
  | auditWindowEnd (slice engine : Nat)
  | cauJobDone (job : Nat) (unreadable : List Nat) (remote : List Host.Cell)
  | commit (sq : Nat)
  | msixCoalesceExpiry (fn k : Nat)
  -- the frame (R70, R102, R63, R254, R89, R116, R94, R101)
  | frameBoundary
  | slotTrim (entry : Nat)
  | activateTimeout (slice : Nat)
  | watchListExit (engine : Nat)
  | slotOwnerLatchLoad (start : Nat)
  | slotStart (start : Nat)
  | slackStart (entry : Nat)
  | issueWindowEnd (entry : Nat)
  | slotEnd (entry : Nat)
  -- alignment across chips (R75 to R78)
  | syncMessage (u : LinkUnit) (masterTime frameNum period : Nat)
  | pathDelayMeasure
  | pathDelayRequest (u : LinkUnit)
  | pathDelayResponse (roundTrip : Arrival Nat)
  | syncMessageMissing
  | frameSyncInEdge (highNs : Nat)
  | syncWindowMiss
  -- map records and parks (R174, R175, R189)
  | map (slice : Nat) (record : BitVec 256)
  | unmap (slice : Nat) (record : BitVec 256)
  | protect (slice : Nat) (record : BitVec 256)
  | resolve (slice : Nat) (record : BitVec 256)
  | parkTimeout (slice fault : Nat)
  -- remote windows (R197, R199)
  | windowRequest (u : LinkUnit) (srcChip window offset length : Nat) (write : Bool) (data : List Byte)
  | linkRemoteRequest (port engine : Nat) (isDma : Bool) (key : SliceKey) (peer window offset length : Nat) (write : Bool)
  | windowReply (u : LinkUnit) (request : Nat) (code : Nat)
  | windowRequestTimeout (request : Nat)
  -- memory side and Cleat (R458, R205, R208, R207, R212, R213)
  | miRequest (stack chan : Nat) (req : Word) (wdata : List Byte)
  | cleatCycle (r : Nat)
  | unitResponse (r tag status : Nat)
  | equalisedDelivery (r tag : Nat)
  | linkStateChange (port lanes peer peerPort : Nat)
  | droopAssert
  | droopRelease
  | droopHoldEnd
  -- Splice (R283, R286 to R288, R291, R296, R299)
  | stepReady (g : Nat)
  | readyToken (g : Arrival Nat) (t : Token)
  | goToken (g : Arrival Nat) (t : Token)
  | stepAbort (g : Arrival Nat) (step : Nat) (cause : AbortCause) (fromSuccessor : Bool)
  | chunkReceive (u : LinkUnit) (g : Nat) (h : ChunkHdr) (payload : List Byte) (crc : BitVec 32)
  | chunkAck (g : Arrival Nat) (h : ChunkHdr)
  | chunkNack (g : Arrival Nat) (h : ChunkHdr)
  | chunkAckTimeout (g : Nat) (h : ChunkHdr)
  | gangTimeout (g : Nat)
  | joinMessage (u : LinkUnit) (job : BitVec 32) (crc : BitVec 32)
  | joined (job : Arrival (BitVec 32))
  | joinTimeout (g : Nat)
  | joinHoldExpiry (job : BitVec 32)
  | groupBroken (job : Arrival (BitVec 32))
  | grant (g : Arrival Nat) (lease : Nat) (fmtMask : BitVec 16) (opMask : BitVec 3)
  | deny (g : Arrival Nat)
  | reserveTimeout (g : Nat)
  | peerNoticeReceived (u : LinkUnit) (kind chip : Nat) (job : BitVec 32)
  -- keys and removal (R305, R307, R319, R322, R337, R330, R342, R341)
  | keyPortResponse (op : KeyPortOp)
  | keyUnwrapTimeout
  | escrowConfirmTimeout (slice : Nat)
  | importDone (headerLost : Bool) (lost : Option Nat) (header segments : List Byte)
  | zeroingDone (slice : Nat)
  | tenantEnvPublish
  | controlKeyLoad (session : BitVec 32) (key : BitVec 256)
  | controlKeyZero (session : BitVec 32)
  | measurementRequest (index : Nat)
  -- fault collection (R345, R346, R349, R355, R21, R360, R362, R363, R366, R367)
  | lanyardRaise (source : Nat)
  | lanyardBroken (source : Nat)
  | lanyardPoll (source : Nat) (answered : Bool)
  | classifyRecord
  | containedTimerExpiry (slice : Nat)
  | fatalTimerExpiry
  | xdomainTimeout (request : LostRequest)
  | injectUnconsumed
  | injectNoRecord
  | testDue (engine : Nat)
  | testBorrowTimeout (engine : Nat)
  | ledgerFlush (failed : Bool)
  | eraseTokenRefill
  | stressAccumulate
  -- recovery (R372, R30, R31, R34, R381, R392, R386, R462, R387, R398, R401, R396, R402, R452, R453)
  | watchdogExpiry
  | lockstepDisagree
  | ccMemoryError
  | firmwareLoaded (readable : Bool)
  | ccRestartTimeout
  | resetAckTimeout (engine : Nat)
  | fidDumpDone (timeouts unreadables : List Nat)
  | selfRefreshEntered
  | selfRefreshTimeout
  | fuseReadDone (fuses : Fuses) (crcOk : Bool) (caps : BitVec 512)
  | reinstatementDone (found : List (Nat × Nat)) (failedSlices : List Nat)
  | functionLevelReset (fn : Nat)
  | l5DrainTimeout
  | summaryWaitTimeout
  | trayAck
  | pwrCycleReqRetry
  | pwrCycleReqReassert
  | fabPwrOkChange (level : Bool)
  | fabRstNAssert (lowNs : Nat)
  | fabRstNRelease
  | firmwareImageReceived (image : List Byte)
  -- sensors, rails, test access (R463, R450, R464)
  | sensorReadingDue
  | sensorReply (addr : Nat) (data : BitVec 16)
  | sensorNoReply (addr : Nat)
  | railOutOfBand (xa : Bool)
  | tapInstruction (ir : Byte)
  | vfQuiesceTimeout (fn : Nat)
  | ledgerAccessDone (op : LedgerOp)
  | escrowRetryDue (slice : Nat)
  | errOutMinLowEnd
  | trstNAssert
  | formingFitDeadline (sq : Nat)
  | enginePortTimeout (engine : Nat) (bound : PortBound)
deriving DecidableEq, Repr

end Sys2Proof
end

