-- ==== Sys2Proof/Config.lean ====
section
/-! DEFINITION. The integration parameters (R449) at the values of the Thondizon T7, and the free values:
constants without a body, about which nothing can be proved. -/

namespace Sys2Proof.Config

/-- R449: compute engines. -/
def engines : Nat := 256
/-- R449: DMA engines. -/
def dmaEngines : Nat := 64
/-- R449: memory stacks. -/
def stackCount : Nat := 12
/-- R449: channels of a stack. -/
def channels : Nat := 32
/-- R449: link ports. -/
def ports : Nat := 32
/-- R449: temperature sensors, one for every four clusters. -/
def sensors : Nat := 16
/-- R449: tile budget limit in ns (R71). -/
def budgetLimitNs : Nat := 4000
/-- R449, the T7 reference host: size of a stack in GiB. -/
def stackGib : Nat := 48
/-- R201: loaded latency of a stack, a link port and the host port. -/
def latStack : Nat := 600
def latLink : Nat := 1000
def latHost : Nat := 1500
/-- R201: credit pools. -/
def poolStack : Nat := 8192
def poolLink : Nat := 1024
def poolHost : Nat := 768
/-- R201: the fabric's own credits. -/
def fabCredStack : Nat := 256
def fabCredLink : Nat := 16
def fabCredHost : Nat := 71
/-- R201: rated bandwidth in GB/s; a link port's is per active lane. -/
def ratedStack : Nat := 3200
def ratedLane : Nat := 28
def ratedHost : Nat := 112
/-- R201: the fabric rate in GB/s. -/
def fabRateStack : Nat := 100
def fabRateLink : Nat := 4
def fabRateHost : Nat := 12
/-- R61 check 8: limit of the sum of host minimums on the T7. -/
def hostMinLimit : Nat := 100
/-- R201: grants in one regulator cycle. -/
def grantsStack : Nat := 8
def grantsOther : Nat := 1
/-- R451: the regulator clocks on the T7 in MHz (memory stack, link pair, PCIe). -/
def mhzStack : Nat := 1600
def mhzLink : Nat := 1750
def mhzHost : Nat := 1000
/-- R213: remainder rate during a throttle, percent. -/
def remPct : Nat := 50
/-- R55 and the T7 plan: the reserved region, stacks and GiB range. -/
def reservedStacks : List Nat := [9, 10, 11]
def reservedBaseGib : Nat := 32
def reservedSizeGib : Nat := 16
/-- R172: base of the sequence aperture. -/
def apertureBase : Nat := 0xF00000000000
/-- R30, R34, R71: the nominal engine clock of a grade (R462). -/
def engineMhz (grade : BitVec 8) : Nat := 1600 + 100 * (grade.toNat / 16)
/-- R462: rated stress hours of a grade. -/
def ratedStressH (grade : BitVec 8) : Nat := 8760 * (grade.toNat % 16 + 1)
/-- Free value: the on-die distance of a cluster from a stack, fixed from the host's floor plan (R449 STACK_ORDER). -/
opaque stackDistance : Nat → Nat → Nat
/-- Free value: the AES-256-GCM tag of additional data under a key and a nonce with empty plaintext (R415, R416). -/
opaque gcmTag : BitVec 256 → BitVec 96 → BitVec 384 → BitVec 128
/-- Free value: the n-th 64-bit draw from the security block's random source (R234, R252). -/
opaque randomWord : Nat → Word
/-- Free value: a byte that the rules leave open (an undefined byte of memory or of a report). -/
opaque freeByte : Nat → Byte
/-- Free value: a byte of a 64-byte data unit under XTS-AES-256 (R309): by the installed key's number, the tweak, the
plaintext and the byte's place. The keys' bits lie in the security block and the XTS agents alone. -/
opaque xtsByte : Nat → Nat → List Byte → Nat → Byte
/-- Free value: a byte that a data unit reads as under another key than it was written with, or that Whipping stored
unencrypted (R309): by the two key numbers, the tweak, the plaintext and the byte's place. -/
opaque otherKeyByte : Nat → Nat → Nat → List Byte → Nat → Byte
/-- Free value: a byte of the AES-256-GCM key stream of a content key (R320): by the installed key's number, the nonce and the
byte's place. -/
opaque gcmStream : Nat → BitVec 96 → Nat → Byte
/-- Free value: the AES-256-GCM tag under a content key (R320): by the installed key's number, the nonce, the additional data
and the ciphertext. -/
opaque packageTag : Nat → BitVec 96 → List Byte → List Byte → List Byte
/-- Free value: a word that the rules leave open. -/
opaque freeWord : Nat → Word
/-- Free value: the expected signature of an engine test for a seed (R362, R455). -/
opaque testSignature : Word → Word
/-- Free value: the ECDSA signature that the security block puts on a report (R323). -/
opaque signature : BitVec 384 → BitVec 768
/-- Free value: the SYNDROME of a record, where the rule that raises its cause gives no bytes (R347): of the record's
number, its cause and the facts that the rule has it carry. -/
opaque syndrome : BitVec 32 → BitVec 16 → BitVec 192 → BitVec 192
/-- Free value: the content of a ledger log entry of a kind with its values; R365 fixes only its length and its CRC. -/
opaque ledgerBody : Nat → Nat → Nat → Nat → List Byte
/-- Free value: the stall and stretch time of an engine's running tile since its start, as the engine agent counts it
(R72): by engine, start and moment. -/
opaque pausedBy : Nat → Nat → Nat → Nat
/-- Free value: the fabric's own power and rail words that no rule computes. -/
opaque sectionBytes : Nat → Nat → List Byte

end Sys2Proof.Config
end

