-- ==== Sys2Proof/Machine/State.lean ====
section
/-! DEFINITION. The state of the fabric as plain data. Every field's default is its value at reset; the comment
behind a field names its rule, its width where the spec gives one, and what it holds. -/

namespace Sys2Proof.Machine

/-- A control packet whose reply is still to be written (R411). -/
structure Req where
  path : Path
  opcode : BitVec 16
  seq : BitVec 32
deriving DecidableEq, Repr

/-- The variable part of a reply: status, detail and bytes 0x20 to 0x3F (R411, R413). -/
structure Reply where
  status : Byte := 0
  detail : BitVec 16 := 0
  result : BitVec 256 := 0
deriving DecidableEq, Repr

/-- A command on the engine port (R454, R455). -/
inductive EngineCmd where
  | issue (body : BitVec 576)
  | abort
  | reset
  | scrub
  | test (seed : Word)
  | inject (bits : Nat)
  | regions
  | spRead (offset length : Nat)
deriving DecidableEq, Repr

/-- A message that the fabric sends on a link port (R75, R199, R283, R286 to R288, R291, R299, R403). -/
inductive LinkMsg where
  | sync (time frameNum period : Nat)
  | delayRequest
  | delayResponse
  | join (job crc : BitVec 32)
  | joinDone (job : BitVec 32)
  | ready (job : BitVec 32) (t : Token)
  | go (job : BitVec 32) (t : Token)
  | abort (job : BitVec 32) (step : Nat) (cause : AbortCause)
  | chunk (h : ChunkHdr) (payload : List Byte) (crc : BitVec 32)
  | ack (h : ChunkHdr)
  | nack (h : ChunkHdr)
  | broken (job : BitVec 32)
  | reserve (job : BitVec 32) (size : Nat)
  | release (job : BitVec 32)
  | windowReply (request : Nat) (code : Nat)
  | windowData (request : Nat) (data : List Byte)
  | remote (peer window offset length : Nat) (write : Bool)
  | notice (kind chip : Nat) (job : BitVec 32) (time l4 : Nat)
deriving DecidableEq, Repr

/-- How a link unit is sealed (R314): its 8-byte crypto header, its 96-bit nonce and its additional data. The ciphertext and
the tag are the GCM agent's, under a key that no other logic reads. -/
structure Seal where
  header : Word
  nonce : BitVec 96
  aad : List Byte
deriving DecidableEq, Repr

/-- What the fabric drives or writes outside itself, in order, as the commands make it happen. -/
inductive Out where
  | reply (path : Path) (addr : Nat) (bytes : BitVec 512)
  | cqRecord (fn cq : Nat) (addr : Nat) (bytes : BitVec 256)
  | faultRecord (fn : Nat) (addr : Nat) (bytes : BitVec 512)
  | operatorRecord (bytes : BitVec 512)
  | msix (fn vector : Nat)
  | mapStatus (slice : Nat) (addr : Nat) (status : Byte)
  | engine (engine : Nat) (cmd : EngineCmd)
  | engineXrsp (engine : Nat) (rsp : BitVec 128)
  | mcRequest (stack chan : Nat) (word : Word) (data : List Byte)
  | miResponse (stack chan : Nat) (tag status : Nat) (data : List Byte)
  | link (port : Nat) (auth : Seal) (m : Option LinkMsg)
  | readData (fn offset size : Nat) (v : Word)
  | keyPort (op : Nat) (arg : Nat) (blob : BitVec 1024)
  | dumpCopy (addr : Nat) (bytes : List Byte)
  | report (path : Path) (addr : Nat) (bytes : BitVec 4096)
  | hostCopy (addr : Nat) (what : Nat) (words : List Word)
  | accessCopy (addr : Nat) (words : List (BitVec 32))
  | notice (kind chip : Nat) (job : BitVec 32) (time l4 : Nat)
  | sensor (addr : Nat)
  | selfRefresh (enter : Bool)
  | ledger (what : Nat) (bytes : List Byte)
  | flrDone (fn : Nat)
  | requestFirmware
  | syncOut
  | tdo (v : BitVec 32)
  | scratchWrite (engine offset : Nat) (data : List Byte)
  | measurement (index : Nat) (bytes : List Byte)
deriving DecidableEq, Repr

/-- What a write to host memory does for a function: a record, a fault record, an MSI-X message, a reply or a report (R398). -/
def Out.isFor (n : Nat) : Out → Bool
  | .cqRecord fn _ _ _ => fn == n
  | .faultRecord fn _ _ => fn == n
  | .msix fn _ => fn == n
  | .reply path _ _ => path == .fn n
  | .report path _ _ => path == .fn n
  | _ => false
/-- What still reaches host memory for a slice that is being removed: completion records and MSI-X messages, and the replies to
its functions (R335). -/
def Out.endures : Out → Bool
  | .cqRecord _ _ _ _ => true
  | .msix _ _ => true
  | .reply _ _ _ => true
  | _ => false

/-- A write of device memory that the running command has asked for; the writes reach the memory in order. -/
inductive MemOp where
  | bytes (addr : Nat) (data : List Byte)
  | zero (addr len : Nat)
  | wipe
deriving DecidableEq, Repr

/-! ### Frames (chapter 3) -/

/-- One frame table bank: the 64-byte header and the 64-byte entries (R79, R80, R82). -/
structure Bank where
  header : BitVec 512 := 0               -- R80, 512: header, byte 0 in bits [7:0]
  entries : Tab (BitVec 512) := []       -- R82, 512 each: slot entries 0 to 1,023; an unlisted entry is zeros
deriving DecidableEq, Repr

/-- A half of the shadow header (`none`) or of a shadow entry, written in the last 200 ns before a switch (R87). -/
structure HeldWrite where
  entry : Option Nat
  half : Nat
  data : BitVec 256
deriving DecidableEq, Repr

/-- The trim record of an entry of the active bank (R102). -/
structure Trim where
  steps : Nat := 0                       -- R102, 0 to 4: steps of 500 ns
  history : List Bool := []              -- R102: exhaustion in the last 16 frames in which the entry ran, newest first
  clean : Nat := 0                       -- R102: consecutive frames without exhaustion
deriving DecidableEq, Repr

/-- A pending table switch (R87). `due` is the frame number whose boundary performs it. -/
structure Switch where
  due : Nat
  req : Option Req
deriving DecidableEq, Repr

/-- What the FS fixed 200 ns before a boundary (R89). -/
structure Fixed where
  retire : List (BitVec 32)
  switch : Bool
  amend : List Nat
  activate : List Nat
deriving DecidableEq, Repr

/-- Parameters of FRAME_SYNC_SET waiting for a boundary (R425). -/
structure SyncSet where
  mode : Nat
  port : Nat
  pinDelay : Nat
  adopt : Nat
  req : Req
deriving DecidableEq, Repr

/-- Alignment across chips (R74 to R78). -/
structure Sync where
  mode : Nat := 0                        -- R74, 3: synchronisation mode
  port : Nat := 0                        -- R104, 5: SYNC_PORT
  pinDelay : Nat := 0                    -- R104, 10: PIN_DELAY_NS
  adopt : Nat := 0                       -- R77, 48: frame number that a pin follower adopts
  waiting : List SyncSet := []           -- R425: FRAME_SYNC_SET packets due at the next boundary, in order of acceptance
  adopted : Bool := false                -- R76: the follower has taken the master's time
  locked : Bool := false                 -- R78: SYNC_LOCKED
  offset : Int := 0                      -- R104, 16: OFFSET_NS, saturated
  okFrames : Nat := 0                    -- R78: consecutive frames with an offset of at most 50 ns
  missRun : Nat := 0                     -- R78: consecutive frames or windows without input
  missCnt : Nat := 0                     -- R104, 16: MISS_CNT, RC
  glitchCnt : Nat := 0                   -- R104, 16: GLITCH_CNT, RC
  pathDelay : Nat := 0                   -- R75: half the measured round trip
  steerPpm : Int := 0                    -- R75: rate correction in force, within 100 ppm
  seen : Bool := false                   -- R78: a message was taken since the last boundary
  missed : Bool := false                 -- R78: this frame has been counted as one without a message
  window : Option Nat := none            -- R77: boundary whose pin window was decided last
  unlockedNoted : Bool := false          -- R297: the NOTE for the present unlocked span has been sent
  delayIn : Nat := 0                     -- R75: frames until the next path delay measurement, 0 when it is due
  delayAsked : Bool := false             -- R75: a path delay request awaits its response
deriving DecidableEq, Repr

/-- The Frame Sequencer and fabric time. -/
structure Frame where
  time : Nat := 0                        -- R6, R104, 64: IRX_FABRIC_TIME, ns
  frameNum : Nat := 0                    -- R70, 48: frame number
  seqPos : Nat := 0                      -- R81, 6: position in the pattern sequence
  boundaryAt : Nat := 0                  -- R69: fabric time of the boundary that began the frame
  periodNs : Nat := 40000                -- R69, 18: PERIOD_NS in force
  guardNs : Nat := 500                   -- R104, 12: default guard band in force
  seqLen : Nat := 1                      -- R104, 7: SEQ_LEN in force
  active : Bool := false                 -- R79, 1: ACTIVE_BANK
  bank0 : Bank := {}                     -- R79: bank 0
  bank1 : Bank := {}                     -- R79: bank 1
  checked : Bool := false                -- R86: SHADOW_CHECKED
  checkResult : Nat := 0                 -- R425: 0 none, 1 passed, 2 failed
  lastCheck : Nat := 0                   -- R425: LAST_CHECK
  lastEntry : Nat := 0                   -- R425: LAST_ENTRY
  switch : Option Switch := none         -- R87: pending switch
  heldWrites : List HeldWrite := []      -- R87: shadow writes held until the switch boundary
  fixed : Option Fixed := none           -- R89: outcomes of the coming boundary fixed 200 ns before it
  trims : Tab Trim := []                 -- R102: trims of the active bank's entries
  slackRun : List (Nat × Nat) := []      -- R116: entries and engines whose slack holds: the start has passed and the slice stays armed
  slackSeen : List (Nat × Nat) := []     -- R116: entries and engines whose slack start has passed in this frame
  closed : List (Nat × Nat) := []        -- R94: entries and engines whose issue window has ended in this frame
  begun : List Nat := []                 -- R89: entries whose slot has started in this frame
  ended : List Nat := []                 -- R101: entries whose slot has ended in this frame
  sync : Sync := {}                      -- R74 to R78: alignment
deriving DecidableEq, Repr

/-! ### Tiles, engines and descriptors (chapters 3, 4, 5, 9, 13) -/

/-- Why a run was started (R249, R257, R374, R362). -/
inductive RunKind where
  | first | replay | second | third | isolated
deriving DecidableEq, Repr

/-- One tile in an engine queue or running (R91, R258, R374). -/
structure Run where
  sq : Nat := 0                          -- R455: chip-wide queue
  seq : BitVec 32 := 0                   -- R455: descriptor sequence number
  inst : Nat := 0                        -- R111: conditional tile index, 0 for a plain tile
  members : List (BitVec 32) := []       -- R122: further members of a formed tile, in descriptor order
  kind : RunKind := .first               -- R257: kind of run
  slice : Nat := 0                       -- R89: slice it runs for
  budgetNs : Nat := 0                    -- R71: budget time
  nonPreempt : Bool := false             -- R73: non-pre-emptible
  nonReplay : Bool := false              -- R150: non-replayable
  cond : Bool := false                   -- R114: a conditional tile, which fits against E'
  suppress : Bool := false               -- R258: WRITE_SUPPRESS
  notBefore : Nat := 0                   -- R93: earliest start when placed against a contiguous slot
  startAt : Nat := 0                     -- R72: fabric time of the start
  watched : Bool := false                -- R249: engine was watched when the run started
  excursion : Bool := false              -- R249: droop or hot sensor seen during the run
  preempt : Bool := false                -- R95: pre-emption raised
  onEnd : Option Nat := none             -- R161, R317: status the descriptor takes when the run is cut off
  hang : Bool := false                   -- R98: aborted as a hang suspect
  void : Bool := false                   -- R265: an extra run that an L2 or a retirement has made void
deriving DecidableEq, Repr

/-- Service state of an engine (R51, R52, R380, R381). -/
inductive EngineState where
  | absent | inService | resetting | outOfService | retired
deriving DecidableEq, Repr

/-- One compute engine and its agent. -/
structure Engine where
  state : EngineState := .absent         -- R51, R380: service state
  exact : Bool := false                  -- R454: EP_CAP[0]
  sparse : Bool := false                 -- R454: EP_CAP[1]
  queue : List Run := []                 -- R91, at most 8: queued tiles, next first
  running : Option Run := none           -- R91: the running tile
  latch : Option Nat := none             -- R89: slice named by the slot-owner latch in effect
  nextLatch : Option (Option Nat) := none -- R89: latch value loaded for the next slot start
  noPlace : Bool := false                -- R53, R374: no further tile is placed
  charges : Tab Nat := []                -- R100: overrun charge by slice, ns
  applied : Nat := 0                     -- R100: charge that the slot in progress bears, ns
  lateFrom : Nat := 0                    -- R99: fabric time of E while a tile of the slot still runs
  aborting : Bool := false               -- R95: an ABORT is outstanding
  abortFrom : Nat := 0                   -- R457: fabric time of that ABORT
  resetReq : Option Req := none          -- R406: ENGINE_RESET reply due at completion
  resetWait : Bool := false              -- R380: an ENGINE_RESET waits for a non-pre-emptible tile
  resetFrom : Nat := 0                   -- R381: fabric time of the RESET command
  resetSent : Bool := false              -- R380: the port RESET of the L2 in progress is sent
  testSeed : Option Word := none         -- R362: seed of the test that runs
  testDue : Bool := false                -- R362: a test is due
  testAt : Nat := 0                      -- R362: ledger time at which a test last fell due
  testHeld : Bool := false               -- R363: its test is postponed to the next frame
  testFrom : Nat := 0                    -- R362: start of the running test
  testOwner : Option Nat := none         -- R363: slice the test borrows from
  testFailAt : Option Nat := none        -- R364: ledger time of the last failed test
  testComp : Option (Nat × Nat) := none  -- R363: slice and borrowed ns, compensated at the next boundary
  scrubbing : Bool := false              -- R336: a SCRUB is outstanding
  scrubFrom : Nat := 0                   -- R457: fabric time of that SCRUB
  spPending : Nat := 0                   -- R394: SP_READ beats outstanding
  regionsDue : Bool := false             -- R394: a REGIONS command is outstanding
  regions : BitVec 512 := 0              -- R455: last REGIONS report
  regionCount : Nat := 0                 -- R455: its region count
  status : BitVec 768 := 0               -- R455: its status words
  spData : List (BitVec 256) := []       -- R455: beats of the scratchpad sample
deriving DecidableEq, Repr

/-- One physical extent of a bound range (R171, R180). -/
structure Extent where
  target : Nat := 0                      -- R171: 0 device, 1 host, 2 remote
  va : Nat := 0                          -- R180: virtual address
  len : Nat := 0                         -- R180: bytes
  stack : Nat := 0                       -- R171: device: stack
  addr : Nat := 0                        -- R171: device: byte offset in the stack; host: bus address; remote: window offset
  keySel : Nat := 0                      -- R171: key selector
  peer : Nat := 0                        -- R171: remote: PEER_CHIP
  window : Nat := 0                      -- R171: remote: WINDOW
  port : Nat := 0                        -- R199: remote: chosen port
  write : Bool := true                   -- R171, 1: WRITE
deriving DecidableEq, Repr

/-- States in which Belay holds a descriptor (R244). -/
inductive Belay where
  | bound | issued | checking | passed | held | committing
deriving DecidableEq, Repr

/-- Where a descriptor stands before it is bound (R22, R49, R188, R190). -/
inductive Stage where
  | accepted
  | unbound
  | parked (fault : Nat)
  | overflow
  | bound
deriving DecidableEq, Repr

/-- The result that one run returned (R455, R256). -/
structure RunResult where
  engine : Nat := 0                      -- R153: physical engine
  beats : List Beat := []                -- R455: END 0 beats, one for each member
  counted : Nat := 0                     -- R72: counted time
deriving DecidableEq, Repr

/-- A check in progress (R256 to R261). -/
structure Check where
  run1 : RunResult := {}                 -- R259: the first run
  run2 : Option RunResult := none        -- R259, R261: the replay or second run
  run3 : Option RunResult := none        -- R259, R261: the third run
  triggers : BitVec 6 := 0               -- R249, 6: trigger bits
  wanted : Option RunKind := none        -- R257: an extra run that waits for placement
  placed : Bool := false                 -- R257: the wanted run is on an engine
  projection : Bool := false             -- R256: projection path
  job : Option Nat := none               -- R232: CAU job the verdict waits for
  lastLane : Option Nat := none          -- R261: lane of the previous computation of v
  lastCrc : Option (BitVec 32) := none   -- R261: its CRC
  altCrc : Option (Nat × BitVec 32) := none -- R261: a differing computation and its lane
  engines : List Nat := []               -- R257: engines of earlier runs
  avoid : List Nat := []                 -- R257, R265: engines on which a run of the descriptor hung
deriving DecidableEq, Repr

/-- One tile of a conditional descriptor (R111, R112). -/
structure Inst where
  belay : Belay := .bound                -- R244: state, codes 0 to 3
  failed : Option Nat := none            -- R110: completion status with which it failed
  replayed : Bool := false               -- R110: committed after a replay
  engine : Nat := 0xFFFF                 -- R153: engine
  counted : Nat := 0                     -- R153: counted time
  started : Bool := false                -- R153: has been issued
  rows : List Extent := []               -- R192: bound rows of a gather
  rowsReady : Bool := false              -- R192: run-ahead has bound every row
  rowsOnce : Bool := false               -- R194: its rows have been bound once
  parkedOn : Option Nat := none          -- R188: fault on which it is parked
  waits : Bool := false                  -- R190: it stands in the overflow list
  check : Option Check := none           -- R256: check in progress
deriving DecidableEq, Repr

/-- A pool operation's place in the pool step (R129). -/
structure Desc where
  seq : BitVec 32 := 0                   -- R140, 32: sequence number
  order : Nat := 0                       -- R129, R190: order of acceptance on the chip
  acceptedAt : Nat := 0                  -- R129: fabric time of its acceptance
  stage : Stage := .accepted             -- R22: step reached before binding
  belay : Belay := .bound                -- R244: Belay state
  raw : BitVec 512 := 0                  -- R145 to R147: bytes read from the ring
  extents : List (List Extent) := []     -- R180: extents of the ranges, by range number
  epoch : BitVec 32 := 0                 -- R180, 32: epoch of the binding
  stale : Bool := false                  -- R184: must be rebound before it is issued
  firstBound : Bool := false             -- R194: has been bound once
  waitVal : BitVec 32 := 0               -- R157, 32: W
  ending : Option Nat := none            -- R161, R317, R334: status it takes in place of running on, once its runs have ended
  status : Nat := 0                      -- R13: completion status once PASSED
  detail : Nat := 0                      -- R153: DETAIL
  engine : Nat := 0xFFFF                 -- R153: physical engine whose result commits; 0xFFFF none
  counted : Nat := 0                     -- R153: COUNTED_NS
  fenceErr : Bool := false               -- R158: FENCE_ERR
  noContext : Bool := false              -- R151: the descriptor could not be read
  count : Option Nat := none             -- R108, 32: count C
  insts : Tab Inst := []                 -- R111: its tiles, by ascending index
  nInst : Nat := 0                       -- R109: N
  check : Option Check := none           -- R256: check of a plain or formed tile
  members : List (BitVec 32) := []       -- R122: members of the formed tile it leads
  readyAt : Option Nat := none           -- R121: fabric time at which it became ready
  fullStall : Bool := false              -- R156: its wait for queue room has been counted
  quota : Bool := false                  -- R49: holds a unit of the tile quota
  poolPages : List Nat := []             -- R131: pool pages its extents cover
  deferred : Bool := false               -- R129: a JOIN deferred by a pool step
  runNamed : Bool := false               -- R383: a fault record names its run
  started : Bool := false                -- R383: a run of it has started and has not returned its digest
  begun : Bool := false                  -- R150, R275: NON_REPLAY, and a run of it had started before an L4
deriving DecidableEq, Repr

/-- One submission queue (R137, R140). -/
structure Sq where
  fn : Nat := 0                          -- R137: function
  loc : Nat := 0                         -- R138: function-local index
  slice : Nat := 0                       -- R137: slice
  gen : Nat := 0                         -- R2, 2: generation
  ringLog2 : Nat := 0                    -- R137: log2 of the ring size
  ringStack : Nat := 0                   -- R137: physical stack of the ring
  ringBase : Nat := 0                    -- R137: byte offset of the ring in the stack
  cq : Nat := 0                          -- R137: function-local completion queue
  defBudget : Nat := 0                   -- R137, 16: DEFAULT_BUDGET
  defFlags : Byte := 0                   -- R137, 8: DEFAULT_FLAGS
  formWait : Nat := 0                    -- R137, 16: FORM_WAIT_NS
  state : Nat := 1                       -- R165, 2: 0 CLOSED, 1 OPEN, 2 DRAINING, 3 STOPPED
  tail : BitVec 32 := 0                  -- R140, 32: TAIL
  accepted : BitVec 32 := 0              -- R140, 32: ACCEPTED
  issue : BitVec 32 := 0                 -- R140, 32: ISSUE
  commit : BitVec 32 := 0                -- R140, 32: COMMIT
  shAccepted : BitVec 32 := 0            -- R163, 32: journal shadow of ACCEPTED
  shCommit : BitVec 32 := 0              -- R163, 32: journal shadow of COMMIT
  dbErr : Nat := 0                       -- R165, 16: DB_ERR_CNT, RC
  dbShut : Nat := 0                      -- R165, 16: DB_SHUT_CNT, RC
  formErr : Nat := 0                     -- R165, 16: FORM_ERR_CNT, RC
  descs : List Desc := []                -- R24: held descriptors from COMMIT to ACCEPTED, in order
  destroy : Option Req := none           -- R136: SQ_DESTROY reply due when the queue is free
  group : Option Nat := none             -- R282: group whose step queue it is
  latched : Option (BitVec 32) := none   -- R384: doorbell value latched during L4
  cancels : List (Req × Nat × BitVec 32) := [] -- R161: CTX_CANCEL replies due, with the context and the ACCEPTED pointer of the scope
  scopes : List (Nat × BitVec 32) := []  -- R161: cancelled contexts with the ACCEPTED pointer at the receipt, for descriptors not yet read
  streams : Tab (Nat × Nat × Nat) := []  -- R191: armed streams by range: end, length, last use
  lastRange : Tab (Nat × Nat) := []      -- R191: end and length of the last bound range, by range number
deriving DecidableEq, Repr

/-- One completion queue (R139, R154). -/
structure Cq where
  log2 : Nat := 0                        -- R139: log2 of the entries
  addr : Nat := 0                        -- R139, 64: host address
  vector : Nat := 0                      -- R139, 6: MSI-X vector
  coalesceNs : Nat := 0                  -- R139, 16: COALESCE_NS
  head : BitVec 32 := 0                  -- R154, 32: head
  tail : BitVec 32 := 0                  -- R154, 32: tail
  fullStall : Nat := 0                   -- R165, 16: FULL_STALL_CNT, RC
  headErr : Bool := false                -- R165, 1: HEAD_ERR, W1C
  quietUntil : Nat := 0                  -- R155: end of the coalescing interval
  owed : Bool := false                   -- R155: a record inside the interval waits for its message
  shHead : BitVec 32 := 0                -- R163, 32: journal shadow of the head
  shTail : BitVec 32 := 0                -- R163, 32: journal shadow of the tail
  shRecord : BitVec 256 := 0             -- R163, 256: journal shadow of the last record
  ahead : List (BitVec 32 × BitVec 256) := [] -- R247: records in the host ring from the shadow tail on, with their positions, oldest first
deriving DecidableEq, Repr

/-- One fence (R157). -/
structure Fence where
  value : BitVec 32 := 0                 -- R165, 32: VALUE
  error : Bool := false                  -- R165, 1: ERROR, W1C
  irqEn : Bool := false                  -- R165, 1: IRQ_EN
  vector : Nat := 0                      -- R165, 6: VECTOR
  shValue : BitVec 32 := 0               -- R388, 32: journal shadow of VALUE
  shError : Bool := false                -- R388, 1: journal shadow of ERROR
deriving DecidableEq, Repr

/-- A host ring configured by an enable-locked register (R353, R411, R446). -/
structure Ring where
  addr : Nat := 0                        -- R370, R432, 52: ADDR, host address bits [63:12]
  log2 : Nat := 0                        -- R370, R432, 4: RING_LOG2
  vector : Nat := 0                      -- R370, R432, 6: VECTOR
  enable : Bool := false                 -- R370, R432, 1: ENABLE
  head : BitVec 32 := 0                  -- R353, 32: head
  tail : BitVec 32 := 0                  -- R353, 32: tail
  lost : Nat := 0                        -- R370, R432, 16: LOST_CNT or DROP_CNT, RC
  lostRun : Nat := 0                     -- R353: records discarded since the last one written
  headErr : Bool := false                -- R370, R432, 1: HEAD_ERR, W1C
  disableHeld : Bool := false            -- R446: a write clearing ENABLE is held
  heldVector : Nat := 0                  -- R446, 6: VECTOR of the held write
deriving DecidableEq, Repr

/-- One PCIe function (R136, R165). -/
structure Fn where
  slice : Option Nat := none             -- R48: slice in which the VF is enabled
  faultRing : Ring := {}                 -- R370: IRX_FAULT_RING, IRX_FAULT_POS
  ctlRing : Ring := {}                   -- R432: IRX_CTL_RING, IRX_CTL_STATUS
  ctlReq : Tab Word := []                -- R432, 64 each: IRX_CTL_REQ words 0 to 6
  intake : List (Packet × Nat) := []     -- R408, R161: packets not yet accepted, with the order of the next descriptor at their receipt
  waiting : List (BitVec 512) := []      -- R411: replies that wait for ring room
  attest : Word := 0                     -- R343, 64: IRX_ATTEST_ADDR
  fences : Tab Fence := []               -- R157: IRX_FENCE
  sqs : Tab Nat := []                    -- R138: chip-wide number of each function-local queue
  cqs : Tab Cq := []                     -- R138: completion queues by function-local index
  dbShut0 : Nat := 0                     -- R143, 16: DB_SHUT_CNT of index 0 while it holds no queue
  resetState : Nat := 0                  -- R407, 2: IRX_VF_RESET.STATE
  discarded : Nat := 0                   -- R407, 32: IRX_VF_RESET.DISCARDED
  quiesceReq : Option Req := none        -- R397: VF_QUIESCE reply due
  quiesceAt : Nat := 0                   -- R397: fabric time of its acceptance
  flr : Bool := false                    -- R398: a function-level reset is in progress
  silent : Bool := false                 -- R398: no record, fault record or message is written
deriving DecidableEq, Repr

/-! ### Slices (chapter 2) -/

/-- States of a slice (R56). -/
inductive SliceState where
  | free | defining | created | active | resetting | removing | whipping
deriving DecidableEq, Repr

/-- A live sequence of the key/value pool (R126, R128). -/
structure Seqn where
  tag : Nat := 0                         -- R126: join tag
  ctx : Nat := 0                         -- R129: context
  fn : Nat := 0                          -- R133: function of its queue
  tokens : Nat := 0                      -- R128: T
  grow : Nat := 0                        -- R128: g
  perPage : Nat := 1                     -- R128: t
  pages : List Nat := []                 -- R126: pool pages held, in window order
  joinedAt : Nat := 0                    -- R129: join order
  low : Bool := false                    -- R133: the NOTE for this low span has been sent
deriving DecidableEq, Repr

/-- The key/value page pool of a slice (R125 to R135). -/
structure Pool where
  size : Nat := 0                        -- R125: pages of 64 KiB in the pool
  seqs : Tab Seqn := []                  -- R126: live sequences by SEQ_ID
  draining : List Nat := []              -- R131: pages released and still referenced
  joins : Nat := 0                       -- R129: next join order
  leaves : List (Nat × Nat) := []        -- R134: implicit LEAVEs due at the next step: SEQ_ID and key in admission order
deriving DecidableEq, Repr

/-- Counters of a slice that software reads at frame boundaries; the live copy and the published copy have this shape. -/
structure Counts where
  guardStall : Nat := 0                  -- R99, 64: GUARD_STALL_NS
  guardStretch : Nat := 0                -- R99, 64: GUARD_STRETCH_NS
  overrun : Nat := 0                     -- R99, 64: OVERRUN_NS
  exhaust : Nat := 0                     -- R99, 64: EXHAUST_COUNT
  checked : Nat := 0                     -- R277, 32: CHECKED_CNT
  extraRuns : Nat := 0                   -- R277, 32: EXTRA_RUNS
  arbitrations : Nat := 0                -- R277, 16: ARBITRATIONS
  heldCnt : Nat := 0                     -- R277, 16: HELD_CNT
  unverified : Nat := 0                  -- R277, 16: UNVERIFIED_CNT
  mismatch : Nat := 0                    -- R277, 15: MISMATCH_CNT
  sameEngine : Bool := false             -- R277, 1: SAME_ENGINE
  trig : List Nat := [0, 0, 0, 0, 0, 0]  -- R277, 10 each: CHKROW, CE, WATCH, EXCURSION, AUDIT, FORCE counts
  bwMem : List Nat := [0, 0, 0, 0, 0, 0, 0, 0]  -- R210, 64 each: IRX_BW_MEM
  bwLink : List Nat := [0, 0, 0, 0, 0, 0, 0, 0] -- R210, 64 each: IRX_BW_LINK
  bwHost : List Nat := [0, 0, 0, 0, 0, 0, 0, 0] -- R210, 64 each: IRX_BW_HOST
  bytes : Tab Nat := []                  -- R429, 64 each: bytes by resource times 8 plus class
  shortfall : Tab Nat := []              -- R212, 64 each: SHORTFALL by resource times 8 plus class, with 16 fractional bits
deriving DecidableEq, Repr

/-- One window of executions of an engine for a slice (R252). -/
structure Audit where
  n : Nat := 0                           -- R252, 32: execution count
  pos : Nat := 0                         -- R252: drawn position
deriving DecidableEq, Repr

/-- Drag figures of an engine for a slice (R214, R216). -/
structure Drag where
  avg : Nat := 0                         -- R216, 16: DRAG_AVG
  last : Nat := 0                        -- R216, 16: DRAG_LAST
  memPct : Nat := 0                      -- R216, 8: MEM_PCT
  linkPct : Nat := 0                     -- R216, 8: LINK_PCT
  stallPct : Nat := 0                    -- R216, 8: STALL_PCT
  stretchPct : Nat := 0                  -- R216, 8: STRETCH_PCT
  act : Nat := 0                         -- R214: active ns of the frame
  busy : Nat := 0                        -- R214: busy ns of the frame
  memNs : Nat := 0                       -- R214: memory wait ns of the frame
  linkNs : Nat := 0                      -- R214: link wait ns of the frame
  stallNs : Nat := 0                     -- R214: stall ns of the frame
  stretchNs : Nat := 0                   -- R214: stretch ns of the frame
  noted : Bool := false                  -- R215: the NOTE has been sent and DRAG_AVG has not fallen below 320
deriving DecidableEq, Repr

/-- A memory object handle (R160). -/
structure Handle where
  state : Nat := 0                       -- R160, 2: 0 FREE, 1 LIVE, 2 DOOMED, 3 UNMAPPING
  fn : Nat := 0                          -- R160: owning function
  tag : Nat := 0                         -- R160: address-space tag
  va : Nat := 0                          -- R160, 48: start
  len : Nat := 0                         -- R160: bytes
  releasedAt : Nat := 0                  -- R160: acceptance order at the release
deriving DecidableEq, Repr

/-- An unmap that awaits its census (R184, R185). -/
inductive UnmapKind where
  | record (index : Nat) (addr : Nat)
  | handle (h : Nat)
  | tag (tag : Nat) (req : Option Req)
deriving DecidableEq, Repr

structure Unmap where
  kind : UnmapKind
  tag : Nat
  va : Nat
  len : Nat
  holders : List (Nat × BitVec 32)       -- R185: stale running or checking descriptors that can reach memory
  since : Nat                            -- R184: fabric time of the application
  phys : List Extent                     -- R185: what the span reached in memory, on the host and at peers
deriving DecidableEq, Repr

/-- A frame of a slice's table area (R169, R170). -/
structure TableFrame where
  tag : Nat := 0                         -- R170: tag whose frame it is
  level : Nat := 0                       -- R170: 0 root, 1 upper, 2 middle table; 3 leaf tables; 4 counter blocks
  places : Tab Nat := []                 -- R170: what lies in each place: the index of the table's span; 1, 16 or 2 places
deriving DecidableEq, Repr

/-- An open translation fault (R188). -/
structure OpenFault where
  tag : Nat := 0                         -- R188: tag
  page : Nat := 0                        -- R188, 32: VA[47:16]
  cause : Nat := 0                       -- R179: cause
  openedAt : Nat := 0                    -- R189: fabric time of the opening
deriving DecidableEq, Repr

/-- The map queue and translation state of a slice (R174 to R190). -/
structure SliceTu where
  base : Word := 0                       -- R200, 64: IRX_MAPQ_BASE
  tail : BitVec 32 := 0                  -- R174, 32: TAIL
  applied : BitVec 32 := 0               -- R174, 32: APPLIED
  retired : BitVec 32 := 0               -- R174, 32: RETIRED
  dbErr : Nat := 0                       -- R200, 16: DB_ERR_CNT, RC
  stalled : Bool := false                -- R200, 1: STALLED
  unretired : List (Nat × Bool) := []    -- R177: applied records not yet retired, oldest first, with "status written"
  unmaps : List Unmap := []              -- R185: unmaps awaiting acknowledgement, oldest first
  faults : Tab OpenFault := []           -- R188: open faults 0 to 15
  walkReads : Nat := 0                   -- R200, 32: WALK_READS
  tcache : List (Nat × BitVec 32 × Nat × Nat) := []  -- R181, 512 entries: tag, epoch, first page, pages; newest use first
  dcache : List (Nat × BitVec 32 × Nat × Nat) := []  -- R181, 256 entries: tag, epoch, level, index; newest use first
  frames : Tab TableFrame := []          -- R169, R170: table frames in use by frame index 0 to 16,383
  streamUses : Nat := 0                  -- R191: count of stream extensions
  windowCnt : List Nat := [0, 0, 0, 0, 0] -- R200, 12 each: NO_WINDOW, KEY, SOURCE, PERM_BOUNDS, NOT_READY counts, RC
deriving DecidableEq, Repr

/-- One slice. -/
structure Slice where
  state : SliceState := .free            -- R56, 3: state
  shadow : BitVec 4096 := 0              -- R59, 4096: shadow record
  parts : BitVec 16 := 0                 -- R61: parts written since DEFINING
  record : BitVec 4096 := 0              -- R60, 4096: installed record
  amendShadow : Option (BitVec 4096) := none -- R423, 4096: amendment shadow
  activate : Option (Req × Nat) := none  -- R63: pending SLICE_ACTIVATE and the frames left
  amend : Option Req := none             -- R64: pending SLICE_AMEND
  amendRec : BitVec 4096 := 0            -- R64, 4096: its replacement record
  oldTags : List (BitVec 16) := []        -- R315: wire tags of its keys that its removal has made EMPTY
  keyBase : Nat := 0                     -- R47, 9: first memory key slot
  engines : List Nat := []               -- R68: physical engine of each slice-local index
  leftEngines : List Nat := []           -- R53: engines that have left the set by retirement
  ports : List Nat := []                 -- R67: physical port of each slice-local index
  stackList : List Nat := []                -- R67: physical stack of each slice-local index
  clusters : List Nat := []              -- R67: physical cluster of each slice-local cluster index
  changeCount : Nat := 0                 -- R67, 16: CHANGE_COUNT
  caps : List (Nat × Word) := []         -- R67, 64 each: IRX_CAP_TABLE words by offset, as last filled
  destroy : Option Req := none           -- R332: SLICE_DESTROY reply due
  zero : Bool := false                   -- R332: ZERO requested
  phase : Nat := 0                       -- R343, 3: removal PHASE
  revokedRecs : Nat := 0                 -- R343, 16: REVOKED_RECORDS
  revokedLost : Nat := 0                 -- R343, 16: REVOKED_LOST
  peerDrops : Nat := 0                   -- R343, 16: PEER_DROPS
  keysZeroed : Bool := false             -- R333: every copy of the slice's slots is zeroed
  escrowTries : Nat := 0                 -- R319: failed escrow destructions
  escrowAsked : Bool := false            -- R319: the security block has been asked to destroy the slice's escrows
  escrowAt : Nat := 0                    -- R319: fabric time of that request, or of its failure
  escrowDone : Bool := false             -- R333: the escrow destruction is confirmed
  zeroing : Bool := false                -- R337: the zero writes run
  scrubs : List Nat := []                -- R336: engines whose SCRUB is outstanding
  resetReq : List Req := []              -- R406: SLICE_RESET replies due when ACTIVE
  resetFrom : Nat := 0                   -- R382: T of the L3 in progress
  l3Engines : List Nat := []             -- R382: engines whose L2 within the L3 is outstanding
  l3Cnt : Nat := 0                       -- R407, 16: L3_CNT
  l1Cnt : Nat := 0                       -- R407, 16: L1_CNT
  hangCtx : Nat := 0                     -- R407, 16: HANG_CONTEXT_CNT
  l2Cnt : Nat := 0                       -- R407, 16: L2_CNT
  auditLog2 : Nat := 10                  -- R252, 5: AUDIT_LOG2
  auditNext : List (Nat × Req) := []     -- R252: values due at the next boundary, in order of acceptance
  audits : Tab Audit := []               -- R252: windows by physical engine
  drags : Tab Drag := []                 -- R214: drag figures by physical engine
  live : Counts := {}                    -- R277: counters as they run
  seen : Counts := {}                    -- R277: counters as published at the last boundary
  condNs : Nat := 0                      -- R116: COND_NS of the running frame
  slackHeld : Nat := 0                   -- R116: SLACK_HELD_NS of the running frame
  condNsPub : Nat := 0                   -- R135, 32: COND_NS
  slackHeldPub : Nat := 0                -- R135, 32: SLACK_HELD_NS
  poolPub : Word := 0                    -- R135, 64: IRX_KV_POOL_STATUS as published
  drainPub : Word := 0                   -- R135, 64: IRX_KV_POOL_DRAIN as published
  pool : Pool := {}                      -- R125: key/value pool
  lastCtx : Option Nat := none           -- R90: context last served
  lastQueue : Tab Nat := []              -- R90: queue last served, by context
  uncommitted : Nat := 0                 -- R49: units of TILE_QUOTA in use
  extentsUsed : Nat := 0                 -- R180: extents in the bound descriptor store
  handles : Tab Handle := []             -- R160: handles
  tu : SliceTu := {}                     -- R174: translation state
  exposure : Nat := 0                    -- R328, 32: DEBUG_EXPOSURE
  packages : Nat := 0                    -- R323, 16: PACKAGES
  packageDigest : BitVec 384 := 0        -- R324, 384: PACKAGE_DIGEST, byte 0 in bits [7:0]
  testCredit : Nat := 0                  -- R370, 32: TEST_CREDIT_NS
  testsRun : Nat := 0                    -- R370, 16: TESTS_RUN
  testFails : Nat := 0                   -- R370, 8: FAILS
  testPostponed : Nat := 0               -- R370, 8: POSTPONED
  attestReqs : List (Req × Nat × BitVec 256) := [] -- R325: reports due at the next boundary: address and nonce
deriving DecidableEq, Repr

/-! ### Translation (chapter 6) -/

/-- One leaf entry (R171), keyed by VA[47:16] of its page. -/
structure Leaf where
  size : Nat := 0                        -- R174, 2: 0 64 KiB, 1 2 MiB, 2 1 GiB
  target : Nat := 0                      -- R171, 2: target
  write : Bool := false                  -- R171, 1: WRITE
  runLog2 : Nat := 0                     -- R171, 3: RUN_LOG2
  keySel : Nat := 0                      -- R171, 9: KEYSEL
  stack : Nat := 0                       -- R171: device stack
  addr : Nat := 0                        -- R171: device byte offset, host address or window offset
  peer : Nat := 0                        -- R171, 16: PEER_CHIP
  window : Nat := 0                      -- R171, 10: WINDOW
deriving DecidableEq, Repr

/-- One address-space tag (R166). -/
structure Tag where
  fn : Nat := 0                          -- R166: holding function
  slice : Nat := 0                       -- R166: slice
  epoch : BitVec 32 := 0                 -- R166, 32: translation epoch
  parkEn : Bool := false                 -- R166, 1: PARK_EN
  accEn : Bool := false                  -- R166, 1: ACC_EN
  timeoutMs : Nat := 1                   -- R166, 10: PARK_TIMEOUT_MS
  destroying : Bool := false             -- R168: ASTAG_DESTROY accepted
  destroyFrom : Nat := 0                 -- R168: order of the next descriptor at its acceptance
  leaves : Tab Leaf := []                -- R170: leaf entries by VA[47:16]
  lost : List (Nat × Nat) := []          -- R173: spans lost to a table error, in pages
  access : Tab (Nat × Nat) := []         -- R194: WRITE_UNITS and READ_UNITS by 2 MiB region
deriving DecidableEq, Repr

/-- One remote window (R196). -/
structure Window where
  state : Nat := 0                       -- R196, 2: 0 CLOSED, 1 OPEN, 2 REVOKED
  slice : Nat := 0                       -- R200, 6: slice
  tag : Nat := 0                         -- R196, 12: tag
  va : Nat := 0                          -- R196: start
  len : Nat := 0                         -- R196: bytes
  scratch : Bool := false                -- R196: scratchpad window
  perm : Nat := 0                        -- R196, 2: PERM
  jobKey : Nat := 0                      -- R196: slice-local link job key
  sources : List Nat := []               -- R196: peer chips
  engine : Nat := 0                      -- R196: physical engine
  spOffset : Nat := 0                    -- R196: scratchpad offset
  extents : List Extent := []            -- R196: bound extents
  reqCnt : Nat := 0                      -- R200, 32: REQ_CNT
  inFlight : Nat := 0                    -- R196: accepted requests not complete
  closing : Option Req := none           -- R196: WIN_CLOSE reply due
deriving DecidableEq, Repr

/-- A remote request that awaits its reply (R199). -/
structure RemoteReq where
  port : Nat
  engine : Nat
  dma : Bool
  slice : Nat
  peer : Nat
  window : Nat
  offset : Nat
  length : Nat
  sentAt : Nat
deriving DecidableEq, Repr

/-! ### Belay and the CAU (chapters 8, 9) -/

/-- An engine's entry of the watch list (R253, R277). -/
structure Watch where
  on : Bool := false                     -- R277, 1: ON
  cause : Nat := 0                       -- R277, 4: CAUSE
  lastAt : Nat := 0                      -- R254: fabric time of the last cause
  clean : Nat := 0                       -- R277, 16: CLEAN_EXEC
  causes : Nat := 0                      -- R375: causes since it entered
  confirmed : Nat := 0                   -- R277, 16: CONFIRMED
deriving DecidableEq, Repr

/-- A member of a replica set (R269). -/
structure Member where
  state : Nat := 0                       -- R277, 4: member state
  slice : Nat := 0                       -- R269: slice
  tag : Nat := 0                         -- R269: tag
  va : Nat := 0                          -- R269: start
  len : Nat := 0                         -- R269: bytes
  digest : BitVec 384 := 0               -- R277, 384: last digest, byte 0 in bits [7:0]
  job : Option Nat := none               -- R270: digest job
deriving DecidableEq, Repr

/-- A replica set (R269, R271). -/
structure Replica where
  members : Tab Member := []             -- R269: members 0 to 7
  result : Nat := 0                      -- R277, 4: RESULT
  req : Option Req := none               -- R270: REPLICA_CHECK reply due
  autoExpel : Bool := false              -- R272: AUTO_EXPEL honoured
deriving DecidableEq, Repr

/-- Kinds of CAU job, in priority order (R232). -/
inductive JobKind where
  | arbitrate (sq : Nat) (seq : BitVec 32) (inst : Nat)
  | project (sq : Nat) (seq : BitVec 32) (inst : Nat)
  | checkRow (sq : Nat) (seq : BitVec 32) (inst : Nat)
  | digest (set member : Nat)
deriving DecidableEq, Repr

/-- A CAU job (R232). -/
structure Job where
  id : Nat
  kind : JobKind
  slice : Nat
  avoid : List Nat := []                 -- R261: lanes that computed v before
  lane : Option Nat := none              -- R232: its lane; none while it waits
  begun : Bool := false                  -- R232: its reads have been offered to the regulators
deriving DecidableEq, Repr

/-- The Check Arithmetic Unit. -/
structure Cau where
  projKey : Word := 0                    -- R234, 64: PROJ_KEY
  keyLoaded : Bool := false              -- R243, 1: KEY_LOADED
  keyFails : Nat := 0                    -- R234: failed requests for PROJ_KEY
  lanesOut : List Nat := []              -- R261: lanes out of service
  files : Tab (List (BitVec 576) × List (BitVec 576)) := [] -- R233, 576 each: accumulator files U and ACC by lane, up to 1,024 entries, as the lane's last column group left them
  served : Tab Nat := []                 -- R336: slice that a lane's files last served
  jobs : List Job := []                  -- R232: jobs waiting or running, in order of request
  nextId : Nat := 0                      -- R232: number of the next job
  arbCnt : Nat := 0                      -- R243, 16: ARB_CNT, RC
  mismatchCnt : Nat := 0                 -- R243, 16: MISMATCH_CNT, RC
  uncheckedCnt : Nat := 0                -- R243, 16: UNCHECKED_CNT, RC
  projCnt : Nat := 0                     -- R243, 32: PROJ_CNT
  digestBytes : Nat := 0                 -- R243: bytes hashed; DIGEST_MIB is this divided by 2^20
deriving DecidableEq, Repr

/-- Belay's chip-wide state. -/
structure BelayUnit where
  watch : Tab Watch := []                -- R253: watch list by physical engine
  rng : Word := 0                        -- R252, 64: audit generator
  replicas : Tab Replica := []           -- R269: replica sets 0 to 15
  seeded : Bool := false                 -- R252: the seed has been drawn since the last start-up or L4
deriving DecidableEq, Repr

/-! ### Cleat (chapter 7) -/

/-- A journal shadow write: what it carries for a submission queue and its completion queue (R163, R246). -/
structure ShadowWrite where
  sq : Nat
  commit : BitVec 32
  fn : Nat
  cq : Nat
  head : BitVec 32
  tail : BitVec 32
  record : BitVec 256
deriving DecidableEq, Repr

/-- A unit of traffic at a regulator (R203, R205). -/
structure CUnit where
  tag : Nat := 0                         -- R454: tag on the controller or link side
  slice : Option Nat := none             -- R204: slice, or none for the fabric
  cls : Nat := 0                         -- R209, 3: counter class
  charge : Nat := 0                      -- R203: bytes charged
  fromRem : Bool := false                -- R205: granted on the remainder path
  fromMin : Bool := false                -- R205: granted on the minimum path
  arrived : Nat := 0                     -- R205: arrival order
  grantedAt : Nat := 0                   -- R208: fabric time of the grant
  write : Bool := false                  -- R454: write
  line : Nat := 0                        -- R454: byte address of the line in the stack
  chan : Nat := 0                        -- R454: channel
  keySlot : Nat := 0                     -- R458: key slot
  data : List Byte := []                 -- R454: write data
  src : Nat := 0                         -- R454: source engine or DMA engine
  answered : Option Nat := none          -- R207: an early response that the equalisation buffer holds, with its status; its read data lies in `data`
  injectBits : Nat := 0                  -- R359: BITS on the controller request
  since : Nat := 0                       -- R185: fabric time of its arrival
  window : Option (Nat × Nat) := none    -- R196: window of the accepted request that it carries, and its key in memory
  mi : Bool := false                     -- R458: a request of the interconnect, which takes a response
  port : Nat := 0                        -- R197: arrival port of the request, for the reply
  request : Nat := 0                     -- R199: its number at the requester
  group : Option Nat := none             -- R287: group whose send data it reads
  msg : Option LinkMsg := none           -- R458: the message whose last unit it is on its link port
  wire : Option (Nat × Nat × Nat) := none -- R313: on a link port, or for its reply there: number of the key, VL and payload bytes
  send : List Out := []                  -- R205: what leaves at the host port when it is granted
  store : Option (Nat × List Byte) := none -- R205: bytes that reach memory when it is granted, with their key
  walk : Option (Nat × Nat × Nat × Nat) := none -- R173, R182: a table read: slice, tag, page and level of the table
  demand : Bool := false                 -- R182: a demand table read
  zeros : Option Nat := none             -- R337: a zero write of Whipping, with the bytes of the extent that follow it
  imported : Bool := false               -- R322: a unit of the running import
  shadow : Option ShadowWrite := none    -- R246, R247: the journal shadow write that it is, or that belongs to its record
  step : Option (Nat × Nat) := none      -- R286: a write of range 0 of a step: its group and the step number
  done : Option Req := none              -- R195, R325, R406: the packet that is answered when it is granted
deriving DecidableEq, Repr

/-- The rate meters of one direction of a resource. They hold bytes with 16 fractional bits (R204). -/
structure Meters where
  min : Tab Nat := []                    -- R204, 40: minimum meters by slice
  rem : Nat := 0                         -- R204, 40: remainder meter
  fab : Nat := 0                         -- R204, 40: fabric meter
  rrLast : Option Nat := none            -- R206: slice last granted on the remainder path
  rrCount : Nat := 0                     -- R206: its grants in this round
deriving DecidableEq, Repr

/-- One Cleat regulator. The host port has meters and credits for each direction (R201); elsewhere `toHost` is not used. -/
structure Reg where
  meters : Meters := {}                  -- R204: meters; of the host port those of reads
  toHost : Meters := {}                  -- R201: meters of the host port's writes
  waiting : List CUnit := []             -- R205: waiting units, oldest first
  out : List CUnit := []                 -- R216: granted units that hold a credit
  back : List CUnit := []                -- R205: credits released in this cycle, free from the next
  late : Nat := 0                        -- R216, 16: LATE_CNT, RC
  lateFrame : Bool := false              -- R208: a late response in this frame
  nextTag : Nat := 0                     -- R454, 13: next controller tag
  arrivals : Nat := 0                    -- R205: arrival order counter
deriving DecidableEq, Repr

/-- The regulators and the droop throttle. -/
structure Cleat where
  regs : Tab Reg := []                   -- R216: regulators by resource index
  lanes : Tab Nat := []                  -- R212, 4: LK_LANES by port
  peers : Tab (Nat × Nat) := []          -- R67, 24: LK_PEER by port
  freed : List (BitVec 4096) := []       -- R211: records of the slices freed since the last boundary
  droopLow : Bool := false               -- R213: filtered alarm asserted
  droopHold : Option Nat := none         -- R213: end of the hold that runs
  droopFrom : Nat := 0                   -- R213: start of the throttled span
  droopEvents : Nat := 0                 -- R216, 16: EVENTS, RC
  droopEventsAll : Nat := 0              -- R429, 32: DROOP_EVENTS, cumulative
  throttleNs : Nat := 0                  -- R213: throttled time of ended spans
  droopNoted : Bool := false             -- R461: SENSOR DROOP raised in this frame
deriving DecidableEq, Repr

/-! ### Splice (chapter 10) -/

/-- A chunk that a sender holds until it is acknowledged (R291). -/
structure SentChunk where
  h : ChunkHdr
  payload : List Byte
  crc : BitVec 32
  port : Nat
  tries : Nat
  sentAt : Nat
  due : Bool := false                    -- R291: it waits to be sent again
deriving DecidableEq, Repr

/-- A collective group (R279, R283). -/
structure Group where
  state : Nat := 0                       -- R283, 3: state
  record : BitVec 2048 := 0              -- R279, 2048: record, byte 0 in bits [7:0]
  parts : Byte := 0                      -- R282, 8: parts written
  base : BitVec 32 := 0                  -- R286: sequence number of step 0 modulo 2^16
  stepNum : Nat := 0                     -- R302, 16: STEP_NUM
  running : Option (BitVec 32) := none   -- R286: SEQ of the step in progress
  isReady : Bool := false                -- R286: the member's step is ready
  readyAt : Nat := 0                     -- R298: fabric time of its readiness
  heldReady : Option Token := none       -- R286: a READY that waits for the member's own step
  heldAt : Nat := 0                      -- R298: fabric time of its receipt
  going : Bool := false                  -- R286: GO received
  useSwitch : Bool := false              -- R289: path of the step
  received : List ChunkHdr := []         -- R291: identities accepted in this step
  sent : List SentChunk := []            -- R291: unacknowledged chunks
  toSend : List (ChunkHdr × List Byte) := [] -- R291: chunks that wait for the window, the slot or storage
  written : Nat := 0                     -- R286: elements of range 0 written in this step
  accum : Tab (List (List Byte)) := []   -- R292: contributions held for a segment's chunk, by segment * 2^32 + index
  lastProgress : Nat := 0                -- R296: fabric time of the last progress
  abortCnt : Nat := 0                    -- R302, 16: ABORT_CNT, RC
  retryCnt : Nat := 0                    -- R302, 16: CRC_RETRY_CNT, RC
  nanCnt : Nat := 0                      -- R302, 8: NAN_CNT, RC
  timeoutRun : Nat := 0                  -- R302, 2: TIMEOUT_RUN
  slowRank : Nat := 0                    -- R302, 6: SLOW_RANK
  slowDrag : Nat := 0                    -- R302, 16: SLOW_DRAG
  lagAvg : Nat := 0                      -- R302, 32: LAG_AVG_NS
  lagAny : Bool := false                 -- R298: a sample has been taken
  waitNs : Nat := 0                      -- R296: time without progress
  unlocked : Nat := 0                    -- R302, 16: UNLOCKED_STEPS, RC
  resv : Nat := 0                        -- R302, 2: RESV
  reservedAt : Nat := 0                  -- R288: fabric time of the last RESERVE
  lease : Nat := 0                       -- R288: lease number
  fmtMask : BitVec 16 := 0               -- R301, 16: format mask of the GRANT
  opMask : BitVec 3 := 0                 -- R301, 3: operation mask of the GRANT
  denyFrame : Nat := 0                   -- R288: frame count at the last DENY
  joinFrom : Nat := 0                    -- R283: fabric time of entering JOINING
  made : Nat := 0                        -- R286: chunks of this step that the member has made so far
  blocked : Bool := false                -- R293: its next chunk waits for storage and has been counted
  abortAhead : List (Nat × AbortCause) := [] -- R287: steps not yet begun that an ABORT has ended, with its cause
  abortSeen : List Nat := []             -- R287: steps for which an ABORT has been received
  writesOut : Nat := 0                   -- R286: writes of range 0 in this step that wait at a regulator
  destroy : Option Req := none           -- R299: GRP_DESTROY reply due
  cancelSteps : List Nat := []           -- R300: later steps for which CANCEL is raised when reached
deriving DecidableEq, Repr

/-- The Splice sequencer. -/
structure Splice where
  groups : Tab Group := []               -- R278: groups 0 to 255
  attest : Tab Word := []                -- R302, 64: IRX_SWITCH_ATTEST
  aluCrcErr : Tab Nat := []              -- R302, 16: CRC_ERR_CNT by link pair, RC
  aluWait : Tab Nat := []                -- R302, 16: CHUNKS_WAIT by link pair, RC
  joins : List (Nat × BitVec 32 × BitVec 32 × Nat) := [] -- R283: held JOINs: port, job, CRC, arrival
  chip : Nat := 0                        -- R280, 16: CHIP
  chipNext : Option Nat := none          -- R280: number pending
deriving DecidableEq, Repr

/-! ### Keys, removal and debug (chapter 11) -/

/-- A memory key slot (R303, R343). -/
structure MemSlot where
  state : Nat := 0                       -- R304, 2: 0 EMPTY, 1 INSTALLED, 2 REVOKING
  kind : Nat := 0                        -- R343, 3: KIND
  slice : Nat := 0                       -- R343, 6: SLICE
  selector : Nat := 0                    -- R343, 9: SELECTOR
  keyId : BitVec 32 := 0                 -- R343, 32: KEY_ID
  gen : Nat := 0                         -- R309: which installed key the slot holds
deriving DecidableEq, Repr

/-- A link job key (R343). -/
structure LinkKey where
  state : Nat := 0                       -- R304, 2: state
  slice : Nat := 0                       -- R343, 6: SLICE
  loc : Nat := 0                         -- R343, 10: LOCAL_INDEX
  tag : BitVec 16 := 0                   -- R343, 16: KEY_TAG
  keyId : BitVec 32 := 0                 -- R305, 32: KEY_ID
deriving DecidableEq, Repr

/-- A KEY_INSTALL that waits for the security block (R307). -/
structure Install where
  req : Req
  slice : Nat
  kind : Nat
  index : Nat
  tag : BitVec 16
  keyId : BitVec 32
  askedAt : Nat
deriving DecidableEq, Repr

/-- A KEY_DESTROY in progress (R317, R318). -/
structure Revoke where
  slice : Nat
  kind : Nat
  index : Nat
  req : Option Req
  zeroed : Bool
  asked : Bool
  askedAt : Nat
  tries : Nat
deriving DecidableEq, Repr

/-- A weight import, running or queued (R321, R322). -/
structure Import where
  req : Req
  slice : Nat
  selector : Nat
  srcTag : Nat
  dstTag : Nat
  srcVa : Nat
  dstVa : Nat
  begun : Bool := false                  -- R322: it has reached the head of the queue
  unmapped : List (Nat × Nat × Nat) := [] -- R322: unmaps of its tags since then: tag, VA and length
  srcLen : Nat := 256                    -- R322: bytes of its source, as far as they are known
  dstLen : Nat := 64                     -- R322: bytes of its destination, as far as they are known
  exts : List Extent := []               -- R318, R322: what it is bound to
  left : Nat := 0                        -- R322: its units that no regulator has granted yet
  ended : Option (Nat × Nat × List Byte) := none -- R321: its outcome, once the pipe is done: step, segment, header bytes 0x00 to 0x5F
deriving DecidableEq, Repr

/-- A debug session (R326). -/
structure Debug where
  chip : Bool
  slice : Nat
  access : Nat
  owner : BitVec 32
deriving DecidableEq, Repr

/-- Counters of the link ingress checks of a port (R343). -/
structure LinkDrop where
  len : Nat := 0                         -- R343, 10: LEN_CNT, RC
  crc : Nat := 0                         -- R343, 10: CRC_CNT, RC
  unknown : Nat := 0                     -- R343, 10: UNKNOWN_CNT, RC
  removed : Nat := 0                     -- R343, 10: REMOVED_CNT, RC
  replay : Nat := 0                      -- R343, 10: REPLAY_CNT, RC
  auth : Nat := 0                        -- R343, 10: AUTH_CNT, RC
  seen : Bool := false                   -- R315: a REPLAY or AUTH drop in this frame
deriving DecidableEq, Repr

/-- Keys, import pipe, debug and tenant environment. -/
structure Keys where
  mem : Tab MemSlot := []                -- R343: memory key slots 0 to 511
  links : Tab LinkKey := []              -- R343: link job keys 0 to 1,023
  hop : Tab Nat := []                    -- R343, 2: hop key state by port
  hopId : Tab (BitVec 32) := []          -- R426, 32: KEY_ID of the hop keys
  cluster : Nat := 0                     -- R304: cluster key state
  clusterId : BitVec 32 := 0             -- R426, 32: its KEY_ID
  staging : Tab (BitVec 256) := []       -- R306: staged parts 0 to 3
  installing : List Install := []        -- R307: installs that wait for the unwrap, in order of request
  revokes : List Revoke := []            -- R317: revocations in progress
  imports : List Import := []            -- R322: the running import first, then up to 4 queued
  dbg : Tab Debug := []                -- R326: open debug sessions 0 to 3
  tapExposure : Nat := 0                 -- R328, 32: TAP_EXPOSURE
  drops : Tab LinkDrop := []             -- R343: IRX_LINK_DROP by port
  rxLast : Tab Nat := []                 -- R315, 72: L by port, key and VL
  txLast : Tab Nat := []                 -- R314, 72: last counter sent by port, key and VL
  keyGen : Nat := 0                      -- R309: count of keys installed
  lineKeys : List (Nat × Nat × Nat) := [] -- R309: spans of 64-byte lines written under a key or zeroed: first line, lines, key; newest first
  restoreFails : Tab Nat := []           -- R308: failed restores of slots 0 to 7, by slot
deriving DecidableEq, Repr

/-- Chip figures that TM_CHIP returns as of the last boundary (R429). -/
structure ChipFigures where
  powerMw : Nat := 0                     -- R429, 32: POWER_MW
  temp : Option Int := none              -- R429, 16: TEMP, none while no sensor is valid
  volt : Option Nat := none              -- R429, 16: VOLT_MV, none while the rail sensor is not valid
  droops : Nat := 0                      -- R429, 32: DROOP_EVENTS
  throttleUs : Nat := 0                  -- R429, 32: THROTTLE_US
deriving DecidableEq, Repr

/-- Readings that enter the means of one second (R330). -/
structure Sums where
  powerSum : Nat := 0                    -- R330: sum of the power readings
  powerN : Nat := 0                      -- R330: their number
  tempSum : Int := 0                     -- R330: sum of the highest valid temperatures, eighths
  tempN : Nat := 0                       -- R330: their number
deriving DecidableEq, Repr

/-- IRX_TENANT_ENV and what it is formed from (R330). -/
structure Env where
  updateSeq : Nat := 0                   -- R343, 16: UPDATE_SEQ
  invalid : Bool := false                -- R343, 1: INVALID
  frozen : Bool := false                 -- R343, 1: FROZEN
  powerW : Nat := 0                      -- R343, 16: POWER_W
  tempC : Int := 0                       -- R343, 16: TEMP_C
  second : Nat := 0                      -- R330: whole second of fabric time to which `sums` belong
  sums : Sums := {}                      -- R330: readings of that second so far
  lastSums : Sums := {}                  -- R330, R429: readings of the whole second before it
  published : Nat := 0                   -- R330: whole second whose publication came last, taken or skipped
  freeSeen : Nat := 0                    -- R338: fabric time at which the last removal ended
  temps : Tab (Option Int) := []         -- R463: last reading by sensor in eighths of a degree; none after a fault
  volt : Option Nat := none              -- R463: last core rail reading, mV
  power : Option Nat := none             -- R463: last power reading, W
  disabled : List Nat := []              -- R351: sensors disabled until L4
  asked : List Nat := []                 -- R463: readings requested and not answered
  askedAt : Nat := 0                     -- R463: fabric time of the last round of requests
  chipPub : ChipFigures := {}            -- R429: figures of TM_CHIP as published at the last boundary
deriving DecidableEq, Repr

/-! ### Faults, life ledger (chapter 12) -/

/-- An armed or consumed injection (R359, R360). -/
structure Inject where
  target : Nat
  bits : Nat
  unit : BitVec 32
  index : Word
  duration : Nat
  count : Bool
  pin : Bool
  req : Req
  armedAt : Nat                          -- R360: fabric time of arming
  consumedAt : Option Nat                -- R360: fabric time of consumption
deriving DecidableEq, Repr

/-- A fault record on its way (R347). -/
structure FRec where
  cls : Nat := 0                         -- R347, 8: CLASS, set at classification
  base : Option Nat := none              -- R348: class stated by the raising rule
  flags : Byte := 0                      -- R347, 8: FLAGS
  source : Nat := 0                      -- R347, 9: SOURCE
  seqNo : BitVec 32 := 0                 -- R347, 32: RECORD_SEQ
  time : Nat := 0                        -- R347, 64: TIME
  unit : BitVec 32 := 0                  -- R347, 32: UNIT_ID
  cause : BitVec 16 := 0                 -- R347, 16: CAUSE
  opcode : BitVec 16 := 0                -- R347, 16: OPCODE
  owners : List Nat := []                -- R50: owning slices
  fabric : Bool := false                 -- R50: the fabric is an owner
  fns : List Nat := []                   -- R348: functions among the recipients
  context : Nat := 0                     -- R347, 16: CONTEXT
  seq : BitVec 32 := 0                   -- R347, 32: SEQ
  sq : Nat := 0xFFFF                     -- R347, 16: SQ
  temp : BitVec 16 := 0                  -- R347, 16: TEMP
  volt : Nat := 0                        -- R347, 16: VOLT
  count : Nat := 0                       -- R347, 16: COUNT
  syndrome : BitVec 192 := 0             -- R347, 192: what the raising rule has the record carry; SYNDROME where the rule gives its bytes, byte 0 in bits [7:0]
  arrived : Nat := 0                     -- R349: fabric time at which the FC received it
  inj : Option Inject := none            -- R360: injection that caused it
deriving DecidableEq, Repr

/-- A reporting site and its Lanyard pair (R345, R346, R370). -/
structure Site where
  fifo : List FRec := []                 -- R346, at most 8: records
  lost : Nat := 0                        -- R346: events discarded since the last delivered record
  lanyard : Nat := 1                     -- R370, 2: 0 absent, 1 normal, 2 polled, 3 SILENT
  brokenCnt : Nat := 0                   -- R370, 16: BROKEN_CNT, RC
  lostCnt : Nat := 0                     -- R370, 16: SITE_LOST_CNT, RC
  misses : Nat := 0                      -- R346: polls in a row unanswered
  polledAt : Nat := 0                    -- R346: fabric time of the last poll, or of the break
deriving DecidableEq, Repr

/-- A counting rule (R351, R370). -/
structure Rule where
  windowMs : Nat := 0                    -- R370, 32: WINDOW_MS
  cause : BitVec 16 := 0                 -- R370, 16: CAUSE
  unitType : Nat := 0                    -- R370, 4: UNIT_TYPE, 15 any
  n : Nat := 1                           -- R370, 4: N, held as N - 1 in the register
  action : Nat := 0                      -- R370, 3: ACTION
  persist : Bool := false                -- R370, 1: PERSIST
  valid : Bool := false                  -- R370, 1: VALID
deriving DecidableEq, Repr

/-- The defaults of R351. Cause 0x03FF and 0x01FF match whole groups. -/
def defaultRules : List Rule :=
  [ { windowMs := 1000, cause := 0x0101, unitType := 0, n := 8, action := 1, valid := true },
    { windowMs := 86400000, cause := 0x0102, unitType := 0, n := 2, action := 2, persist := true, valid := true },
    { windowMs := 2592000000, cause := 0x0401, unitType := 0, n := 3, action := 2, persist := true, valid := true },
    { windowMs := 86400000, cause := 0x0501, unitType := 0, n := 3, action := 2, persist := true, valid := true },
    { windowMs := 86400000, cause := 0x0102, unitType := 2, n := 4, action := 2, persist := true, valid := true },
    { windowMs := 86400000, cause := 0x0102, unitType := 1, n := 3, action := 2, persist := true, valid := true },
    { windowMs := 3600000, cause := 0x0805, unitType := 4, n := 3, action := 2, persist := true, valid := true },
    { windowMs := 60000, cause := 0x0901, unitType := 6, n := 3, action := 3, valid := true },
    { windowMs := 600000, cause := 0x0906, unitType := 15, n := 3, action := 4, valid := true },
    { windowMs := 1000, cause := 0x03FF, unitType := 7, n := 4, action := 5, valid := true },
    { windowMs := 1000, cause := 0x01FF, unitType := 6, n := 16, action := 3, valid := true },
    {}, {}, {}, {}, {} ]

/-- The Fault Collector. -/
structure Fc where
  sites : Tab Site := []                 -- R345: sites by source number
  queue : List FRec := []                -- R354, at most 256: records waiting for classification
  recordSeq : BitVec 32 := 0             -- R370, 32: RECORD_SEQ
  lastKey : Nat := 0                     -- R349: TIME and SOURCE of the latest record classified, as TIME * 512 + SOURCE
  hist : List FRec := []                 -- R358, at most 64: history, oldest first
  first : Option FRec := none            -- R358: first FATAL or TERMINAL record
  rules : List Rule := defaultRules      -- R351: 16 rules
  stamps : Tab (List (BitVec 32 × Nat)) := [] -- R350: kept stamps by rule: unit and ledger time, newest first
  pinClass : Nat := 3                    -- R357: class code that drives the pin
  errOut : Bool := false                 -- R357, 1: ERR_OUT_N driven low
  lowUntil : Nat := 0                    -- R357: end of the minimum low time
  clearWanted : Bool := false            -- R357: FC_ERR_CLEAR accepted during the minimum low time
  terminalSeen : Bool := false           -- R370, 1: TERMINAL_SEEN
  reactContainedMs : Nat := 10           -- R355: REACT_CONTAINED_MS
  reactFatalMs : Nat := 500              -- R355: REACT_FATAL_MS
  timers : Tab Nat := []                 -- R355: reaction timer ends by slice
  fatalTimer : Option Nat := none        -- R355: reaction timer end of L4
  oper : List (BitVec 512) := []         -- R353, at most 64: mailbox FIFO of records for the operator, oldest first
  operLost : Nat := 0                    -- R370, 16: OPER_LOST, RC
  inject : Option Inject := none         -- R359: armed injection
  consumed : List Inject := []           -- R360: consumed injections whose first record is awaited
  retiredAuto : List Nat := []           -- R361: ledger times of automatic retirements that took effect
deriving DecidableEq, Repr

/-- An entry of the ledger log (R365). -/
inductive LedgerEntry where
  | stress (time stress : Nat)
  | stamp (rule : Nat) (unit : BitVec 32) (time : Nat)
  | retired (unit : BitVec 32)
  | notice (pct : Nat)
deriving DecidableEq, Repr

/-- The life ledger and its TM buffer (R365 to R368). The flash part survives a power cycle (R3). -/
structure Ledger where
  log : List LedgerEntry := []           -- R365: entries in the flash, oldest first
  summaries : Nat := 0                   -- R396: dump summaries written
  buffer : List LedgerEntry := []        -- R366, at most 256: entries waiting in the TM
  tokens : Nat := 0                      -- R370, 5: ERASE_TOKENS
  used : Nat := 0                        -- R366: entries written in the current sector
  ioError : Bool := false                -- R370, 1: IO_ERROR, W1C
  flushFails : Nat := 0                  -- R366: failed accesses in a row
  life80 : Bool := false                 -- R370, 1: LIFE_80
  life95 : Bool := false                 -- R370, 1: LIFE_95
  valid : Bool := false                  -- R370, 1: VALID
  stress : Nat := 0                      -- R367, 64: STRESS, in 1/400 stress-second
  offset : Int := 0                      -- R367: ledger time minus fabric time
  retired : List (BitVec 32) := []       -- R361: units recorded as retired
  flushing : Bool := false               -- R31, R366: a flush has begun and is not in the flash yet
  flushAt : Nat := 0                     -- R366: fabric time of the last flush
  tokenAt : Nat := 0                     -- R366: fabric time up to which erase tokens have been gained
  stressAt : Nat := 0                    -- R367: fabric time up to which stress has been accumulated
  readReqs : List Req := []              -- R428: LEDGER_READ replies due
deriving DecidableEq, Repr

/-! ### Recovery (chapter 13) -/

/-- A hang search (R373 to R375). -/
structure Hang where
  engine : Nat
  sq : Nat
  seq : BitVec 32
  inst : Nat
  slice : Nat
  nonReplay : Bool
  extra : Bool
  replayEngine : Option Nat
  members : List (BitVec 32)
deriving DecidableEq, Repr

/-- Stages of start-up and L4 (R385, R453). -/
inductive Boot where
  | held | fuses | draws | image | ledger | beat | running
deriving DecidableEq, Repr

/-- The newest dump and a dump in progress (R392, R407). -/
structure Dump where
  num : Nat := 0                         -- R407, 32: DUMP_NUM
  timeouts : Nat := 0                    -- R407, 10: TIMEOUT_UNITS
  unreadables : Nat := 0                 -- R407, 10: UNREADABLE_UNITS
  summary : Bool := false                -- R407, 1: SUMMARY_WRITTEN
  slot : Bool := false                   -- R407, 1: SLOT
  valid : Bool := false                  -- R407, 1: VALID
  taking : Option Nat := none            -- R393: trigger of the dump in progress
  req : Option Req := none               -- R406: DUMP_TAKE reply due
  cause : Option FRec := none            -- R393: triggering fault record
  heads : Tab (List Byte) := []          -- R393: headers, records and directories by slot
  sections : Tab (List Byte) := []       -- R394: engine sections by slot * 512 + source
deriving DecidableEq, Repr

/-- The Recovery Sequencer, the control cores and the tray handshake. -/
structure Recovery where
  boot : Boot := .held                   -- R453: progress of start-up
  powerOk : Bool := true                 -- R452, 1: FAB_PWR_OK
  fuses : Fuses := { grade := 0x44, chipId := 0, mfrId := 0, enginePresent := 0, dmaPresent := 0, stackPresent := 0, portPresent := 0 } -- R462: latched fuse words
  fuseFails : Nat := 0                   -- R462: failed reads in a row
  firmware : BitVec 384 := 0             -- R453, 384: FIRMWARE_DIGEST
  imageLen : Nat := 0                    -- R453: bytes of the stored firmware image
  hbCount : BitVec 32 := 0               -- R407, 32: COUNT
  hbAny : Bool := false                  -- R371: a heartbeat has been accepted since the restart
  hbAt : Nat := 0                        -- R371: fabric time of the last accepted heartbeat
  badBeat : Nat := 0                     -- R407, 16: BAD_BEAT, RC
  fwState : BitVec 4 := 0                -- R407, 4: FW_STATE
  armed : Bool := false                  -- R372: watchdog armed
  restart : Option Nat := none           -- R31: T of the control core restart in progress
  restartLoaded : Bool := false          -- R31: the firmware image has been loaded and checked
  restartReq : Option Req := none        -- R430: CC_RESTART reply due
  restartCount : Nat := 0                -- R407, 16: RESTART_COUNT
  restartLate : Bool := false            -- R34: 20 ms have passed without the first heartbeat
  level : Nat := 0                       -- R407, 3: LEVEL
  l4Stage : Nat := 0                     -- R385: stage of the L4 in progress, 0 none
  l4Count : Nat := 0                     -- R407, 32: L4_COUNT
  l4Req : Option Req := none             -- R406: CHIP_RESET reply due
  l4Bank : Option Bank := none           -- R387: frame table in force at the freeze
  l4Pending : List Req := []             -- R421: packets answered ABORTED when the firmware resumes
  frozen : Bool := false                 -- R384: the chip is frozen
  hangs : List Hang := []                -- R373: searches in progress
  l5Drain : Option Nat := none           -- R401: start of the drain
  l5Step : Nat := 0                      -- R401: step of the L5 request, 0 none
  l5Req : Option Req := none             -- R406: POWER_CYCLE reply due
  pwrReq : Bool := false                 -- R407, 1: REQ, the PWR_CYCLE_REQ pin
  attempt : Nat := 0                     -- R407, 2: ATTEMPT
  noAck : Bool := false                  -- R407, 1: NO_ACK
  acked : Bool := false                  -- R402: ACK accepted
  strayAck : Nat := 0                    -- R407, 16: STRAY_ACK, RC
  reqAt : Nat := 0                       -- R402, R386, R396: fabric time from which the bound of the tray, of self-refresh or of the summary runs
  peersDown : List (Nat × Nat) := []     -- R407: down list: chip and notice kind
  dump : Dump := {}                      -- R392: dumps
  l4Fail : Bool := false                 -- R386: the L4 failed
  l4Sync : Option (Nat × Nat × Nat) := none -- R448: synchronisation mode, port and pin delay that stage 10 reinstates
  restoring : List (Nat × Nat) := []     -- R308: slots asked to be restored: kind and chip-wide index
  lostSlices : List Nat := []            -- R308: slices with a slot that could not be restored
  summaryDue : Bool := false             -- R396: the newest dump's summary is to be written once the cores run
deriving DecidableEq, Repr

/-! ### Control packets (chapter 14) -/

/-- An accepted packet that a session remembers (R417). -/
structure HeldPkt where
  seq : BitVec 32
  tag : BitVec 128
  opcode : BitVec 16
  reply : Option Reply
deriving DecidableEq, Repr

/-- A session with a loaded control key (R342, R417). -/
structure Session where
  id : BitVec 32
  key : BitVec 256                       -- R342, 256: control key
  place : Nat := 0                       -- R342, R343, 1: control-key register that holds it
  lastSeq : BitVec 32 := 0               -- R417, 32: LAST_SEQ
  rseq : BitVec 32 := 1                  -- R416, 32: RSEQ of the next reply
  held : List HeldPkt := []              -- R417, at most 16: accepted packets, newest first
  keyLost : Bool := false                -- R421: key not yet reloaded after an L4
deriving DecidableEq, Repr

/-- The control packet interface. -/
structure Ctl where
  sessions : List Session := []          -- R342, at most 2: control-key registers
  mailbox : List Packet := []            -- R408, at most 16: mailbox intake
  authFail : Nat := 0                    -- R432, 16: AUTH_FAIL_CNT, RC
  stale : Nat := 0                       -- R432, 16: STALE_CNT, RC
  drop : Nat := 0                        -- R432, 16: DROP_CNT, RC
  due : List (Req × Reply) := []         -- R420: replies that fell due while the cores restart
  awaiting : List Req := []              -- R420, R421: accepted packets whose reply has not been written, oldest first
  rr : Nat := 0                          -- R409: path served last: 0 mailbox, f + 1 function f
deriving DecidableEq, Repr

/-- Retirements due at a boundary (R53, R54, R428). -/
structure Retire where
  unit : BitVec 32
  req : Option Req
deriving DecidableEq, Repr

/-- The pool of units (R51 to R54). -/
structure PoolUnits where
  dmaPresent : BitVec 64 := 0            -- R51, 64: DMA engines present
  stackPresent : BitVec 16 := 0          -- R51, 16: stacks present
  portPresent : BitVec 32 := 0           -- R51, 32: link ports present
  dmaRetired : BitVec 64 := 0            -- R52, 64: DMA engines retired
  portRetired : BitVec 32 := 0           -- R52, 32: link ports retired
  degraded : BitVec 16 := 0              -- R54, 16: stacks degraded
  retiring : List Retire := []           -- R53: units whose retirement is due at the next boundary
deriving DecidableEq, Repr

/-- In-field tests (R362). -/
structure Tests where
  enable : Bool := true                  -- R362: testing enabled
  intervalH : Nat := 24                  -- R362: TEST_INTERVAL
deriving DecidableEq, Repr

/-- The test access port (R464). -/
structure Tap where
  ir : Byte := 0x01                      -- R464, 8: instruction in force
deriving DecidableEq, Repr

/-- Everything the fabric holds but the queue of commands. -/
structure Fabric where
  frame : Frame := {}                    -- chapter 3: FS and fabric time
  units : PoolUnits := {}                -- R51: pool
  engines : Tab Engine := []             -- R91: engines by physical number
  slices : Tab Slice := []               -- R38: slices 0 to 63
  fns : Tab Fn := []                     -- R136: functions 0 to 255
  sqs : Tab Sq := []                     -- R137: submission queues by chip-wide number
  accepts : Nat := 0                     -- R129: acceptance order counter
  tags : Tab Tag := []                   -- R166: address-space tags
  windows : Tab Window := []             -- R196: remote windows
  remotes : Tab RemoteReq := []          -- R199: outstanding remote requests
  nextRemote : Nat := 0                  -- R199: number of the next remote request
  belay : BelayUnit := {}                -- chapter 9
  cau : Cau := {}                        -- R232
  cleat : Cleat := {}                    -- chapter 7
  splice : Splice := {}                  -- chapter 10
  keys : Keys := {}                      -- chapter 11
  env : Env := {}                        -- R330
  fc : Fc := {}                          -- chapter 12
  ledger : Ledger := {}                  -- R365
  rs : Recovery := {}                    -- chapter 13
  ctl : Ctl := {}                        -- chapter 14
  tests : Tests := {}                    -- R362
  tap : Tap := {}                        -- R464
  mem : List Host.Cell := []             -- R23, R55: device memory: key stack * 2^36 + byte offset, plaintext
  writes : List MemOp := []              -- R23: memory writes of the running command; empty between commands
  free : Nat := 0                        -- the model's own counter of free values drawn
  out : List Out := []                   -- what the fabric has driven outside, oldest first
deriving DecidableEq, Repr

/-- The machine: the fabric and the commands that wait, first in, first out. -/
structure State where
  fab : Fabric := {}
  pending : List Instr := []
deriving DecidableEq, Repr

/-- The reasons for which the machine stops with a fault: there are none. Every command of the table has an
effect that the spec gives, so no meaning raises a fault. -/
inductive Fault where
deriving DecidableEq, Repr

/-- The reasons for which a command is refused. -/
inductive Refusal where
  /-- Raised by an arm of exec whose command has no meaning yet; safe, since it only stops the run. -/
  | notModelled (mnemonic : String)
deriving DecidableEq, Repr

/-- The machine right after reset: FAB_RST_N is still low (R454) and every field holds its reset value. -/
def State.reset : State := {}

end Sys2Proof.Machine
end

