-- ==== Sys2Proof/Machine/Tab.lean ====
section
/-! DEFINITION. Sparse tables: look up, write, remove. Keys stay strictly rising. -/

namespace Sys2Proof

variable {α : Type}

/-- The entry listed under `k`. -/
def Tab.find : Tab α → Nat → Option α
  | [], _ => none
  | (k', v) :: t, k => if k' = k then some v else Tab.find t k

/-- The entry under `k`, or the table's default. -/
def Tab.getD (t : Tab α) (k : Nat) (d : α) : α := (Tab.find t k).getD d

/-- The table with `v` under `k`. -/
def Tab.put : Tab α → Nat → α → Tab α
  | [], k, v => [(k, v)]
  | (k', v') :: t, k, v =>
    if k < k' then (k, v) :: (k', v') :: t
    else if k = k' then (k, v) :: t
    else (k', v') :: Tab.put t k v

/-- The table without an entry under `k`. -/
def Tab.del (t : Tab α) (k : Nat) : Tab α := t.filter (fun e => e.1 != k)

/-- The table with the entry under `k` (its default where none is listed) replaced. -/
def Tab.upd (t : Tab α) (k : Nat) (d : α) (g : α → α) : Tab α := Tab.put t k (g (Tab.getD t k d))

/-- The table with the entry under `k` replaced where one is listed. -/
def Tab.onKey (t : Tab α) (k : Nat) (g : α → α) : Tab α :=
  t.map (fun e => if e.1 = k then (e.1, g e.2) else e)

/-- The table with every listed entry replaced. -/
def Tab.each (t : Tab α) (g : Nat → α → α) : Tab α := t.map (fun e => (e.1, g e.1 e.2))

/-- The keys whose entries meet a condition. -/
def Tab.keysOf (t : Tab α) (p : Nat → α → Bool) : List Nat :=
  (t.filter (fun e => p e.1 e.2)).map (·.1)

/-- The lowest of the numbers below `n`, from `lo` on, that the table does not list. -/
def Tab.lowestFree (t : Tab α) (lo n : Nat) : Option Nat :=
  ((List.range n).drop lo).find? (fun k => (Tab.find t k).isNone)

/-- Add `v` to a counter that stops at `2^w - 1`. -/
def satAdd (w n v : Nat) : Nat := min (2 ^ w - 1) (n + v)

/-- Insert into a list kept in ascending order of `key`, behind equal keys. -/
def insertBy (key : α → Nat) (x : α) : List α → List α
  | [] => [x]
  | y :: t => if key x < key y then x :: y :: t else y :: insertBy key x t

/-- The list in ascending order of `key`, equal keys in their first order. -/
def sortBy (key : α → Nat) (l : List α) : List α := l.foldl (fun acc x => insertBy key x acc) []

/-- The element with the smallest key, the first such on a tie. -/
def minBy (key : α → Nat) : List α → Option α
  | [] => none
  | x :: t => some (t.foldl (fun m y => if key y < key m then y else m) x)

/-- `ceil(a / b)`. -/
def ceilDiv (a b : Nat) : Nat := (a + b - 1) / b

/-- The first element with every number below `n`: fold over 0 to n - 1 (kernel-friendly loop). -/
def loopN (n : Nat) (x : α) (g : Nat → α → α) : α := (List.range n).foldl (fun a k => g k a) x

end Sys2Proof
end

