-- ==== Sys2Proof/Machine/Memory.lean ====
section
/-! DEFINITION. Device memory (R23, R55): sparse bytes in one canonical form. The key of a byte is
stack * 2^36 + its byte offset in the stack. A byte that is not listed reads 0. -/

namespace Sys2Proof.Machine

/-- What an unlisted address reads as. -/
def memDefault : Byte := 0

/-- The canonical form above a bound: keys strictly rising, no entry equal to what an unlisted address reads as. -/
def memWfFrom : Nat → List Host.Cell → Bool
  | _, [] => true
  | lo, (a, b) :: t => decide (lo ≤ a) && decide (b ≠ memDefault) && memWfFrom (a + 1) t

/-- The canonical form. -/
def memWf (m : List Host.Cell) : Bool := memWfFrom 0 m

/-- Read one byte. -/
def memGet : List Host.Cell → Nat → Byte
  | [], _ => memDefault
  | (a', b) :: t, a => if a' = a then b else memGet t a

/-- Write one byte. -/
def memPut : List Host.Cell → Nat → Byte → List Host.Cell
  | [], a, v => if v = memDefault then [] else [(a, v)]
  | (a', b) :: t, a, v =>
    if a < a' then (if v = memDefault then (a', b) :: t else (a, v) :: (a', b) :: t)
    else if a = a' then (if v = memDefault then t else (a, v) :: t)
    else (a', b) :: memPut t a v

/-- Write bytes at rising addresses. -/
def memPutAll (m : List Host.Cell) (a : Nat) : List Byte → List Host.Cell
  | [] => m
  | b :: t => memPutAll (memPut m a b) (a + 1) t

/-- Set a range of bytes to what an unlisted address reads as. -/
def memZero (m : List Host.Cell) (a len : Nat) : List Host.Cell :=
  m.filter (fun c => decide (c.1 < a) || decide (a + len ≤ c.1))

/-- One write of a command. -/
def memApply (m : List Host.Cell) : MemOp → List Host.Cell
  | .bytes a l => memPutAll m a l
  | .zero a len => memZero m a len
  | .wipe => []

/-- The memory after a command's writes. -/
def memStore (m : List Host.Cell) (ws : List MemOp) : List Host.Cell := ws.foldl memApply m

/-- Read `n` bytes. -/
def memRead (m : List Host.Cell) (a n : Nat) : List Byte := (List.range n).map (fun i => memGet m (a + i))

/-- Little-endian value of bytes (R8). -/
def leNat : List Byte → Nat
  | [] => 0
  | b :: t => b.toNat + 256 * leNat t

/-- `n` little-endian bytes of a value (R8). -/
def leBytes : Nat → Nat → List Byte
  | 0, _ => []
  | n + 1, v => BitVec.ofNat 8 v :: leBytes n (v / 256)

/-- The key of a byte of a stack. -/
def devKey (stack off : Nat) : Nat := stack * 2 ^ 36 + off

end Sys2Proof.Machine
end

