-- ==== Sys2Proof/Machine/Ops.lean ====
section
/-! DEFINITION. The operations that the meanings share: running a command, reading and writing the parts of
the fabric, driving outputs, free values, and raising a fault record (R346, R347). -/

namespace Sys2Proof.Machine

/-! ### Running a command -/

/-- A command's effect on the fabric, closed: what it drove follows what was driven before, and its memory
writes reach the memory. -/
def closeRun (f : Fabric) (g : Fabric) : Fabric :=
  { g with out := f.out ++ g.out, mem := memStore f.mem g.writes, writes := [] }

/-- The fabric as a command finds it: nothing driven and nothing written yet. -/
def openRun (f : Fabric) : Fabric := { f with out := [], writes := [] }

/-- A command that acts at any time. -/
def State.runAlways (s : State) (x : Fabric → Fabric) : Host.Outcome State Fault Refusal :=
  .next { s with fab := closeRun s.fab (x (openRun s.fab)) }

/-- The fabric is held in reset (R452). -/
def Fabric.inReset (f : Fabric) : Bool := f.rs.boot == .held

/-- A command that the fabric does not see while it is held in reset (R452, R454). -/
def State.run (s : State) (x : Fabric → Fabric) : Host.Outcome State Fault Refusal :=
  s.runAlways (fun f => if f.inReset then f else x f)

/-! ### Reading and writing the parts -/

/-- Fabric time in ns (R6). -/
def Fabric.now (f : Fabric) : Nat := f.frame.time
/-- Ledger time (R367). -/
def Fabric.ledgerNow (f : Fabric) : Nat := (Int.ofNat f.frame.time + f.ledger.offset).toNat
/-- Fabric time reaches `t` where it has not yet. -/
def Fabric.advanceTo (f : Fabric) (t : Nat) : Fabric := { f with frame := { f.frame with time := max f.frame.time t } }

def Fabric.slice (f : Fabric) (s : Nat) : Slice := f.slices.getD s {}
def Fabric.engine (f : Fabric) (e : Nat) : Engine := f.engines.getD e {}
def Fabric.fn (f : Fabric) (n : Nat) : Fn := f.fns.getD n {}
def Fabric.sq? (f : Fabric) (q : Nat) : Option Sq := f.sqs.find q
def Fabric.tag? (f : Fabric) (n : Nat) : Option Tag := f.tags.find n
def Fabric.cq? (f : Fabric) (fn k : Nat) : Option Cq := (f.fn fn).cqs.find k
def Fabric.group (f : Fabric) (g : Nat) : Group := f.splice.groups.getD g {}
def Fabric.window (f : Fabric) (w : Nat) : Window := f.windows.getD w {}
def Fabric.site (f : Fabric) (n : Nat) : Site := f.fc.sites.getD n {}
def Fabric.reg (f : Fabric) (r : Nat) : Reg := f.cleat.regs.getD r {}

def Fabric.onSlice (f : Fabric) (s : Nat) (g : Slice → Slice) : Fabric := { f with slices := f.slices.upd s {} g }
def Fabric.onEngine (f : Fabric) (e : Nat) (g : Engine → Engine) : Fabric := { f with engines := f.engines.upd e {} g }
def Fabric.onFn (f : Fabric) (n : Nat) (g : Fn → Fn) : Fabric := { f with fns := f.fns.upd n {} g }
def Fabric.onSq (f : Fabric) (q : Nat) (g : Sq → Sq) : Fabric := { f with sqs := f.sqs.onKey q g }
def Fabric.onTag (f : Fabric) (n : Nat) (g : Tag → Tag) : Fabric := { f with tags := f.tags.onKey n g }
def Fabric.onCq (f : Fabric) (fn k : Nat) (g : Cq → Cq) : Fabric := f.onFn fn (fun x => { x with cqs := x.cqs.onKey k g })
def Fabric.onGroup (f : Fabric) (g : Nat) (h : Group → Group) : Fabric :=
  { f with splice := { f.splice with groups := f.splice.groups.upd g {} h } }
def Fabric.onWindow (f : Fabric) (w : Nat) (g : Window → Window) : Fabric := { f with windows := f.windows.upd w {} g }
def Fabric.onSite (f : Fabric) (n : Nat) (g : Site → Site) : Fabric :=
  { f with fc := { f.fc with sites := f.fc.sites.upd n {} g } }
def Fabric.onReg (f : Fabric) (r : Nat) (g : Reg → Reg) : Fabric :=
  { f with cleat := { f.cleat with regs := f.cleat.regs.upd r {} g } }
def Fabric.onFrame (f : Fabric) (g : Frame → Frame) : Fabric := { f with frame := g f.frame }
def Fabric.onSync (f : Fabric) (g : Sync → Sync) : Fabric := { f with frame := { f.frame with sync := g f.frame.sync } }
def Fabric.onRs (f : Fabric) (g : Recovery → Recovery) : Fabric := { f with rs := g f.rs }
def Fabric.onCtl (f : Fabric) (g : Ctl → Ctl) : Fabric := { f with ctl := g f.ctl }
def Fabric.onFc (f : Fabric) (g : Fc → Fc) : Fabric := { f with fc := g f.fc }
def Fabric.onKeys (f : Fabric) (g : Keys → Keys) : Fabric := { f with keys := g f.keys }
def Fabric.onCleat (f : Fabric) (g : Cleat → Cleat) : Fabric := { f with cleat := g f.cleat }
def Fabric.onCau (f : Fabric) (g : Cau → Cau) : Fabric := { f with cau := g f.cau }
def Fabric.onEnv (f : Fabric) (g : Env → Env) : Fabric := { f with env := g f.env }
def Fabric.onLedger (f : Fabric) (g : Ledger → Ledger) : Fabric := { f with ledger := g f.ledger }
def Fabric.onTu (f : Fabric) (s : Nat) (g : SliceTu → SliceTu) : Fabric := f.onSlice s (fun x => { x with tu := g x.tu })
def Fabric.onLive (f : Fabric) (s : Nat) (g : Counts → Counts) : Fabric := f.onSlice s (fun x => { x with live := g x.live })

/-- Apply `g` for each listed number in turn. -/
def Fabric.each (f : Fabric) (l : List Nat) (g : Nat → Fabric → Fabric) : Fabric := l.foldl (fun a k => g k a) f

/-- The numbers of the slices in a state. -/
def Fabric.slicesIn (f : Fabric) (p : SliceState → Bool) : List Nat := f.slices.keysOf (fun _ x => p x.state)

/-- A slice that is ACTIVE. -/
def Fabric.isActive (f : Fabric) (s : Nat) : Bool := (f.slice s).state == .active

/-- The chip-wide queues that meet a condition, ascending. -/
def Fabric.queuesOf (f : Fabric) (p : Sq → Bool) : List Nat := f.sqs.keysOf (fun _ x => p x)

/-! ### Descriptors of a queue -/

/-- The held descriptor of a queue with a sequence number. -/
def Sq.desc? (q : Sq) (n : BitVec 32) : Option Desc := q.descs.find? (fun d => d.seq == n)
/-- Replace the held descriptor with a sequence number. -/
def Sq.onDesc (q : Sq) (n : BitVec 32) (g : Desc → Desc) : Sq :=
  { q with descs := q.descs.map (fun d => if d.seq == n then g d else d) }
def Fabric.desc? (f : Fabric) (q : Nat) (n : BitVec 32) : Option Desc := (f.sq? q).bind (fun x => x.desc? n)
def Fabric.onDesc (f : Fabric) (q : Nat) (n : BitVec 32) (g : Desc → Desc) : Fabric := f.onSq q (fun x => x.onDesc n g)
/-- Every held descriptor of a slice with its queue. -/
def Fabric.descsOf (f : Fabric) (s : Nat) : List (Nat × Desc) :=
  f.sqs.flatMap (fun e => if e.2.slice = s then e.2.descs.map (fun d => (e.1, d)) else [])
/-- Every held descriptor with its queue. -/
def Fabric.allDescs (f : Fabric) : List (Nat × Desc) :=
  f.sqs.flatMap (fun e => e.2.descs.map (fun d => (e.1, d)))

/-! ### Memory -/

/-- The memory with the command's own writes. -/
def Fabric.memNow (f : Fabric) : List Host.Cell := memStore f.mem f.writes
/-- Bytes of a stack. -/
def Fabric.readMem (f : Fabric) (key n : Nat) : List Byte := memRead f.memNow key n
/-- Write bytes to a stack. -/
def Fabric.writeMem (f : Fabric) (key : Nat) (data : List Byte) : Fabric := { f with writes := f.writes ++ [.bytes key data] }
/-- Write zeros to a stack. -/
def Fabric.zeroMem (f : Fabric) (key len : Nat) : Fabric := { f with writes := f.writes ++ [.zero key len] }

/-! ### Memory under keys (R309) -/

/-- A line that no installed key decrypts to what was written. -/
def noKey : Nat := 2 ^ 64
/-- What was last recorded for a line among the spans of lines under a key. -/
def lineKey (l : List (Nat × Nat × Nat)) (line : Nat) : Option Nat :=
  (l.find? (fun e => decide (e.1 ≤ line) && decide (line < e.1 + e.2.1))).map (·.2.2)
/-- Record a span. -/
def markLines (l : List (Nat × Nat × Nat)) (first n key : Nat) : List (Nat × Nat × Nat) :=
  (first, n, key) :: l.filter (fun e => !(decide (first ≤ e.1) && decide (e.1 + e.2.1 ≤ first + n)))
/-- The installed key of a slot. -/
def Fabric.slotKeyNo (f : Fabric) (slot : Nat) : Nat := (f.keys.mem.getD slot {}).gen
/-- The slot of an extent's key selector in its slice (R47). -/
def Fabric.slotOfSel (f : Fabric) (s sel : Nat) : Nat := (f.slice s).keyBase + sel
/-- The tweak of a 64-byte data unit: its stack, and its number in the stack (R309). -/
def xtsTweak (line : Nat) : Nat := line / 2 ^ 30 * 2 ^ 40 + line % 2 ^ 30
/-- The plaintext of a data unit. -/
def Fabric.linePlain (f : Fabric) (line : Nat) : List Byte := f.readMem (line * 64) 64
/-- A byte as an XTS agent reads it under a slot: a line written under another key, or unencrypted, decrypts to an open
value (R309). -/
def Fabric.keyedByte (f : Fabric) (slot a : Nat) : Byte :=
  let line := a / 64
  let key := f.slotKeyNo slot
  match lineKey f.keys.lineKeys line with
  | some k => if k = key then memGet f.memNow a else Config.otherKeyByte k key (xtsTweak line) (f.linePlain line) (a % 64)
  | none => memGet f.memNow a
/-- Bytes as they are read under a slot. -/
def Fabric.readKeyed (f : Fabric) (slot a n : Nat) : List Byte := (List.range n).map (fun i => f.keyedByte slot (a + i))
/-- Write bytes under a slot. -/
def Fabric.writeKeyed (f : Fabric) (slot a : Nat) (data : List Byte) : Fabric :=
  if data.isEmpty then f
  else (f.writeMem a data).onKeys (fun k => { k with
    lineKeys := markLines k.lineKeys (a / 64) ((a + data.length - 1) / 64 + 1 - a / 64) (f.slotKeyNo slot) })
/-- The zero bytes of Whipping are stored unencrypted (R309, R337). -/
def Fabric.zeroKeyed (f : Fabric) (a n : Nat) : Fabric :=
  (f.zeroMem a n).onKeys (fun k => { k with lineKeys := markLines k.lineKeys (a / 64) (ceilDiv n 64) noKey })
/-- Bytes as the controller stores them: each data unit under its slot's key (R309). -/
def Fabric.cipher (f : Fabric) (slot a : Nat) (data : List Byte) : List Byte :=
  (List.range data.length).map (fun i =>
    Config.xtsByte (f.slotKeyNo slot) (xtsTweak ((a + i) / 64)) ((data.drop (i / 64 * 64)).take 64) (i % 64))

/-! ### Outputs and free values -/

/-- Drive one output. -/
def Fabric.emit (f : Fabric) (o : Out) : Fabric := { f with out := f.out ++ [o] }

/-- A unit of traffic waits at a regulator (R203, R205): stacks 0 to 15, link ports 16 to 47, the host port 48. -/
def Fabric.offer (f : Fabric) (r : Nat) (u : CUnit) : Fabric :=
  f.onReg r (fun g => { g with waiting := g.waiting ++ [{ u with tag := g.nextTag, arrived := g.arrivals, since := f.now }],
                               nextTag := (g.nextTag + 1) % 8192, arrivals := g.arrivals + 1 })
/-- R203: payload rounded up to 64 bytes. -/
def chargeOf (n : Nat) : Nat := ceilDiv n 64 * 64
/-- Units of at most 256 bytes of a transfer (R203): offset and size. -/
def splitUnits (n : Nat) : List (Nat × Nat) := (List.range (ceilDiv n 256)).map (fun i => (256 * i, min 256 (n - 256 * i)))
/-- Traffic at the host port in units of at most 256 bytes, of class 5 for a slice and of class 6 for the fabric, unless
another class is given (R203, R209). What it puts into host memory leaves when the last unit is granted (R205). -/
def Fabric.offerHost (f : Fabric) (s : Option Nat) (n : Nat) (write : Bool) (send : List Out := []) (cls : Nat := if s.isSome then 5 else 6)
    (done : Option Req := none) : Fabric :=
  let l := splitUnits (max n 1)
  l.zipIdx.foldl (fun f u =>
    let last := u.2 + 1 == l.length
    f.offer 48 { slice := s, cls := cls, charge := chargeOf u.1.2, write := write, send := if last then send else [],
                 done := if last then done else none }) f
/-- A write to host memory: it leaves when its last unit is granted (R205). A frozen chip, whose regulators grant nothing
(R384), still answers and reports: its writes pass the regulators by (DESIGN CHOICE). -/
def Fabric.hostWrite (f : Fabric) (s : Option Nat) (n : Nat) (o : Out) : Fabric :=
  if f.rs.frozen then f.emit o else f.offerHost s n true [o]

/-- A message-signalled interrupt of a function (R155); none while its function-level reset runs (R398). -/
def Fabric.irq (f : Fabric) (fn vector : Nat) : Fabric :=
  if (f.fn fn).silent then f else f.hostWrite (f.fn fn).slice 4 (.msix fn vector)

/-- The next value that the rules leave open, and the fabric with it drawn. -/
def Fabric.drawWord (f : Fabric) : Word × Fabric := (Config.freeWord f.free, { f with free := f.free + 1 })
/-- The next draw of the security block's random source (R234, R252). -/
def Fabric.drawRandom (f : Fabric) : Word × Fabric := (Config.randomWord f.free, { f with free := f.free + 1 })
/-- `n` bytes that the rules leave open. -/
def Fabric.drawBytes (f : Fabric) (n : Nat) : List Byte × Fabric :=
  ((List.range n).map (fun i => Config.freeByte (f.free + i)), { f with free := f.free + n })

/-! ### Link units (R313, R314) -/

/-- The key of a link unit: a link job key by its chip-wide index, the hop key of the port, the cluster key. -/
def wireHop : Nat := 1024
def wireCluster : Nat := 1025
/-- The copies of a slot are zeroed while its escrow is still to be destroyed (R318). -/
def Fabric.keyZeroed (f : Fabric) (kind index : Nat) : Bool :=
  f.keys.revokes.any (fun r => r.zeroed && r.kind == kind && r.index == index)
/-- A port has the key: its slot is not EMPTY and its copies are not zeroed. -/
def Fabric.wireReady (f : Fabric) (p k : Nat) : Bool :=
  if k = wireCluster then f.keys.cluster != 0 && !f.keyZeroed 4 0
  else if k = wireHop then f.keys.hop.getD p 0 != 0 && !f.keyZeroed 3 p
  else (f.keys.links.getD k {}).state != 0 && !f.keyZeroed 2 k
/-- The link job key of a slice at one of its indices; a number without a key where there is none. -/
def Fabric.jobKeyNo (f : Fabric) (s loc : Nat) : Nat :=
  ((f.keys.links.find? (fun k => k.2.slice == s && k.2.loc == loc && k.2.state != 0)).map (·.1)).getD 2047
/-- The wire tag of a key (R313). -/
def Fabric.wireTag (f : Fabric) (k : Nat) : BitVec 16 :=
  if k = wireCluster then 0xFFFF else if k = wireHop then 0 else (f.keys.links.getD k {}).tag
/-- Where the counter of a port, key and VL is kept. -/
def ctrKey (p k vl : Nat) : Nat := (p * 8 + vl) * 2048 + k
/-- The seal of a unit with a counter (R314). -/
def Fabric.sealOf (f : Fabric) (p k vl payload ctr : Nat) : Seal :=
  let header := (f.wireTag k).toNat * 2 ^ 48 + vl % 8 * 2 ^ 45 + ctr % 2 ^ 40
  let src := f.splice.chip
  { header := BitVec.ofNat 64 header
    nonce := BitVec.ofNat 96 (src % 2 ^ 16 * 2 ^ 80 + p % 32 * 2 ^ 75 + vl % 8 * 2 ^ 72 + ctr % 2 ^ 72)
    aad := leBytes 8 header ++ leBytes 2 src ++ leBytes 2 (f.cleat.peers.getD p (0, 0)).1 ++ leBytes 2 payload }
/-- A unit is sealed under its key with the next counter and leaves on its port (R313, R314). -/
def Fabric.sendUnit (f : Fabric) (p : Nat) (w : Nat × Nat × Nat) (m : Option LinkMsg) : Fabric :=
  let i := ctrKey p w.1 w.2.1
  let n := f.keys.txLast.getD i 0 + 1
  (f.onKeys (fun k => { k with txLast := k.txLast.put i n })).emit (.link p (f.sealOf p w.1 w.2.1 w.2.2 n) m)
/-- Payload of a sealed unit: 16 to 256 bytes in multiples of 16 (R314). -/
def payloadOf (n : Nat) : Nat := max 16 (ceilDiv n 16 * 16)
/-- A message on VL 7 is one unit, whose payload the model takes as 64 bytes (DESIGN CHOICE: the spec gives no layout of these
messages). -/
def vl7Wire : Nat × Nat × Nat := (wireCluster, 7, 64)

/-! ### The control cores -/

/-- The cores run and accept packets (R372, R409, R419, R453). -/
def Fabric.coresUp (f : Fabric) : Bool := f.rs.boot == .running && f.rs.restart.isNone && f.rs.l4Stage == 0

/-- The cores are out of reset with the firmware loaded: from the end of start-up, and in an L4 up to stage 3 and again
from stage 7 (R385, R453). A restart acts in this state only: before it there is no loaded image to start again (R30, R31). -/
def Fabric.coresRun (f : Fabric) : Bool :=
  (f.rs.boot == .beat || f.rs.boot == .running) && (decide (f.rs.l4Stage < 4) || decide (6 < f.rs.l4Stage))

/-! ### Raising a fault record (R346, R347) -/

/-- R344: source numbers. -/
def srcStack (s : Nat) : Nat := 256 + s
def srcPort (p : Nat) : Nat := 272 + p
def srcHost : Nat := 304
def srcCc : Nat := 305
def srcFs : Nat := 306
def srcQm : Nat := 307
def srcTu : Nat := 308
def srcBelay : Nat := 309
def srcCau : Nat := 310
def srcSplice : Nat := 311
def srcRs : Nat := 312
def srcTm : Nat := 313
def srcKey : Nat := 314
def srcFc : Nat := 511

/-- R347: UNIT_ID from unit type, sub-unit and index. -/
def unitId (ty sub idx : Nat) : BitVec 32 := BitVec.ofNat 32 (ty % 16 * 2 ^ 28 + sub % 4096 * 2 ^ 16 + idx % 65536)
/-- R347: the central unit of a source: in the order of R344, and 10 for the FC. -/
def centralUnit (source : Nat) : BitVec 32 := unitId 6 0 (if source = srcFc then 10 else source - 305)
/-- R347: unit type of a UNIT_ID. -/
def unitType (u : BitVec 32) : Nat := u.toNat / 2 ^ 28
def unitIdx (u : BitVec 32) : Nat := u.toNat % 2 ^ 16

/-- The sensor nearest to a unit: that of its cluster group for an engine (R449), sensor 0 for any other. -/
def nearestSensor (u : BitVec 32) : Nat := if unitType u = 0 then unitIdx u / 16 else 0

/-- Addresses on the sensor port: 0 to SENSORS - 1 temperatures, 62 the core rail, 63 the chip's power. -/
def railAddr : Nat := 62
def powerAddr : Nat := 63

/-- A sensor has no valid reading: it gave none, or it is disabled (R463, R351). -/
def Env.noReading (e : Env) (addr : Nat) : Env :=
  if addr = railAddr then { e with volt := none } else if addr = powerAddr then { e with power := none }
  else { e with temps := e.temps.put addr none }
/-- TEMP, VOLT and SENSOR_INVALID of a record (R347, R463). -/
def stampSensors (f : Fabric) (r : FRec) : FRec :=
  match f.env.temps.find (nearestSensor r.unit) with
  | some (some t) =>
    match f.env.volt with
    | some v => { r with temp := BitVec.ofInt 16 t, volt := v }
    | none => { r with temp := 0x8000, volt := 0, flags := r.flags ||| 0x20 }
  | _ => { r with temp := 0x8000, volt := 0, flags := r.flags ||| 0x20 }

/-- A record shows what an injection inverted (R359). -/
def Inject.shows (i : Inject) (r : FRec) : Bool :=
  let ecc := r.cause == 0x0101 || r.cause == 0x0102
  match i.target with
  | 0 => ecc && r.source == unitIdx i.unit && unitType r.unit == 0
  | 1 => ecc && r.source == srcStack (i.index.toNat / 2 ^ 36 % 16) && decide (r.syndrome.toNat / 256 = i.index.toNat % 2 ^ 36 / 256)
  | 2 => ecc && unitType r.unit == 6 && r.syndrome == BitVec.ofNat 192 (2 ^ 128 + i.index.toNat)
  | 3 => r.cause == 0x0201 && unitIdx r.unit == unitIdx i.unit
  | 5 => r.cause == 0x0301 && unitIdx r.unit == unitIdx i.unit
  | 6 => r.cause == 0x0107
  | _ => false
/-- The armed injection is consumed (R360). -/
def Fabric.consume (f : Fabric) : Fabric :=
  match f.fc.inject with
  | some i => f.onFc (fun c => { c with inject := none, consumed := c.consumed ++ [{ i with consumedAt := some f.now }] })
  | none => f
/-- The first record that an injection causes carries INJECTED; an engine's injection counts as consumed with it
(R360). -/
def Fabric.markInjected (f : Fabric) (r : FRec) : FRec × Fabric :=
  let f := match f.fc.inject with | some i => if i.target = 0 ∧ i.shows r = true then f.consume else f | none => f
  match f.fc.consumed.find? (fun i => i.shows r) with
  | some i => ({ r with flags := r.flags ||| 1, inj := some i }, f.onFc (fun c => { c with consumed := c.consumed.erase i }))
  | none => (r, f)

/-- A site puts a record of an event into its FIFO, or discards and counts it when the FIFO is full (R346).
The FC's own faults enter its queue directly (R344, R354). -/
def Fabric.raise (f : Fabric) (r0 : FRec) : Fabric :=
  let m := f.markInjected (stampSensors f { r0 with time := f.now })
  let r := m.1
  let f := m.2
  if r.source = srcFc then
    if f.fc.queue.length < 256 then f.onFc (fun c => { c with queue := c.queue ++ [{ r with arrived := f.now }] })
    else f.onSite srcFc (fun t => { t with lost := t.lost + 1, lostCnt := satAdd 16 t.lostCnt 1 })
  else
    f.onSite r.source (fun t =>
      if t.fifo.length < 8 then { t with fifo := t.fifo ++ [r] }
      else { t with lost := t.lost + 1, lostCnt := satAdd 16 t.lostCnt 1 })

/-- A record of a central unit. -/
def Fabric.raiseCentral (f : Fabric) (source : Nat) (cause : BitVec 16) (owners : List Nat := [])
    (syn : BitVec 192 := 0) (base : Option Nat := none) : Fabric :=
  f.raise { source := source, unit := centralUnit source, cause := cause, owners := owners, syndrome := syn, base := base }

/-- An armed injection into a fabric array is consumed by a write of the array, and shows when the word is read back:
array 0 the bound descriptor store, 1 a translation cache, 2 Belay's tracking table (R359). -/
def Fabric.injectSram (f : Fabric) (array : Nat) : Fabric :=
  match f.fc.inject with
  | some i =>
    if i.target = 2 ∧ i.index.toNat = array then
      let source := if array = 0 then srcQm else if array = 1 then srcTu else srcBelay
      f.consume.raise { source := source, unit := centralUnit source, cause := if i.bits = 1 then 0x0101 else 0x0102, fabric := true,
                        syndrome := BitVec.ofNat 192 (2 ^ 128 + array) }
    else f
  | none => f

/-! ### Bits -/

/-- Bytes of a bit vector at a byte offset, as a number (R8). -/
def field {w : Nat} (v : BitVec w) (off n : Nat) : Nat := (v.extractLsb' (8 * off) (8 * n)).toNat
/-- Replace bytes of a bit vector at a byte offset. -/
def setField {w : Nat} (v : BitVec w) (off n x : Nat) : BitVec w :=
  let m : BitVec w := BitVec.ofNat w ((2 ^ (8 * n) - 1) * 2 ^ (8 * off))
  (v &&& ~~~m) ||| BitVec.ofNat w (x % 2 ^ (8 * n) * 2 ^ (8 * off))
/-- Whether a bit is set. -/
def bitAt {w : Nat} (v : BitVec w) (i : Nat) : Bool := v.getLsbD i
/-- Positions of the set bits, ascending. -/
def bitsOf {w : Nat} (v : BitVec w) : List Nat := (List.range w).filter (fun i => v.getLsbD i)
/-- A bit vector with the listed bits set. -/
def ofBits (w : Nat) (l : List Nat) : BitVec w := l.foldl (fun v i => v ||| BitVec.ofNat w (2 ^ i)) 0
/-- Bytes of a bit vector, lowest first. -/
def bytesOf {w : Nat} (v : BitVec w) : List Byte := leBytes (w / 8) v.toNat
/-- A bit vector from bytes, lowest first. -/
def ofBytes (w : Nat) (l : List Byte) : BitVec w := BitVec.ofNat w (leNat l)
/-- A field of a register word: `v` at bit `lo`, `w` bits wide. -/
def bf (v lo w : Nat) : Nat := v % 2 ^ w * 2 ^ lo
/-- 1 for true. -/
def b2n (b : Bool) : Nat := if b then 1 else 0

end Sys2Proof.Machine
end

