-- ==== Sys2Proof/Machine/Control.lean ====
section
/-! DEFINITION. Control packets (chapter 14): intakes, the packet checks of R412, sequence numbers (R417),
the BUSY responder (R419) and replies (R411, R416, R420). -/

namespace Sys2Proof.Machine

/-! ### Statuses (R413) -/

def stOk : Byte := 0x00
def stBusy : Byte := 0x01
def stDenied : Byte := 0x02
def stUnknown : Byte := 0x03
def stForm : Byte := 0x04
def stState : Byte := 0x05
def stCheck : Byte := 0x06
def stFull : Byte := 0x07
def stTimeout : Byte := 0x08
def stAborted : Byte := 0x09
def stStale : Byte := 0x0A

/-- RESULT bytes from reply offset, size and value of each listed field. -/
def result (l : List (Nat × Nat × Nat)) : BitVec 256 := l.foldl (fun r e => setField r (e.1 - 0x20) e.2.1 e.2.2) 0
/-- A reply of a status alone. -/
def rep (st : Byte) : Reply := { status := st }
/-- OK with RESULT fields. -/
def repOk (l : List (Nat × Nat × Nat) := []) : Reply := { status := stOk, result := result l }
/-- CHECK_FAILED with its DETAIL. -/
def repCheck (detail : Nat) : Reply := { status := stCheck, detail := BitVec.ofNat 16 detail }

/-! ### Packet fields (R410) -/

/-- The parameter at a packet offset, of `n` bytes. -/
def pfield (p : Packet) (off n : Nat) : Nat := field p.params (off - 0x18) n
/-- The 32 bytes of DATA at 0x20. -/
def pdata (p : Packet) : BitVec 256 := p.params.extractLsb' 64 256
/-- The slice number. -/
def pslice (p : Packet) : Nat := p.sliceByte.toNat % 64
/-- The request that a reply answers. -/
def preq (p : Packet) : Req := { path := p.path, opcode := p.opcode, seq := p.seq }
/-- The parameter bits that an opcode's layout lists. -/
def paramMask (l : List (Nat × Nat)) : BitVec 320 :=
  l.foldl (fun m e => setField m (e.1 - 0x18) e.2 (2 ^ (8 * e.2) - 1)) 0

/-! ### Authentication (R414 to R416) -/

/-- Packet bytes 0x00 to 0x07 followed by 0x18 to 0x3F, byte 0 lowest (R415). -/
def packetAad (p : Packet) : BitVec 384 := p.params ++ (p.seq ++ p.sliceByte ++ p.len ++ p.opcode)
/-- R415: the tag of an operator packet under a control key. -/
def packetTag (key : BitVec 256) (session : BitVec 32) (p : Packet) : BitVec 128 :=
  Config.gcmTag key ((0x01000000 : BitVec 32) ++ session ++ p.seq) (packetAad p)

/-- The bytes of a reply, byte 0 lowest (R411). -/
def replyBytes (q : Req) (r : Reply) (flags : Byte) (tag : BitVec 128) (rseq : BitVec 32) : BitVec 512 :=
  r.result ++ rseq ++ (0 : BitVec 16) ++ r.detail ++ tag ++ q.seq ++ flags ++ r.status ++ q.opcode
/-- R416: the tag of a reply. -/
def replyTag (key : BitVec 256) (session : BitVec 32) (q : Req) (r : Reply) (flags : Byte) (rseq : BitVec 32) : BitVec 128 :=
  let b := replyBytes q r flags 0 rseq
  Config.gcmTag key ((0x02000000 : BitVec 32) ++ session ++ rseq) (b.extractLsb' 192 320 ++ b.extractLsb' 0 64)

/-- Check 1 of R412: the session holds its key, and the packet carries the tag that R415 gives. -/
def Session.verifies (x : Session) (p : Packet) : Bool := !x.keyLost && p.tag == packetTag x.key x.id p
/-- Check 1 at the BUSY responder. While an L4 keeps the session keys away no tag can be verified, and the packet is
answered (R421; DEDUCED). -/
def Session.verifiesBusy (x : Session) (p : Packet) : Bool := x.keyLost || x.verifies p

def Fabric.session? (f : Fabric) (id : BitVec 32) : Option Session := f.ctl.sessions.find? (fun s => s.id == id)
def Fabric.onSession (f : Fabric) (id : BitVec 32) (g : Session → Session) : Fabric :=
  f.onCtl (fun c => { c with sessions := c.sessions.map (fun s => if s.id == id then g s else s) })

/-! ### Host rings (R353, R411) -/

/-- Entries of a ring. -/
def ringSize (r : Ring) : Nat := 2 ^ r.log2
/-- The ring has room for one more entry. -/
def ringRoom (r : Ring) : Bool := decide ((r.tail - r.head).toNat < ringSize r)
/-- PHASE of the next entry: 1 on the first pass of the ring, then alternating (R154, R446). -/
def ringPhase (r : Ring) : Bool := r.tail.toNat / ringSize r % 2 == 0
/-- Host address of the next entry of 64 bytes. -/
def ringSlot (r : Ring) : Nat := r.addr * 4096 + r.tail.toNat % ringSize r * 64

/-- Write one reply to a function's ring and raise its vector (R411); the write is one of 64 bytes at the host port. -/
def Fabric.ringReply (f : Fabric) (n : Nat) (bytes : BitVec 512) : Fabric :=
  let r := (f.fn n).ctlRing
  let b := if ringPhase r then bytes ||| 0x1000000 else bytes
  let g := f.hostWrite (f.fn n).slice 64 (.reply (.fn n) (ringSlot r) b)
  (g.onFn n (fun x => { x with ctlRing := { x.ctlRing with tail := x.ctlRing.tail + 1 } })).irq n r.vector

/-- Write the waiting replies for which the ring has room, in order (R411). -/
def Fabric.drainReplies (f : Fabric) (n : Nat) : Nat → Fabric
  | 0 => f
  | k + 1 =>
    match (f.fn n).waiting with
    | [] => f
    | b :: t =>
      if ringRoom (f.fn n).ctlRing then
        Fabric.drainReplies ((f.onFn n (fun x => { x with waiting := t })).ringReply n b) n k
      else f

/-- Some reply of the function is pending (R446). -/
def Fabric.pendingOf (f : Fabric) (n : Nat) : Bool :=
  f.ctl.awaiting.any (fun q => q.path == .fn n) || f.ctl.due.any (fun e => e.1.path == .fn n)
    || f.rs.l4Pending.any (fun q => q.path == .fn n)

/-- A held write that clears IRX_CTL_RING.ENABLE takes effect when no reply is pending or waiting (R446). -/
def Fabric.settleDisable (f : Fabric) (n : Nat) : Fabric :=
  if (f.fn n).ctlRing.disableHeld && (f.fn n).waiting.isEmpty && !f.pendingOf n then
    f.onFn n (fun x => { x with ctlRing := { x.ctlRing with enable := false, vector := x.ctlRing.heldVector, disableHeld := false } })
  else f

/-! ### Replies -/

/-- FLAGS of a reply: DUPLICATE and HARDWARE (R411). -/
def replyFlags (dup hw : Bool) : Byte := (if dup then 2 else 0) ||| (if hw then 4 else 0)

/-- Write one reply on its path (R411, R416, R421). -/
def Fabric.sendReply (f : Fabric) (q : Req) (r : Reply) (dup hw : Bool) : Fabric :=
  let fl := replyFlags dup hw
  match q.path with
  | .mailbox id =>
    match f.session? id with
    | some s =>
      if s.keyLost then f.emit (.reply q.path 0 (replyBytes q r fl 0 0))
      else (f.emit (.reply q.path 0 (replyBytes q r fl (replyTag s.key id q r fl s.rseq) s.rseq))).onSession id
        (fun t => { t with rseq := t.rseq + 1 })
    | none => f.emit (.reply q.path 0 (replyBytes q r fl 0 0))
  | .fn n =>
    if (f.fn n).silent || !(f.fn n).ctlRing.enable then f
    else if (f.fn n).waiting.isEmpty && ringRoom (f.fn n).ctlRing then f.ringReply n (replyBytes q r fl 0 0)
    else f.onFn n (fun x => { x with waiting := x.waiting ++ [replyBytes q r fl 0 0] })

/-- The firmware writes the reply of an accepted packet and keeps it for duplicates (R411, R417). -/
def Fabric.finishReply (f : Fabric) (q : Req) (r : Reply) : Fabric :=
  let g := f.sendReply q r false false
  match q.path with
  | .mailbox id => g.onSession id (fun s => { s with held := s.held.map (fun h => if h.seq == q.seq then { h with reply := some r } else h) })
  | .fn n => g.settleDisable n

/-- A reply falls due: at once while the cores run, else when they resume (R420). -/
def Fabric.answer (f : Fabric) (q : Req) (r : Reply) : Fabric :=
  if f.coresUp then f.finishReply q r else f.onCtl (fun c => { c with due := c.due ++ [(q, r)] })

/-- The reply of an accepted packet falls due. A packet that an L4 has already answered takes no second reply (R421). -/
def Fabric.reply (f : Fabric) (q : Req) (r : Reply) : Fabric :=
  if f.ctl.awaiting.contains q then (f.onCtl (fun c => { c with awaiting := c.awaiting.erase q })).answer q r else f

/-- The reply of a request that may be absent. -/
def Fabric.replyOpt (f : Fabric) (q : Option Req) (r : Reply) : Fabric :=
  match q with
  | some x => f.reply x r
  | none => f

/-- A write to host memory that a packet asked for: the reply follows its last unit (R195, R325, R406). -/
def Fabric.hostAnswer (f : Fabric) (s : Option Nat) (n : Nat) (o : Out) (q : Req) : Fabric :=
  if f.rs.frozen then (f.emit o).reply q (repOk) else f.offerHost s n true [o] (done := some q)

/-- The cores resume: the replies that fell due are written in order (R420). -/
def Fabric.flushDue (f : Fabric) : Fabric :=
  if f.coresUp then f.ctl.due.foldl (fun g e => g.finishReply e.1 e.2) (f.onCtl (fun c => { c with due := [] })) else f

/-- The session forgets a packet that was answered BUSY after all: its SEQ no longer counts as accepted, so a resent
packet is new (R33, R417, R419). -/
def Session.forget (s : Session) (seq : BitVec 32) : Session :=
  let held := s.held.filter (fun h => h.seq != seq)
  { s with held := held, lastSeq := if s.lastSeq = seq then held.foldl (fun m h => if m < h.seq then h.seq else m) 0 else s.lastSeq }
/-- A packet whose effect a restart forestalls has none: the hardware responder answers it BUSY (R33). -/
def Fabric.bounce (f : Fabric) (q : Req) : Fabric :=
  if f.ctl.awaiting.contains q then
    let f := (f.onCtl (fun c => { c with awaiting := c.awaiting.erase q })).sendReply q (rep stBusy) false true
    match q.path with
    | .mailbox id => f.onSession id (fun s => s.forget q.seq)
    | .fn _ => f
  else f

/-! ### Intakes (R408, R409) -/

/-- Depth of a path's intake. -/
def intakeDepth (n : Nat) : Nat := if n = 0 then 16 else 4

/-- A function's packet reaches its intake, or is discarded and counted (R408). -/
def Fabric.intakeFn (f : Fabric) (n : Nat) (p : Packet) : Fabric :=
  if (f.fn n).ctlRing.enable && decide ((f.fn n).intake.length < intakeDepth n) then
    f.onFn n (fun x => { x with intake := x.intake ++ [(p, f.accepts)] })
  else f.onFn n (fun x => { x with ctlRing := { x.ctlRing with lost := satAdd 16 x.ctlRing.lost 1 } })

/-- A packet failed check 1 of R412. -/
def Fabric.authFail (f : Fabric) : Fabric := f.onCtl (fun c => { c with authFail := satAdd 16 c.authFail 1 })

/-- The BUSY responder takes a packet: checks 1 and 3 of R412, then BUSY (R419). -/
def Fabric.busyAnswer (f : Fabric) (p : Packet) : Fabric :=
  let r := rep (if p.len = 0x40 then stBusy else stForm)
  match p.path with
  | .mailbox id => if (f.session? id).any (fun x => x.verifiesBusy p) then f.sendReply (preq p) r false true else f.authFail
  | .fn _ => f.sendReply (preq p) r false true

/-! ### Acceptance (R412, R417) -/

/-- What an opcode's row of chapter 14 says: who may send it, whether it shows SLICE, its parameters
(packet offset and size), what a VF must own, the stated ranges, and its own checks and effect.
`none` says that the reply falls due later. -/
structure Row where
  op : Bool := true
  pf : Bool := false
  vf : Bool := false
  slice : Bool := false
  params : List (Nat × Nat) := []
  own : Fabric → Nat → Packet → Bool := fun _ _ _ => true
  range : Fabric → Packet → Bool := fun _ _ => true
  body : Packet → Req → Fabric → Fabric × Option Reply

/-- Check 5 of R412. -/
def Row.authorised (row : Row) (p : Packet) (f : Fabric) : Bool :=
  match p.path with
  | .mailbox _ => row.op
  | .fn 0 => row.pf
  | .fn n => row.vf && (f.fn n).slice == some (pslice p) && row.own f n p

/-- Check 6 of R412: reserved fields and stated ranges. -/
def Row.formOk (row : Row) (p : Packet) (f : Fabric) : Bool :=
  decide (p.params &&& ~~~paramMask row.params = 0) && decide (p.sliceByte.toNat < 64)
    && (match p.path with
        | .mailbox _ => row.slice || p.sliceByte == 0
        | .fn n => (row.slice || n != 0 || p.sliceByte == 0) && p.tag == 0)
    && row.range f p

/-- Checks 3, 5 and 6, then the opcode's own checks and effect; the answer so far (R412). -/
def Row.apply (row : Row) (p : Packet) (f : Fabric) : Fabric × Option Reply :=
  if p.len ≠ 0x40 then (f, some (rep stForm))
  else if !row.authorised p f then (f, some (rep stDenied))
  else if !row.formOk p f then (f, some (rep stForm))
  else row.body p (preq p) f

/-- A packet is accepted: it is remembered, checked and applied (R409, R412, R417). -/
def acceptWith (apply : Packet → Fabric → Fabric × Option Reply) (p : Packet) (f : Fabric) : Fabric :=
  let a := apply p (f.onCtl (fun c => { c with awaiting := c.awaiting ++ [preq p] }))
  match a.2 with
  | some r => a.1.reply (preq p) r
  | none => a.1

/-- The session remembers an accepted packet (R417). -/
def Session.remember (s : Session) (p : Packet) : Session :=
  { s with lastSeq := p.seq, held := ({ seq := p.seq, tag := p.tag, opcode := p.opcode, reply := none } :: s.held).take 16 }

/-- The firmware takes a packet, or the BUSY responder does (R409, R412 check 2, R417, R419). -/
def controlWith (apply : Packet → Fabric → Fabric × Option Reply) (p : Packet) (f : Fabric) : Fabric :=
  if !f.coresUp then f.busyAnswer p
  else
    match p.path with
    | .mailbox id =>
      match f.session? id with
      | none => f.authFail
      | some s =>
        if !s.verifies p then f.authFail
        else if s.lastSeq < p.seq then acceptWith apply p (f.onSession id (fun t => t.remember p))
        else
          match s.held.find? (fun h => h.seq == p.seq && h.tag == p.tag) with
          | some h =>
            match h.reply with
            | some r => f.sendReply (preq p) r true false
            | none => f
          | none =>
            (f.onCtl (fun c => { c with stale := satAdd 16 c.stale 1 })).sendReply (preq p) (rep stStale) false false
    | .fn n =>
      if !(f.fn n).ctlRing.enable then f.intakeFn n p
      else if !(f.fn n).waiting.isEmpty then f.intakeFn n p
      else acceptWith apply p f

/-- A packet of a listed opcode. -/
def control (row : Row) (p : Packet) (f : Fabric) : Fabric := controlWith row.apply p f

/-- A packet whose opcode no row lists: the length is checked before the opcode, and nothing after (R412). -/
def unknownApply (p : Packet) (f : Fabric) : Fabric × Option Reply :=
  (f, some (rep (if p.len ≠ 0x40 then stForm else stUnknown)))

end Sys2Proof.Machine
end

