-- ==== Sys2Proof/Machine/Crypt.lean ====
section
/-! DEFINITION. The two check codes of the fabric: CRC-32C (R238) and SHA-384 (R237, FIPS 180-4). -/

namespace Sys2Proof.Machine

/-! ### CRC-32C (R238) -/

/-- One bit step of the reflected polynomial. -/
def crcBit (c : BitVec 32) : BitVec 32 := if c.getLsbD 0 then (c >>> 1) ^^^ 0x82F63B78 else c >>> 1
/-- One byte. -/
def crcByte (c : BitVec 32) (b : Byte) : BitVec 32 :=
  crcBit (crcBit (crcBit (crcBit (crcBit (crcBit (crcBit (crcBit (c ^^^ b.setWidth 32))))))))
/-- CRC-32C of bytes in ascending order. -/
def crc32c (l : List Byte) : BitVec 32 := (l.foldl crcByte 0xFFFFFFFF) ^^^ 0xFFFFFFFF

/-! ### SHA-384 (R237)

FIPS 180-4 fixes the constants as leading fractional bits of roots of the first primes; they are computed here from that rule,
in exact integer arithmetic. -/

/-- The primes below 410, which are the first 80: a number below 23 * 23 is one when no smaller prime up to 19 divides it. -/
def shaPrimes : List Nat :=
  (List.range 410).filter (fun n => 1 < n && [2, 3, 5, 7, 11, 13, 17, 19].all (fun d => d == n || n % d != 0))

/-- The largest r + x with x < 2 ^ bits whose e-th power does not exceed `n`, bit by bit from the top. -/
def rootFrom (e n : Nat) (r : Nat) : Nat → Nat
  | 0 => r
  | bits + 1 =>
    let up := r + 2 ^ bits
    rootFrom e n (if up ^ e ≤ n then up else r) bits

/-- The first 64 bits of the fraction of the e-th root of a prime below 512. -/
def rootFraction (e p : Nat) : Word := BitVec.ofNat 64 (rootFrom e (p * 2 ^ (64 * e)) 0 69)

/-- The constant of each round: cube roots of the first 80 primes. -/
def shaKeys : List Word := shaPrimes.map (rootFraction 3)
/-- Where the hash begins in SHA-384: square roots of the ninth to the sixteenth prime. -/
def shaStart : List Word := ((shaPrimes.drop 8).take 8).map (rootFraction 2)

/-- The sum modulo 2 of a word turned right by several amounts. -/
def turned (x : Word) (amounts : List Nat) : Word := amounts.foldl (fun y n => y ^^^ x.rotateRight n) 0

/-- The eight working words of a round. -/
structure ShaWork where
  a : Word
  b : Word
  c : Word
  d : Word
  e : Word
  f : Word
  g : Word
  h : Word
deriving DecidableEq, Repr

/-- The working words that eight hash words begin with. -/
def ShaWork.of (l : List Word) : ShaWork :=
  { a := l.getD 0 0, b := l.getD 1 0, c := l.getD 2 0, d := l.getD 3 0, e := l.getD 4 0, f := l.getD 5 0, g := l.getD 6 0, h := l.getD 7 0 }
def ShaWork.words (v : ShaWork) : List Word := [v.a, v.b, v.c, v.d, v.e, v.f, v.g, v.h]

/-- One round, given the sum of its constant and its schedule word. -/
def ShaWork.round (v : ShaWork) (kw : Word) : ShaWork :=
  let choice := v.g ^^^ (v.e &&& (v.f ^^^ v.g))
  let majority := (v.a &&& v.b) ||| (v.c &&& (v.a ||| v.b))
  let fresh := kw + v.h + choice + turned v.e [14, 18, 41]
  { v with h := v.g, g := v.f, f := v.e, e := v.d + fresh, d := v.c, c := v.b, b := v.a,
           a := majority + turned v.a [28, 34, 39] + fresh }

/-- The message schedule with `n` more words, newest first. -/
def shaExtend (w : List Word) : Nat → List Word
  | 0 => w
  | n + 1 =>
    let near := w.getD 1 0
    let far := w.getD 14 0
    shaExtend ((w.getD 15 0 + w.getD 6 0 + (turned far [1, 8] ^^^ (far >>> 7)) + (turned near [19, 61] ^^^ (near >>> 6))) :: w) n

/-- A 64-bit word from eight bytes, most significant first. -/
def beWord (l : List Byte) : Word := BitVec.ofNat 64 (l.foldl (fun n b => n * 256 + b.toNat) 0)

/-- One block of 128 bytes. -/
def shaBlock (h : List Word) (blk : List Byte) : List Word :=
  let w0 := (List.range 16).map (fun i => beWord ((blk.drop (8 * i)).take 8))
  let w := (shaExtend w0.reverse 64).reverse
  let v := (shaKeys.zipWith (· + ·) w).foldl ShaWork.round (.of h)
  h.zipWith (· + ·) v.words

/-- Blocks in turn. -/
def shaBlocks : Nat → List Word → List Byte → List Word
  | 0, h, _ => h
  | n + 1, h, l => shaBlocks n (shaBlock h (l.take 128)) (l.drop 128)

/-- The padded message of FIPS 180-4. -/
def shaPad (l : List Byte) : List Byte :=
  let z := (239 - l.length % 128) % 128
  l ++ [0x80] ++ List.replicate z 0 ++ (leBytes 16 (8 * l.length)).reverse

/-- SHA-384 of bytes: 48 bytes, byte 0 first. -/
def sha384 (l : List Byte) : List Byte :=
  let p := shaPad l
  ((shaBlocks (p.length / 128) shaStart p).take 6).flatMap (fun w => (leBytes 8 w.toNat).reverse)

/-- The 48 bytes of a digest as a bit vector, byte 0 lowest. -/
def digestBits (l : List Byte) : BitVec 384 := ofBytes 384 l

end Sys2Proof.Machine
end

