-- ==== Sys2Proof/Machine/Operands.lean ====
section
/-! DEFINITION. Operand forms: the fields of slice records (R60), frame table headers and entries (R80, R82),
descriptors (R145 to R150, R105), map records (R174) and group records (R279). -/

namespace Sys2Proof.Machine

/-- Whether bytes `[off, off + n)` are zero. -/
def zeroAt {w : Nat} (v : BitVec w) (off n : Nat) : Bool := v.extractLsb' (8 * off) (8 * n) == 0

/-! ### Slice definition record (R60) -/

abbrev Rec := BitVec 4096
def recFlags (r : Rec) : Nat := field r 0 1
def recSealed (r : Rec) : Bool := bitAt r 0
def recRealtime (r : Rec) : Bool := bitAt r 1
def recExact (r : Rec) : Bool := bitAt r 2
def recWeight (r : Rec) : Nat := field r 1 1
def recVfs (r : Rec) : Nat := field r 2 1
def recQueues (r : Rec) : Nat := field r 4 2
def recTags (r : Rec) : Nat := field r 6 2
def recTiles (r : Rec) : Nat := field r 8 4
def recMemKeys (r : Rec) : Nat := field r 0xC 2
def recLinkKeys (r : Rec) : Nat := field r 0xE 2
def recHostMin (r : Rec) : Nat := field r 0x10 2
def recKvGib (r : Rec) : Nat := field r 0x12 2
def recEngines (r : Rec) : BitVec 256 := r.extractLsb' (8 * 0x20) 256
def recDma (r : Rec) : BitVec 64 := r.extractLsb' (8 * 0x40) 64
def recPorts (r : Rec) : BitVec 32 := r.extractLsb' (8 * 0x48) 32
def recVl (r : Rec) (p : Nat) : Nat := field r (0x50 + p) 1
def recPortMin (r : Rec) (p : Nat) : Nat := field r (0x70 + 2 * p) 2
def recBase (r : Rec) (s : Nat) : Nat := field r (0xB0 + 8 * s) 1
def recSize (r : Rec) (s : Nat) : Nat := field r (0xB1 + 8 * s) 1
def recMinBw (r : Rec) (s : Nat) : Nat := field r (0xB2 + 8 * s) 3
/-- Stacks on which the record has an extent, ascending. -/
def recStacks (r : Rec) : List Nat := (List.range 16).filter (fun s => recSize r s != 0)
/-- The record's memory in GiB. -/
def recGib (r : Rec) : Nat := ((List.range 16).map (recSize r)).sum

/-- Reserved fields of the record are 0 (R60, R61 check 2). -/
def recReservedOk (r : Rec) : Bool :=
  decide (recFlags r < 8) && zeroAt r 3 1 && zeroAt r 0x14 12 && zeroAt r 0x4C 4 && zeroAt r 0x130 208
    && (List.range 32).all (fun p => decide (recVl r p < 128))
    && (List.range 16).all (fun s => zeroAt r (0xB5 + 8 * s) 3)
/-- Fields lie within their stated ranges (R60, R61 check 2). -/
def recRangesOk (r : Rec) : Bool :=
  decide (1 ≤ recVfs r) && decide (1 ≤ recQueues r) && decide (recQueues r ≤ 4096) && decide (1 ≤ recTags r)
    && decide (recTags r ≤ 4096) && decide (1 ≤ recTiles r) && decide (recTiles r ≤ 65536)
    && decide (1 ≤ recMemKeys r) && decide (recMemKeys r ≤ 504) && decide (recLinkKeys r ≤ 1024)

/-- Part `k` of 32 bytes of a record. -/
def recPart (r : Rec) (k : Nat) : BitVec 256 := r.extractLsb' (256 * k) 256
/-- The record with part `k` replaced. -/
def recSetPart (r : Rec) (k : Nat) (d : BitVec 256) : Rec := setField r (32 * k) 32 d.toNat

/-! ### Frame table (R80, R82) -/

abbrev Header := BitVec 512
def hdrPeriod (h : Header) : Nat := field h 0 4
def hdrGuard (h : Header) : Nat := field h 4 2
def hdrSeqLen (h : Header) : Nat := field h 6 1
def hdrPattern (h : Header) (i : Nat) : Nat := (h.extractLsb' (8 * 0x20 + 4 * i) 4).toNat

abbrev Entry := BitVec 512
def entStart (e : Entry) : Nat := field e 0 4
def entLen (e : Entry) : Nat := field e 4 4
def entGuardRaw (e : Entry) : Nat := field e 8 2
/-- R82: the entry's guard, or the header's where it is 0. -/
def entGuard (h : Header) (e : Entry) : Nat := if entGuardRaw e = 0 then hdrGuard h else entGuardRaw e
def entPattern (e : Entry) : Nat := field e 0xA 1
def entSlice (e : Entry) : Nat := field e 0xB 1
def entValid (e : Entry) : Bool := bitAt e (8 * 0xC)
def entGang (e : Entry) : Bool := bitAt e (8 * 0xC + 1)
def entGangId (e : Entry) : Nat := field e 0xD 1
def entSlack (e : Entry) : Nat := field e 0xE 2
def entEngines (e : Entry) : BitVec 256 := e.extractLsb' 256 256
/-- Reserved bits of an entry are 0 (R86 check 1). R82 says that GANG_ID is 0 where GANG is clear and R86 lists no check for it;
a GANG_ID without GANG fails check 1 as a reserved field (DESIGN CHOICE). -/
def entReservedOk (e : Entry) : Bool :=
  decide (entPattern e < 16) && decide (entSlice e < 64) && decide (field e 0xC 1 < 4) && zeroAt e 0x10 16
    && (entGang e || entGangId e == 0)
/-- Reserved fields and ranges of a header (R86 check 1). -/
def hdrOk (h : Header) : Bool :=
  decide (8000 ≤ hdrPeriod h) && decide (hdrPeriod h ≤ 250000) && decide (100 ≤ hdrGuard h) && decide (hdrGuard h ≤ 4095)
    && decide (1 ≤ hdrSeqLen h) && decide (hdrSeqLen h ≤ 64) && zeroAt h 7 25
    && ((List.range 64).drop (hdrSeqLen h)).all (fun i => hdrPattern h i == 0)

/-- An entry of a bank; an unlisted entry is zeros (R79). -/
def bankEntry (b : Bank) (i : Nat) : Entry := b.entries.getD i 0
/-- The valid entries of a bank with their indexes. -/
def bankValid (b : Bank) : List (Nat × Entry) := b.entries.filter (fun e => entValid e.2)
/-- Patterns that the sequence of a bank names. -/
def bankPatterns (b : Bank) : List Nat :=
  ((List.range (hdrSeqLen b.header)).map (hdrPattern b.header)).eraseDups

end Sys2Proof.Machine
end

