-- ==== Sys2Proof/Machine/Units.lean ====
section
/-! DEFINITION. The resource pool, admission and the capability table (chapter 2). -/

namespace Sys2Proof.Machine

/-! ### Pool (R51, R52) -/

/-- A slice holds resources (R56). -/
def holds (s : SliceState) : Bool := s != .free && s != .defining
/-- A slice whose units are being taken away (R58). -/
def leaving (s : SliceState) : Bool := s == .removing || s == .whipping

/-- An engine is present and not retired (R51, R52). -/
def Fabric.engineIn (f : Fabric) (e : Nat) : Bool := (f.engine e).state != .absent && (f.engine e).state != .retired
def Fabric.dmaIn (f : Fabric) (d : Nat) : Bool := bitAt f.units.dmaPresent d && !bitAt f.units.dmaRetired d
def Fabric.portIn (f : Fabric) (p : Nat) : Bool := bitAt f.units.portPresent p && !bitAt f.units.portRetired p
def Fabric.stackIn (f : Fabric) (s : Nat) : Bool := bitAt f.units.stackPresent s
/-- A retirement of a unit awaits its boundary: it takes no further work (R53, R54). -/
def Fabric.goingOut (f : Fabric) (ty k : Nat) : Bool := f.units.retiring.any (fun t => t.unit == unitId ty 0 k)
/-- A DMA engine of a slice's set that is in the pool (R52). -/
def Fabric.hasDma (f : Fabric) (x : Slice) (d : Nat) : Bool := bitAt (recDma x.record) d && f.dmaIn d

/-- Engines of a slice's set: those of its indices that have not left (R53, R68). -/
def Slice.engineSet (x : Slice) : List Nat := x.engines.filter (fun e => !x.leftEngines.contains e)
def Slice.hasEngine (x : Slice) (e : Nat) : Bool := x.engines.contains e && !x.leftEngines.contains e

/-- The slices that hold resources, other than `s`. -/
def Fabric.others (f : Fabric) (s : Nat) : List (Nat × Slice) := f.slices.filter (fun e => e.1 != s && holds e.2.state)
/-- Every slice that holds resources. -/
def Fabric.holders (f : Fabric) : List (Nat × Slice) := f.slices.filter (fun e => holds e.2.state)

/-- Slices whose set has an engine. -/
def Fabric.engineOwners (f : Fabric) (e : Nat) : List Nat :=
  (f.holders.filter (fun x => x.2.hasEngine e)).map (·.1)
/-- Every copy of a record that holds units: the installed one and that of a pending amendment (R62). -/
def Slice.claims (x : Slice) : List (BitVec 4096) := if x.amend.isSome then [x.record, x.amendRec] else [x.record]
/-- What a pending amendment adds to the engine set (R64). -/
def Slice.added (x : Slice) : List Nat :=
  if x.amend.isSome then (bitsOf (recEngines x.amendRec &&& ~~~recEngines x.record)).filter (fun e => !x.engines.contains e) else []
/-- Engines that a slice holds or will hold (R40, R62). -/
def Slice.claimedEngines (x : Slice) : List Nat := x.engineSet ++ x.added
/-- DMA engines that a slice holds or will hold. -/
def Slice.claimedDma (x : Slice) : BitVec 64 := (x.claims.map recDma).foldl (· ||| ·) 0
def Fabric.dmaOwners (f : Fabric) (d : Nat) : List Nat := (f.holders.filter (fun x => bitAt (recDma x.2.record) d)).map (·.1)
def Fabric.portOwners (f : Fabric) (p : Nat) : List Nat :=
  (f.holders.filter (fun x => bitAt (recPorts x.2.record) p && recVl x.2.record p != 0)).map (·.1)
def Fabric.stackOwners (f : Fabric) (s : Nat) : List Nat := (f.holders.filter (fun x => recSize x.2.record s != 0)).map (·.1)

/-- The reserved region covers part of a GiB range of a stack (R55). -/
def inReserved (stack base size : Nat) : Bool :=
  Config.reservedStacks.contains stack && decide (base < Config.reservedBaseGib + Config.reservedSizeGib)
    && decide (Config.reservedBaseGib < base + size)

/-- The slice that owns a byte of a stack, if one does (R41). -/
def Fabric.ownerOf (f : Fabric) (stack addr : Nat) : Option Nat :=
  ((f.holders.find? (fun x => decide (gib (recBase x.2.record stack) ≤ addr)
      && decide (addr < gib (recBase x.2.record stack + recSize x.2.record stack)))).map (·.1))

/-- Masks of the pool: free and retired units (R424 parts 0 and 33 to 35). -/
def Fabric.freeEngines (f : Fabric) : List Nat :=
  (List.range Config.engines).filter (fun e => f.engineIn e && (f.engineOwners e).isEmpty)
def Fabric.retiredEngines (f : Fabric) : List Nat :=
  (List.range Config.engines).filter (fun e => (f.engine e).state == .retired)
def Fabric.freeDma (f : Fabric) : List Nat :=
  (List.range Config.dmaEngines).filter (fun d => f.dmaIn d && (f.dmaOwners d).isEmpty)
def Fabric.freePorts (f : Fabric) : List Nat :=
  (List.range Config.ports).filter (fun p => f.portIn p && (f.portOwners p).isEmpty)

/-! ### Key ranges (R47) -/

/-- Memory key slots held by slices. -/
def Fabric.keyRanges (f : Fabric) : List (Nat × Nat) := f.holders.map (fun x => (x.2.keyBase, recMemKeys x.2.record))
/-- Free key slots. -/
def Fabric.freeKeys (f : Fabric) : Nat := 504 - (f.keyRanges.map (·.2)).sum
/-- The lowest base from `base` on at which a range of `n` slots is free; `fuel` ranges are skipped at most. -/
def placeKeys (ranges : List (Nat × Nat)) (n : Nat) : Nat → Nat → Option Nat
  | 0, _ => none
  | k + 1, base =>
    match ranges.find? (fun r => decide (r.1 < base + n) && decide (base < r.1 + r.2)) with
    | some r => placeKeys ranges n k (r.1 + r.2)
    | none => if base + n ≤ 512 then some base else none
def Fabric.keyBaseFor (f : Fabric) (n : Nat) : Option Nat := placeKeys f.keyRanges n (f.keyRanges.length + 1) 8

/-! ### Admission (R61) -/

/-- R42: credits of a stack minimum. -/
def stackCredits (minGbps : Nat) : Nat := ceilDiv (minGbps * Config.latStack) 256

/-- The first check that fails, by its number. -/
def firstFail : List (Nat × Bool) → Option Nat
  | [] => none
  | (n, ok) :: t => if ok then firstFail t else some n

/-- What check 3 covers: units that a record names or an amendment adds or raises. -/
structure Cover where
  engines : List Nat
  dma : List Nat
  stackList : List Nat
  ports : List Nat
  newStacks : List Nat

def coverAll (r : Rec) : Cover :=
  { engines := bitsOf (recEngines r), dma := bitsOf (recDma r), ports := bitsOf (recPorts r),
    stackList := (List.range 16).filter (fun s => recSize r s != 0 || recMinBw r s != 0),
    newStacks := (List.range 16).filter (fun s => recSize r s != 0 || recMinBw r s != 0) }
def coverAmend (old new : Rec) : Cover :=
  let raised := (List.range 16).filter (fun s => decide (recMinBw old s < recMinBw new s))
  { engines := bitsOf (recEngines new &&& ~~~recEngines old), dma := bitsOf (recDma new &&& ~~~recDma old),
    stackList := raised, newStacks := raised,
    ports := (List.range 32).filter (fun p => decide (recPortMin old p < recPortMin new p)) }

/-- Check 3. -/
def Fabric.check3 (f : Fabric) (s : Nat) (c : Cover) : Bool :=
  let away := (f.others s).filter (fun x => leaving x.2.state)
  c.engines.all (fun e => f.engineIn e && !away.any (fun x => x.2.hasEngine e))
    && c.dma.all (fun d => f.dmaIn d && !away.any (fun x => bitAt (recDma x.2.record) d))
    && c.stackList.all (fun k => f.stackIn k && !away.any (fun x => recSize x.2.record k != 0))
    && c.ports.all (fun p => f.portIn p && !away.any (fun x => bitAt (recPorts x.2.record) p))
    && c.newStacks.all (fun k => !bitAt f.units.degraded k)

/-- Check 4. Units that a pending amendment of another slice adds count as its own (R62). -/
def Fabric.check4 (f : Fabric) (s : Nat) (r : Rec) : Bool :=
  (f.others s).all (fun x =>
    let o := x.2.record
    decide (x.2.claimedDma &&& recDma r = 0)
      && (!(recSealed o || recSealed r) || decide (ofBits 256 x.2.claimedEngines &&& recEngines r = 0))
      && (List.range 32).all (fun p => decide ((recVl o p) &&& (recVl r p) = 0)))

/-- Check 5. -/
def Fabric.check5 (f : Fabric) (s : Nat) (r : Rec) : Bool :=
  (recStacks r).all (fun k =>
    decide (recBase r k + recSize r k ≤ Config.stackGib) && !inReserved k (recBase r k) (recSize r k)
      && (f.others s).all (fun x => recSize x.2.record k == 0
          || decide (recBase r k + recSize r k ≤ recBase x.2.record k)
          || decide (recBase x.2.record k + recSize x.2.record k ≤ recBase r k)))

/-- Sum of a field over the other holders and the record. A slice with a pending amendment counts the greater of its two
values, so that the sum holds before and after the amendment (R62; DEDUCED). -/
def Fabric.sumWith (f : Fabric) (s : Nat) (r : Rec) (g : Rec → Nat) : Nat :=
  ((f.others s).map (fun x => (x.2.claims.map g).foldl max 0)).sum + g r

/-- Check 6. -/
def Fabric.check6 (f : Fabric) (s : Nat) (r : Rec) : Bool :=
  (List.range 16).all (fun k =>
    decide (f.sumWith s r (fun x => recMinBw x k) + Config.fabRateStack ≤ Config.ratedStack)
      && decide (f.sumWith s r (fun x => stackCredits (recMinBw x k)) + Config.fabCredStack ≤ Config.poolStack))
/-- Check 7. -/
def Fabric.check7 (f : Fabric) (s : Nat) (r : Rec) : Bool :=
  (List.range 32).all (fun p => decide (f.sumWith s r (fun x => recPortMin x p) + Config.fabRateLink ≤ 8 * Config.ratedLane))
/-- Check 8. -/
def Fabric.check8 (f : Fabric) (s : Nat) (r : Rec) : Bool := decide (f.sumWith s r recHostMin ≤ Config.hostMinLimit)
/-- Check 9. -/
def Fabric.check9 (f : Fabric) (s : Nat) (r : Rec) : Bool :=
  decide (f.sumWith s r recQueues ≤ 4096) && decide (f.sumWith s r recTags ≤ 4096) && decide (f.sumWith s r recTiles ≤ 65536)
    && decide (f.sumWith s r recMemKeys ≤ 504) && decide (f.sumWith s r recLinkKeys ≤ 1024) && decide (f.sumWith s r recVfs ≤ 255)
/-- Check 11: REALTIME (R45) and the weight of sealed and unsealed slices. -/
def Fabric.check11 (f : Fabric) (s : Nat) (r : Rec) : Bool :=
  (if recSealed r then recWeight r == 0 else decide (1 ≤ recWeight r))
    && (!recRealtime r || (f.others s).all (fun x => !recRealtime x.2.record
        || ((List.range 16).all (fun k => recSize x.2.record k == 0 || recSize r k == 0)
            && decide (recPorts x.2.record &&& recPorts r = 0))))
/-- Check 12. -/
def Fabric.check12 (f : Fabric) (r : Rec) : Bool := !recExact r || (bitsOf (recEngines r)).all (fun e => (f.engine e).exact)
/-- Check 13. -/
def check13 (r : Rec) : Bool := decide (recKvGib r ≤ recGib r)

/-- The failed check of a SLICE_CREATE, or none. -/
def Fabric.admitCreate (f : Fabric) (s : Nat) : Option Nat :=
  let x := f.slice s
  let r : Rec := x.shadow
  firstFail [(1, x.parts == 0xFFFF), (2, recReservedOk r && recRangesOk r), (3, f.check3 s (coverAll r)), (4, f.check4 s r),
    (5, f.check5 s r), (6, f.check6 s r), (7, f.check7 s r), (8, f.check8 s r), (9, f.check9 s r),
    (10, (f.keyBaseFor (recMemKeys r)).isSome), (11, f.check11 s r), (12, f.check12 r), (13, check13 r)]

/-- VFs enabled in a slice. -/
def Fabric.vfsOf (f : Fabric) (s : Nat) : List Nat := f.fns.keysOf (fun n x => n != 0 && x.slice == some s)

/-- The units of a record that have been retired: never a difference nor an addition (R64). -/
def Fabric.retiredOf (f : Fabric) (r : Rec) : Rec :=
  let e := ofBits 256 ((bitsOf (recEngines r)).filter (fun e => (f.engine e).state == .retired))
  let d := recDma r &&& f.units.dmaRetired
  setField (setField 0 0x20 32 e.toNat) 0x40 8 d.toNat
/-- A record without its retired units. -/
def Fabric.dropRetired (f : Fabric) (r : Rec) : Rec := r &&& ~~~f.retiredOf r

/-- Retired units of a record and those whose retirement is pending (R64). -/
def Fabric.goneOf (f : Fabric) (r : Rec) : Rec :=
  let e := ofBits 256 ((bitsOf (recEngines r)).filter (f.goingOut 0))
  let d := ofBits 64 ((bitsOf (recDma r)).filter (f.goingOut 1))
  f.retiredOf r ||| setField (setField 0 0x20 32 e.toNat) 0x40 8 d.toNat
def Fabric.dropGone (f : Fabric) (r : Rec) : Rec := r &&& ~~~f.goneOf r
/-- A replacement record as it waits for its boundary: what it names beyond the record are its additions (R64). -/
def Fabric.amendTo (f : Fabric) (old new : Rec) : Rec := f.dropGone new ||| (new &&& old)

/-- R64: the fields in which a replacement record may differ. -/
def amendable (sealed : Bool) (r : Rec) : Rec :=
  let a := (List.range 16).foldl (fun v s => setField v (0xB2 + 8 * s) 3 0) r
  let b := setField (setField (setField a 0x70 64 0) 0x10 2 0) 2 1 0
  let c := setField (setField b 0x20 32 0) 0x40 8 0
  if sealed then c else setField c 1 1 0
/-- R64: no other difference, units only added, free units only, and enough VFs. -/
def Fabric.amendDiffOk (f : Fabric) (s : Nat) (old new : Rec) : Bool :=
  let o := f.dropGone old
  let n := f.dropGone new
  amendable (recSealed old) o == amendable (recSealed old) n
    && decide (recEngines o &&& ~~~recEngines n = 0) && decide (recDma o &&& ~~~recDma n = 0)
    && (bitsOf (recEngines n &&& ~~~recEngines o)).all (fun e => (f.engineOwners e).isEmpty || !f.engineIn e || ((f.engineOwners e).any (fun k => leaving (f.slice k).state)))
    && (bitsOf (recDma n &&& ~~~recDma o)).all (fun d => (f.dmaOwners d).isEmpty || !f.dmaIn d || ((f.dmaOwners d).any (fun k => leaving (f.slice k).state)))
    && decide ((f.vfsOf s).length ≤ recVfs n)

/-- R62: no other pending amendment adds an engine that this one adds. -/
def Fabric.addsUnclaimed (f : Fabric) (s : Nat) (c : Cover) : Bool :=
  (f.others s).all (fun x => c.engines.all (fun e => !x.2.added.contains e))
/-- The failed check of a SLICE_AMEND at its receipt, or none (R64: checks 2 to 12). -/
def Fabric.admitAmend (f : Fabric) (s : Nat) (new : Rec) : Option Nat :=
  let old := (f.slice s).record
  let n := f.dropGone new
  firstFail [(2, recReservedOk new && recRangesOk new && f.amendDiffOk s old new), (3, f.check3 s (coverAmend old n) && f.addsUnclaimed s (coverAmend old n)),
    (4, f.check4 s n), (5, f.check5 s n), (6, f.check6 s n), (7, f.check7 s n), (8, f.check8 s n), (9, f.check9 s n),
    (11, f.check11 s n), (12, f.check12 n)]

/-! ### An amendment at its boundary (R64, R65) -/

/-- Add new engines to the slice-local indices, and their clusters (R67, R68). -/
def Slice.addEngines (x : Slice) (l : List Nat) : Slice :=
  { x with engines := x.engines ++ l
           clusters := x.clusters ++ ((l.map (· / 4)).eraseDups.filter (fun c => !x.clusters.contains c)) }
/-- The check that a pending amendment fails at its boundary, or none: check 1, or check 3 for an added unit that has been
retired. `gone` are units whose retirement is due at the same boundary. -/
def Fabric.amendFault (f : Fabric) (x : Slice) (gone : List (BitVec 32)) : Option Nat :=
  let dma := bitsOf (recDma x.amendRec &&& ~~~recDma x.record)
  if x.state != .created && x.state != .active then some 1
  else if x.added.any (fun e => (f.engine e).state == .retired || gone.contains (unitId 0 0 e))
      || dma.any (fun d => bitAt f.units.dmaRetired d || gone.contains (unitId 1 0 d)) then some 3
  else none
/-- The slice with its pending amendment in force. -/
def Fabric.amendedSlice (f : Fabric) (x : Slice) : Slice :=
  { { x with record := f.dropRetired x.amendRec }.addEngines x.added with amend := none }

/-! ### Capability table (R67) -/

/-- R67, R449: STACK_ORDER of a cluster: the stacks in order of their on-die distance from it, ties to the lower stack. -/
def stackOrder (cluster : Nat) : List Nat := sortBy (Config.stackDistance cluster) (List.range Config.stackCount)

/-- An index in a list, or 0xFF. -/
def idxOr (l : List Nat) (x : Nat) : Nat := (l.findIdx? (· == x)).getD 0xFF

/-- Engines of a slice that count as in service (R67). -/
def Fabric.inService (f : Fabric) (x : Slice) : List Nat := x.engineSet.filter (fun e => (f.engine e).state != .retired)

/-- The valid entries of a slice in a pattern of the bank in force. -/
def slotsOf (b : Bank) (s pat : Nat) : List (Nat × Entry) :=
  (bankValid b).filter (fun e => entSlice e.2 == s && entPattern e.2 == pat)
/-- The bank in force (R79). -/
def Frame.bank (fr : Frame) : Bank := if fr.active then fr.bank1 else fr.bank0
/-- The shadow bank (R79). -/
def Frame.shadowBank (fr : Frame) : Bank := if fr.active then fr.bank0 else fr.bank1
/-- The pattern of sequence position `p` in force. -/
def Frame.patternAt (fr : Frame) (p : Nat) : Nat := hdrPattern fr.bank.header p
/-- The pattern of the current frame. -/
def Frame.pattern (fr : Frame) : Nat := fr.patternAt fr.seqPos

/-- Patterns that the sequence in force names. -/
def Frame.patterns (fr : Frame) : List Nat := ((List.range fr.seqLen).map (hdrPattern fr.bank.header)).eraseDups

/-- The guard of an entry in force. -/
def Frame.guardOf (fr : Frame) (e : Entry) : Nat := if entGuardRaw e = 0 then fr.guardNs else entGuardRaw e

/-- Owned engine time of a slice in a pattern, in ns (R67 ENGINE_US). -/
def Fabric.engineNs (f : Fabric) (s : Nat) (x : Slice) (pat : Nat) : Nat :=
  ((slotsOf f.frame.bank s pat).map (fun e =>
    ((f.inService x).filter (fun k => bitAt (entEngines e.2) k)).length * (entLen e.2 - f.frame.guardOf e.2))).sum

/-- The least value of a list, 0 where it is empty. -/
def leastOf : List Nat → Nat
  | [] => 0
  | x :: t => t.foldl min x

def capHdr (s count : Nat) : Word := BitVec.ofNat 64 (bf 3 56 8 + bf 7 48 8 + bf 0x1000 32 16 + bf count 16 16 + bf s 0 6)

/-- PORT_ENT of a port. -/
def Fabric.portEnt (f : Fabric) (x : Slice) (p : Nat) : Word :=
  let lanes := f.cleat.lanes.getD p 0
  let peer := f.cleat.peers.getD p (0, 0)
  let up := lanes != 0 && peer.1 != 0
  let st := if bitAt f.units.portRetired p then 3 else if up then 1 else 2
  BitVec.ofNat 64 ((if up then bf peer.1 48 16 + bf peer.2 40 8 + bf lanes 4 4 else 0)
    + bf (recPortMin x.record p) 16 16 + bf (recVl x.record p) 8 7 + bf st 0 2)

/-- ENGINE_ENT of an engine. -/
def Fabric.engineEnt (f : Fabric) (s : Nat) (x : Slice) (e : Nat) : Word :=
  let g := f.engine e
  let st := if x.leftEngines.contains e || g.state == .retired then 3
    else if (f.others s).any (fun o => o.2.hasEngine e) then 2 else 1
  let near := match (stackOrder (e / 4)).find? (fun k => x.stackList.contains k) with
    | some k => idxOr x.stackList k
    | none => 0xFF
  BitVec.ofNat 64 (bf near 16 8 + bf (idxOr x.clusters (e / 4)) 8 8 + bf (b2n g.exact) 3 1 + bf (b2n g.sparse) 2 1 + bf st 0 2)

/-- Words of a list at 8-byte offsets from a base. -/
def wordsFrom (base : Nat) (l : List Word) : List (Nat × Word) :=
  (l.zipIdx).map (fun e => (base + 8 * e.2, e.1))

/-- The words of IRX_CAP_TABLE but for CHANGE_COUNT (R67). -/
def Fabric.capBody (f : Fabric) (s : Nat) : List (Nat × Word) :=
  let x := f.slice s
  let r : Rec := x.record
  let serv := f.inService x
  let pats := f.frame.patterns
  let time := BitVec.ofNat 64 (bf f.frame.periodNs 24 20 + bf Config.budgetLimitNs 12 12 + bf f.frame.guardNs 0 12)
  let sched := BitVec.ofNat 64 (bf (leastOf (pats.map (f.engineNs s x)) / 1000) 32 16
    + bf (leastOf (pats.map (fun p => (slotsOf f.frame.bank s p).length))) 24 8 + bf serv.length 0 9)
  let mem := BitVec.ofNat 64 (bf x.stackList.length 48 8 + bf (((List.range 16).map (recMinBw r)).sum) 24 24 + bf (recGib r) 0 24)
  let flags := BitVec.ofNat 64 (bf (b2n (recRealtime r)) 4 1 + bf (b2n (serv.all (fun e => (f.engine e).exact))) 3 1
    + bf (b2n (serv.all (fun e => (f.engine e).sparse))) 2 1 + bf (b2n (recSealed r)) 1 1 + bf (b2n (!recSealed r)) 0 1)
  let q0 := BitVec.ofNat 64 (bf (recTiles r) 44 20 + bf (recQueues r) 31 13 + bf (recTags r) 18 13 + bf (recMemKeys r) 8 10 + bf (recVfs r) 0 8)
  let dmaCount := ((bitsOf (recDma r)).filter f.dmaIn).length
  let q1 := BitVec.ofNat 64 (bf (recLinkKeys r) 32 11 + bf (recHostMin r) 16 16 + bf dmaCount 8 8 + bf x.ports.length 0 8)
  let stackEnt := x.stackList.map (fun k => BitVec.ofNat 64 (bf (recSize r k) 32 8 + bf (recMinBw r k) 8 24
    + bf (b2n (bitAt f.units.degraded k)) 1 1 + 1))
  wordsFrom 0x008 [time, sched, mem, flags, q0, q1] ++ wordsFrom 0x100 stackEnt ++ wordsFrom 0x180 (x.ports.map (f.portEnt x))
    ++ wordsFrom 0x400 (x.engines.map (f.engineEnt s x))

/-- The fill of the capability table at CREATED (R67). -/
def Fabric.fillCaps (f : Fabric) (s : Nat) : Fabric :=
  let body := f.capBody s
  f.onSlice s (fun x => { x with caps := body, changeCount := 0 })

/-- CHANGE_COUNT after one more change (R67). -/
def nextChange (n : Nat) : Nat := if n = 0xFFFF then 1 else n + 1

/-- A boundary's update of one slice's table; a change sends SCHED CAP_CHANGE to its VFs (R68). -/
def Fabric.updateCaps (f : Fabric) (s : Nat) : Fabric :=
  let x := f.slice s
  if !holds x.state then f
  else
    let body := f.capBody s
    if body = x.caps then f
    else
      let g := f.onSlice s (fun x => { x with caps := body, changeCount := nextChange x.changeCount })
      g.raise { source := srcFs, unit := centralUnit srcFs, cause := 0x0507, owners := [s] }

/-- The word of IRX_CAP_TABLE at an offset (R67). -/
def Fabric.capWord (f : Fabric) (s off : Nat) : Word :=
  let x := f.slice s
  if !holds x.state then 0
  else if off = 0 then capHdr s x.changeCount
  else ((x.caps.find? (fun e => e.1 == off)).map (·.2)).getD 0

end Sys2Proof.Machine
end

