-- ==== Sys2Proof/Machine/Descriptor.lean ====
section
/-! DEFINITION. Descriptors of the three generations (R144 to R150), their scheduling fields (R105, R148), and
the form checks (R151). -/

namespace Sys2Proof.Machine

/-- A range: virtual address and length in bytes (R144). -/
abbrev Rng := Nat × Nat

/-- The fields of a descriptor of any generation. -/
structure View where
  gen : Nat := 3
  opcode : Nat := 0
  ctx : Nat := 0
  tag : Nat := 0
  budget : Nat := 0
  nonPreempt : Bool := false
  nonReplay : Bool := false
  exact : Bool := false
  barrier : Bool := false
  irq : Bool := false
  force : Bool := false
  epochChk : Bool := false
  epochLo : Nat := 0
  ignoreErr : Bool := false
  chkrow : Bool := false
  waitEn : Bool := false
  waitFence : Nat := 0
  waitVal : Nat := 0
  sigEn : Bool := false
  sigFence : Nat := 0
  kind : Nat := 0
  form : Nat := 0
  formKey : Nat := 0
  formRows : Nat := 1
  arrays : Nat := 1
  sparse : Bool := false
  maxInst : Nat := 1
  countIndex : Nat := 0
  split : Nat := 0
  rowLog2 : Nat := 0
  distK : Nat := 1
  distMetric : Nat := 0
  dimM : Nat := 0
  dimK : Nat := 0
  ranges : List Rng := []
deriving DecidableEq, Repr

/-- Bits `[lo, lo + w)` of a descriptor. -/
def dbits (d : BitVec 512) (lo w : Nat) : Nat := (d.extractLsb' lo w).toNat
/-- A range word with its high length bits. -/
def rangeOf (d : BitVec 512) (off hi : Nat) : Rng :=
  (dbits d (8 * off) 42 * 64, (hi * 2 ^ 22 + dbits d (8 * off + 42) 22) * 64)

/-- R145. -/
def view1 (q : Sq) (d : BitVec 512) : View :=
  { gen := 1, opcode := field d 0 1, barrier := bitAt d 8, irq := bitAt d 9, chkrow := bitAt d 10, ctx := field d 2 2,
    tag := dbits d 32 12, budget := q.defBudget, exact := bitAt q.defFlags 0, nonPreempt := bitAt q.defFlags 1,
    ranges := [rangeOf d 8 0, rangeOf d 0x10 0, rangeOf d 0x18 0] }
/-- R146. -/
def view2 (q : Sq) (d : BitVec 512) : View :=
  { gen := 2, opcode := field d 0 1, barrier := bitAt d 8, irq := bitAt d 9, chkrow := bitAt d 10, nonPreempt := bitAt d 11,
    ignoreErr := bitAt d 12, ctx := field d 2 2, tag := dbits d 32 12, budget := q.defBudget, exact := bitAt q.defFlags 0,
    waitVal := dbits d 64 32, sigEn := bitAt d 106, sigFence := dbits d 107 10, waitEn := bitAt d 117, waitFence := dbits d 118 10,
    ranges := [rangeOf d 0x28 0, rangeOf d 0x30 0, rangeOf d 0x38 0] }
/-- R147, R148. XSYNC starts at bit 80, SCHED at bit 128, XLEN at bit 192. -/
def view3 (d : BitVec 512) : View :=
  let kind := dbits d 128 3
  { gen := 3, opcode := field d 0 1, nonPreempt := bitAt d 8, nonReplay := bitAt d 9, exact := bitAt d 10, barrier := bitAt d 11,
    irq := bitAt d 12, force := bitAt d 16, epochChk := bitAt d 17, ignoreErr := bitAt d 18, epochLo := field d 3 1,
    ctx := field d 4 2, budget := field d 6 2, tag := dbits d 64 12,
    waitVal := dbits d 80 26, sigEn := bitAt d 106, sigFence := dbits d 107 10, waitEn := bitAt d 117, waitFence := dbits d 118 10,
    kind := kind, form := dbits d 131 2, sparse := bitAt d 133, arrays := dbits d 134 2 + 1, formRows := dbits d 136 7 + 1,
    formKey := dbits d 144 16, maxInst := dbits d 160 12 + 1, countIndex := dbits d 172 4, split := dbits d 176 4,
    rowLog2 := dbits d 180 4, distK := dbits d 184 6 + 1, distMetric := dbits d 190 1,
    dimM := dbits d 192 16, dimK := dbits d 208 16,
    ranges := if kind = 4 then [] else [rangeOf d 0x20 (dbits d 224 8), rangeOf d 0x28 (dbits d 232 8),
      rangeOf d 0x30 (dbits d 240 8), rangeOf d 0x38 (dbits d 248 8)] }

/-- R285: a step of a collective group; its STEP word stands in place of the SCHED word. KIND is shown as 8. -/
def viewStep (d : BitVec 512) : View :=
  let v := view3 d
  { gen := 3, opcode := v.opcode, barrier := v.barrier, irq := v.irq, epochChk := v.epochChk, epochLo := v.epochLo,
    ignoreErr := v.ignoreErr, nonPreempt := v.nonPreempt, nonReplay := v.nonReplay, exact := v.exact, force := v.force,
    ctx := v.ctx, budget := v.budget, tag := v.tag, waitVal := v.waitVal, sigEn := v.sigEn, sigFence := v.sigFence,
    waitEn := v.waitEn, waitFence := v.waitFence, kind := 8, dimM := v.dimM, dimK := v.dimK,
    ranges := [rangeOf d 0x20 (dbits d 224 8), rangeOf d 0x28 (dbits d 232 8), rangeOf d 0x30 (dbits d 240 8), rangeOf d 0x38 (dbits d 248 8)] }

/-- The STEP word's fields (R285). -/
def stepElems (d : BitVec 512) : Nat := dbits d 144 32
def stepRoot (d : BitVec 512) : Nat := dbits d 136 6
def stepRedOp (d : BitVec 512) : Nat := dbits d 134 2
def stepFmt (d : BitVec 512) : Nat := dbits d 128 4
/-- The reserved bits of the STEP word are 0. -/
def stepReservedOk (d : BitVec 512) : Bool := dbits d 176 16 == 0 && dbits d 142 2 == 0 && dbits d 132 2 == 0

/-- The fields of a queue's descriptor. -/
def viewOf (q : Sq) (d : BitVec 512) : View :=
  if q.group.isSome then viewStep d else if q.gen = 1 then view1 q d else if q.gen = 2 then view2 q d else view3 d
/-- The fields of a held descriptor. -/
def Desc.view (d : Desc) (q : Sq) : View := viewOf q d.raw

/-- A record about a descriptor of a queue (R347, R348): the function of the queue is a recipient. -/
def descRec (q : Nat) (x : Sq) (d : Desc) (source : Nat) (unit : BitVec 32) (cause : BitVec 16) (syn : BitVec 192) : FRec :=
  { source := source, unit := unit, cause := cause, owners := [x.slice], fns := [x.fn],
    opcode := if d.noContext then 0 else BitVec.ofNat 16 (d.view x).opcode,
    context := if d.noContext then 0 else (d.view x).ctx,
    seq := d.seq, sq := q, syndrome := syn }

/-- Bytes of one descriptor (R439). -/
def descBytes (gen : Nat) : Nat := if gen = 1 then 32 else 64
/-- The tile may not be cut off on account of a slot (R73). -/
def View.fixed (v : View) : Bool := v.nonPreempt || v.nonReplay
/-- Conditional kinds. -/
def View.cond (v : View) : Bool := v.kind == 1 || v.kind == 2
def View.range (v : View) (r : Nat) : Rng := v.ranges.getD r (0, 0)
def View.len (v : View) (r : Nat) : Nat := (v.range r).2
/-- R107: rows of one gather instance. -/
def View.rowsPer (v : View) : Nat := (v.len 3 - 64) / 4 / v.maxInst
/-- R105: bytes of one gather row. -/
def View.rowBytes (v : View) : Nat := 2 ^ (v.rowLog2 + 6)

/-- R71: the budget time in ns, rounded up. -/
def budgetTime (cycles mhz : Nat) : Nat := ceilDiv (cycles * 1000) mhz
/-- R71: the budget is not 0 and its time is within the limit. -/
def budgetOk (cycles mhz : Nat) : Bool := decide (cycles ≠ 0) && decide (cycles * 1000 ≤ Config.budgetLimitNs * mhz)

/-! ### Pool words (R127, R149) -/

def poolOp (d : BitVec 512) : Nat := dbits d 256 2
def poolTokens (d : BitVec 512) : Nat := dbits d 264 24
def poolGrow (d : BitVec 512) : Nat := dbits d 288 16
def poolPerPage (d : BitVec 512) : Nat := dbits d 304 16
def poolSeq (d : BitVec 512) : Nat := dbits d 320 12
/-- R128: pages that a sequence needs. -/
def poolNeed (tokens grow perPage : Nat) : Nat := ceilDiv (tokens + 4 * grow) perPage

/-! ### Form checks (R151) -/

/-- Check 1: reserved fields, and fields that do not apply. -/
def formCheck1 (gen : Nat) (d : BitVec 512) (v : View) : Bool :=
  if v.kind = 8 then
    decide (field d 1 1 < 32) && decide (field d 2 1 < 8) && (v.epochChk || v.epochLo == 0) && decide (field d 8 2 < 4096) && stepReservedOk d
  else if gen = 1 then decide (field d 1 1 < 8) && decide (field d 4 2 < 4096) && zeroAt d 6 2
  else if gen = 2 then
    decide (field d 1 1 < 32) && decide (field d 4 2 < 4096) && zeroAt d 6 2 && decide (dbits d 96 10 = 0) && zeroAt d 0x10 24
  else
    decide (field d 1 1 < 32) && decide (field d 2 1 < 8) && (v.epochChk || v.epochLo == 0) && decide (field d 8 2 < 4096)
      && decide (dbits d 191 1 = 0) && decide (dbits d 143 1 = 0)
      && (v.kind == 3 || decide (dbits d 184 7 = 0))
      && (v.kind == 2 || v.rowLog2 == 0) && (v.kind == 1 || v.split == 0)
      && (v.cond || decide (dbits d 160 16 = 0))
      && (v.form != 0 || v.formKey == 0) && (v.form == 1 || decide (dbits d 136 7 = 0)) && (v.form == 2 || decide (dbits d 134 2 = 0))
      && (decide (v.kind ≤ 2) || !v.sparse)
      && (v.kind != 4 || (v.opcode == 0 && v.form == 0 && zeroAt d 0x18 8 && zeroAt d 0x30 16 && decide (dbits d 258 6 = 0)
            && decide (dbits d 332 52 = 0) && (poolOp d == 0 || v.tag == 0)))

/-- Check 4: R144 ends and the presence rules of R106. -/
def formCheck4 (v : View) : Bool :=
  v.ranges.all (fun r => decide (r.1 + r.2 ≤ 2 ^ 48))
    && (if v.gen ≠ 3 then decide (v.len 0 ≠ 0)
        else match v.kind with
          | 0 => decide (v.len 0 ≠ 0) && (decide (v.len 3 ≠ 0) == v.sparse) && (!v.sparse || decide (v.len 1 ≠ 0))
          | 1 => decide (v.len 0 ≠ 0) && decide (v.len 3 ≠ 0) && (!v.sparse || decide (v.len 1 ≠ 0))
          | 2 => decide (v.len 0 ≠ 0) && decide (v.len 1 = 0) && decide (v.len 2 ≠ 0) && decide (v.len 3 ≠ 0)
          | 3 => decide (v.len 0 ≠ 0) && decide (v.len 1 ≠ 0) && decide (v.len 3 = 0)
          | _ => true)

/-- R117: the metadata of a sparse operand. -/
def sparseOk (v : View) (metaLen : Nat) : Bool :=
  !v.sparse || (decide (v.dimM ≠ 0) && decide (v.dimK ≠ 0) && decide (v.dimK % 4 = 0) && decide (metaLen * 8 = v.dimM * v.dimK))

/-- Check 5: R105, R107, R117, R120, R124 and R127. -/
def formCheck5 (d : BitVec 512) (v : View) : Bool :=
  decide (v.kind ≤ 4) && decide (v.form ≤ 2) && (v.form == 0 || v.formKey != 0)
    && (v.form != 1 || v.kind == 0) && (v.form != 2 || v.kind == 0 || v.kind == 3)
    && (match v.kind with
      | 0 => sparseOk v (v.len 3)
      | 1 => v.form == 0 && decide (64 ≤ v.len 3) && sparseOk v (v.len 3 - 64)
          && (List.range 4).all (fun r => !bitAt (BitVec.ofNat 4 v.split) r || decide (v.len r % v.maxInst = 0))
      | 2 => v.form == 0 && !v.sparse && decide (64 < v.len 3) && decide ((v.len 3 - 64) % (4 * v.maxInst) = 0)
          && decide (v.len 0 = v.maxInst * v.rowsPer * v.rowBytes) && decide (v.rowsPer ≤ 4096)
          && decide ((v.range 2).1 % v.rowBytes = 0)
      | 3 => decide (1 ≤ v.dimM) && decide (v.dimM ≤ 128) && decide (v.len 0 = v.dimM * v.distK * 8)
      | 4 => match poolOp d with
          | 0 => decide (1 ≤ poolGrow d) && decide (1 ≤ poolPerPage d)
              && decide (poolNeed (poolTokens d) (poolGrow d) (poolPerPage d) ≤ 65536)
          | 1 => poolTokens d == 0 && poolGrow d == 0 && poolPerPage d == 0
          | 2 => poolTokens d == 0 && poolGrow d == 0 && poolPerPage d == 0 && poolSeq d == 0
          | _ => false
      | _ => false)

/-- Two virtual ranges overlap. -/
def rngOverlap (a b : Rng) : Bool := overlapLen a.1 a.2 b.1 b.2
where
  /-- Two intervals of non-zero length overlap. -/
  overlapLen (a la b lb : Nat) : Bool := decide (la ≠ 0) && decide (lb ≠ 0) && decide (a < b + lb) && decide (b < a + la)

/-- An engine can run a descriptor (R150 EXACT_SUM, R118). -/
def canRun (v : View) (e : Engine) : Bool := (!v.exact || e.exact) && (!v.sparse || e.sparse)

/-! ### Group records and step checks (R279, R285) -/

abbrev GRec := BitVec 2048
def gEndToEnd (r : GRec) : Bool := bitAt r 0
def gSwitchAllowed (r : GRec) : Bool := bitAt r 1
def gN (r : GRec) : Nat := field r 1 1
def gRank (r : GRec) : Nat := field r 2 1
def gVl (r : GRec) : Nat := field r 3 1
def gJob (r : GRec) : BitVec 32 := r.extractLsb' 32 32
def gJobKey (r : GRec) : Nat := field r 8 2
def gSwitch (r : GRec) : Nat := field r 0xA 2
def gGang (r : GRec) : Nat := field r 0xC 1
def gChunkLog2 (r : GRec) : Nat := field r 0xD 1
def gWindow (r : GRec) : Nat := field r 0xE 1
def gSq (r : GRec) : Nat := field r 0xF 1
def gTimeoutUs (r : GRec) : Nat := field r 0x10 2
def gFn (r : GRec) : Nat := field r 0x12 1
def gSlice (r : GRec) : Nat := field r 0x13 1 % 64
def gMember (r : GRec) (i : Nat) : Nat := field r (0x20 + 2 * i) 2

/-- R217, R220: bits of an element of a reduction data format; 0 for any other code. -/
def fmtBits (fmt : Nat) : Nat :=
  match fmt with
  | 0 => 4 | 1 => 6 | 2 => 6 | 3 => 8 | 4 => 8 | 10 => 8 | 11 => 16 | 12 => 16 | 13 => 32 | 14 => 32 | _ => 0

/-- The byte lengths of ranges 0 and 1 that a step may have (R285, Table Step ranges). -/
def stepLens (op e n bits : Nat) : List (Nat × Nat) :=
  let len (x : Nat) : Nat := x * bits / 8
  match op with
  | 1 => [(len e, len e), (len e, 0)]
  | 2 => [(len (e / n), len e)]
  | 3 => [(len e, len (e / n)), (len e, 0)]
  | 4 => [(len e, 0)]
  | _ => [(0, 0)]

/-- Every length of a step is a whole number of 64-byte units. -/
def stepWhole (op e n bits : Nat) : Bool :=
  let whole (x : Nat) : Bool := x * bits % 512 == 0
  match op with
  | 1 | 4 => whole e
  | 2 | 3 => whole e && whole (e / n)
  | _ => true

/-- The step checks that replace form checks 5, 6 and 9 on a step queue (R285). -/
def stepCheck (d : BitVec 512) (v : View) (r : GRec) : Bool :=
  let e := stepElems d
  let n := gN r
  let op := v.opcode
  let bits := fmtBits (stepFmt d)
  decide (1 ≤ op) && decide (op ≤ 5) && bits != 0 && stepRedOp d != 3
    && (if op = 4 then decide (stepRoot d < n) else stepRoot d == 0)
    && (op == 1 || op == 2 || stepRedOp d == 0)
    && (op != 5 || (e == 0 && stepFmt d == 0))
    && !v.nonPreempt && !v.nonReplay && !v.exact && !v.force
    && v.range 2 == (0, 0) && v.range 3 == (0, 0) && v.dimM == 0 && v.dimK == 0
    && (!(op == 1 || op == 2 || op == 3) || e % n == 0)
    && stepWhole op e n bits
    && (stepLens op e n bits).contains (v.len 0, v.len 1)

/-- The failed form check of a descriptor that has been read, or none (R151). A tag in destruction is held for the
descriptors that were accepted before (R168). -/
def Fabric.formCheck (f : Fabric) (q : Sq) (d : Desc) : Option Nat :=
  let raw := d.raw
  let v := viewOf q raw
  let x := f.slice q.slice
  let poolFree := v.kind == 4 && poolOp raw != 0
  firstFail [(1, formCheck1 q.gen raw v), (2, q.gen != 3 || budgetOk v.budget (Config.engineMhz f.rs.fuses.grade)),
    (3, poolFree || (match f.tag? v.tag with | some t => t.fn == q.fn && !(t.destroying && decide (t.destroyFrom ≤ d.order)) | none => false)),
    (4, formCheck4 v), (5, match q.group with | some g => stepCheck raw v (f.group g).record | none => formCheck5 raw v),
    (6, (v.kind != 4 || decide (recKvGib x.record ≠ 0)) && (v.kind == 8 || !(v.force && v.nonReplay))),
    (7, true),
    (8, v.nonReplay || (v.ranges.drop 1).all (fun r => !rngOverlap (v.range 0) r)),
    (9, v.kind == 8 || !(v.exact || v.sparse) || (f.inService x).any (fun e => canRun v (f.engine e)))]

/-- The completion status of a failed form check (R151). -/
def formStatus (n : Nat) : Nat := if n = 3 then 4 else 3

/-! ### Fences (R157) -/

/-- W of a descriptor against the fence's value at binding. -/
def waitValue (v : View) (value : BitVec 32) : BitVec 32 :=
  if v.gen = 2 then BitVec.ofNat 32 v.waitVal
  else
    let w := (value &&& 0xFC000000) ||| BitVec.ofNat 32 v.waitVal
    if (0 : Int) + 2 ^ 25 < (w - value).toInt then w - 0x4000000 else w
/-- The wait is over: the signed difference VALUE - W is at least 0. -/
def waitDone (value w : BitVec 32) : Bool := decide (0 ≤ (value - w).toInt)

/-- A fence of a function. -/
def Fabric.fence (f : Fabric) (fn n : Nat) : Fence := (f.fn fn).fences.getD n {}
def Fabric.onFence (f : Fabric) (fn n : Nat) (g : Fence → Fence) : Fabric := f.onFn fn (fun x => { x with fences := x.fences.upd n {} g })

/-- The function still has to wait on a fence for a bound descriptor. -/
def Fabric.fenceDone (f : Fabric) (q : Sq) (d : Desc) : Bool :=
  let v := d.view q
  !v.waitEn || waitDone (f.fence q.fn v.waitFence).value d.waitVal

end Sys2Proof.Machine
end

