-- ==== Sys2Proof/Machine/Formats.lean ====
section
/-! DEFINITION. Number formats (R217 to R219), the exact-sum rounding (R223 to R226), the projection (R234 to
R236), the checksum row (R268), and the reduction arithmetic of the link pairs (R239 to R241). -/

namespace Sys2Proof.Machine

/-! ### Formats (R217, R223) -/

/-- Special values that a format encodes: none, the NaN of E4M3, or those of IEEE 754 and E5M2. -/
inductive Specials where
  | none | e4m3 | ieee
deriving DecidableEq, Repr

/-- A floating element format: exponent bits, mantissa bits, bias, special values. -/
structure Fl where
  e : Nat
  m : Nat
  bias : Int
  sp : Specials
deriving DecidableEq, Repr

/-- The element format of a code; none for the integer codes and the reserved one. An MX code gives its elements. -/
def flOf (code : Nat) : Option Fl :=
  match code with
  | 0 | 5 => some ⟨2, 1, 1, .none⟩
  | 1 | 6 => some ⟨3, 2, 3, .none⟩
  | 2 | 7 => some ⟨2, 3, 1, .none⟩
  | 3 | 8 => some ⟨4, 3, 7, .e4m3⟩
  | 4 | 9 => some ⟨5, 2, 15, .ieee⟩
  | 11 => some ⟨8, 7, 127, .ieee⟩
  | 12 => some ⟨5, 10, 15, .ieee⟩
  | 13 => some ⟨8, 23, 127, .ieee⟩
  | _ => none
/-- A block-scaled format. -/
def isMx (code : Nat) : Bool := decide (5 ≤ code) && decide (code ≤ 9)
/-- Bits of an element. -/
def elemBits (code : Nat) : Nat :=
  match flOf code with
  | some f => 1 + f.e + f.m
  | none => if code = 10 then 8 else if code = 14 then 32 else 0
/-- R223: significand bits with the hidden bit, and the exponent of the smallest normal. -/
def Fl.p (f : Fl) : Nat := f.m + 1
def Fl.emin (f : Fl) : Int := 1 - f.bias
/-- The magnitude code of the largest finite value. -/
def Fl.maxCode (f : Fl) : Nat :=
  match f.sp with
  | .none => 2 ^ (f.e + f.m) - 1
  | .e4m3 => 2 ^ (f.e + f.m) - 2
  | .ieee => (2 ^ f.e - 1) * 2 ^ f.m - 1
/-- R224: formats whose overflow saturates; the others go to infinity. -/
def saturates (code : Nat) : Bool := decide (code ≤ 9)

/-- A decoded element: the value is `mag * 2^exp` with its sign. -/
inductive Elem where
  | nan
  | inf (neg : Bool)
  | fin (neg : Bool) (mag : Nat) (exp : Int)
deriving DecidableEq, Repr

/-- Decode the bits of an element (R217). -/
def decodeElem (code bits : Nat) : Elem :=
  match flOf code with
  | some f =>
    let neg := decide (bits / 2 ^ (f.e + f.m) % 2 = 1)
    let e := bits / 2 ^ f.m % 2 ^ f.e
    let m := bits % 2 ^ f.m
    if f.sp = .e4m3 ∧ e = 15 ∧ m = 7 then .nan
    else if f.sp = .ieee ∧ e = 2 ^ f.e - 1 then (if m = 0 then .inf neg else .nan)
    else if e = 0 then .fin neg m (f.emin - f.m)
    else .fin neg (2 ^ f.m + m) (Int.ofNat e - f.bias - f.m)
  | none =>
    let w := elemBits code
    let neg := decide (2 ^ (w - 1) ≤ bits % 2 ^ w)
    .fin neg (if neg then 2 ^ w - bits % 2 ^ w else bits % 2 ^ w) 0

/-- A signed value on the grid whose unit is 2^-273 (half the CAU's bit 0). -/
def Elem.grid : Elem → Int
  | .fin neg mag exp =>
    let k := exp + 273
    let v : Int := Int.ofNat (if 0 ≤ k then mag * 2 ^ k.toNat else mag / 2 ^ (-k).toNat)
    if neg then -v else v
  | _ => 0
/-- An element scaled by a block scale byte (R218). -/
def Elem.scale (e : Elem) (s : Nat) : Elem :=
  if s = 255 then .nan
  else match e with
    | .fin n m x => .fin n m (x + (Int.ofNat s - 127))
    | o => o
/-- The product of two elements (R226). -/
def Elem.mul : Elem → Elem → Elem
  | .nan, _ => .nan
  | _, .nan => .nan
  | .inf a, .inf b => .inf (a != b)
  | .inf a, .fin b m _ => if m = 0 then .nan else .inf (a != b)
  | .fin a m _, .inf b => if m = 0 then .nan else .inf (a != b)
  | .fin a m x, .fin b n y => .fin (a != b) (m * n) (x + y)
/-- A finite element. -/
def Elem.isFin : Elem → Bool
  | .fin _ _ _ => true
  | _ => false

/-- Bits `[lo, lo + w)` of little-endian bytes (R219). -/
def bitsAt (l : List Byte) (lo w : Nat) : Nat := leNat ((l.drop (lo / 8)).take (w / 8 + 2)) / 2 ^ (lo % 8) % 2 ^ w
/-- Bytes of an operand that stores `stored` of its `n` elements: the elements first, then for an MX operand one scale byte
for each block of 32 of the `n` (R219). -/
def operandBytes (code stored n : Nat) : Nat := ceilDiv (stored * elemBits code) 8 + (if isMx code then n / 32 else 0)
/-- Bytes that `n` elements of a format take. -/
def elemBytes (code n : Nat) : Nat := operandBytes code n n
/-- Stored element `i` of an operand that stores `n`, scaled by that of its block. -/
def storedAt (code n : Nat) (l : List Byte) (i block : Nat) : Elem :=
  let e := decodeElem code (bitsAt l (i * elemBits code) (elemBits code))
  if isMx code then e.scale ((l.getD (ceilDiv (n * elemBits code) 8 + block) 0).toNat) else e
/-- Element `i` of an operand of `n` elements. -/
def elemAt (code n : Nat) (l : List Byte) (i : Nat) : Elem := storedAt code n l i (i / 32)

/-! ### Rounding (R223 to R225, R241) -/

/-- Floor of the binary logarithm. -/
def msb (n : Nat) : Nat := Nat.log2 n

/-- Round a signed grid value once into a floating format; the code, and whether it went beyond the largest finite. -/
def roundFl (code : Nat) (f : Fl) (v : Int) (negZero : Bool) : Nat × Bool :=
  let sg := 2 ^ (f.e + f.m)
  if v = 0 then ((if negZero then sg else 0), false)
  else
    let m := v.natAbs
    let e : Int := Int.ofNat (msb m) - 273
    let q : Int := max e f.emin - f.p + 1
    let sh := (q + 273).toNat
    let keep0 := m / 2 ^ sh
    let rem := m % 2 ^ sh
    let keep := if 2 * rem > 2 ^ sh ∨ (2 * rem = 2 ^ sh ∧ keep0 % 2 = 1) then keep0 + 1 else keep0
    let low := (q - (f.emin - f.m)).toNat
    let mag := low * 2 ^ f.m + keep
    let neg := if v < 0 then sg else 0
    if f.maxCode < mag then (neg + (if saturates code then f.maxCode else (2 ^ f.e - 1) * 2 ^ f.m), true) else (neg + mag, false)

/-- The canonical NaN of a format, or none where it encodes none (R226, R241). -/
def nanCode (code : Nat) : Option Nat :=
  match code with
  | 3 | 4 => some 0x7F
  | 11 => some 0x7FC0
  | 12 => some 0x7E00
  | 13 => some 0x7FC00000
  | _ => none
/-- The infinity of a format as R226 encodes it; E4M3 gives its NaN, and a format without either saturates. -/
def infCode (code : Nat) (neg : Bool) : Nat :=
  match flOf code with
  | some f =>
    let sg := if neg then 2 ^ (f.e + f.m) else 0
    match f.sp with
    | .ieee => sg + (2 ^ f.e - 1) * 2 ^ f.m
    | .e4m3 => 0x7F
    | .none => sg + f.maxCode
  | none => 0

/-- ulp of a value on the grid (R228). -/
def ulpGrid (f : Fl) (v : Int) : Int :=
  let e : Int := if v = 0 then f.emin else Int.ofNat (msb v.natAbs) - 273
  let q : Int := max e f.emin - f.p + 1
  Int.ofNat (2 ^ (q + 273).toNat)

/-! ### Projection (R234 to R236) -/

/-- The vector r of M signs (R234); true for -1. -/
def signsFrom : Nat → Word → List Bool
  | 0, _ => []
  | n + 1, x =>
    let a := x ^^^ (x <<< 13)
    let b := a ^^^ (a >>> 7)
    let c := b ^^^ (b <<< 17)
    bitAt c 63 :: signsFrom n c
def projSigns (key : Word) (inst q : Nat) (seq : BitVec 32) (m : Nat) : List Bool :=
  let seed := key ^^^ (BitVec.ofNat 64 inst <<< 44) ^^^ (BitVec.ofNat 64 q <<< 32) ^^^ seq.setWidth 64
  signsFrom m (if seed = 0 then 1 else seed)

/-- What a shape word describes. -/
structure Shape where
  fa : Nat
  fb : Nat
  fc : Nat
  m : Nat
  k : Nat
  n : Nat
  sat : Bool
deriving DecidableEq, Repr

/-- Bytes of operand A. Sparse A stores half of its elements; its blocks still cover 32 elements along K (R117, R219). -/
def Shape.aBytes (s : Shape) (sparse : Bool) : Nat := operandBytes s.fa (if sparse then s.m * s.k / 2 else s.m * s.k) (s.m * s.k)
/-- Element of A at a row and column, expanded with zeros where A is sparse (R117, R119, R219). -/
def aAt (s : Shape) (sparse : Bool) (a md : List Byte) (i k : Nat) : Elem :=
  if !sparse then elemAt s.fa (s.m * s.k) a (i * s.k + k)
  else
    let g := i * (s.k / 4) + k / 4
    let nib := bitsAt md (4 * g) 4
    let stored := s.m * s.k / 2
    let block := (i * s.k + k) / 32
    if nib % 4 = k % 4 then storedAt s.fa stored a (2 * g) block
    else if nib / 4 = k % 4 then storedAt s.fa stored a (2 * g + 1) block
    else .fin false 0 0

/-- The outcomes of one column's test. -/
inductive Col where
  | pass | mismatch | unchecked
deriving DecidableEq, Repr

/-- Whether an element of C counts as NaN, infinite or saturated (R236). -/
def oddElem (s : Shape) (code : Nat) (e : Elem) : Bool :=
  match e with
  | .fin _ _ _ => s.sat && saturates s.fc && (match flOf s.fc with | some f => code % 2 ^ (f.e + f.m) == f.maxCode | none => false)
  | _ => true

/-- Half the ulp of an element of C, on the grid: in the element format, times the block's scale for MX. -/
def halfUlp (s : Shape) (c : List Byte) (total idx : Nat) : Int :=
  match flOf s.fc with
  | none => 0
  | some f =>
    let raw := decodeElem s.fc (bitsAt c (idx * elemBits s.fc) (elemBits s.fc))
    let u := ulpGrid f raw.grid / 2
    if isMx s.fc then
      let sc : Int := Int.ofNat ((c.getD (ceilDiv (total * elemBits s.fc) 8 + idx / 32) 0).toNat) - 127
      if 0 ≤ sc then u * Int.ofNat (2 ^ sc.toNat) else u / Int.ofNat (2 ^ (-sc).toNat)
    else u

/-- A signed element's grid value. -/
def signed (neg : Bool) (v : Int) : Int := if neg then -v else v

/-- One column: w against v within the bound; for INT32 modulo 2^32. -/
def columnTest (s : Shape) (codes : List (Nat × Elem)) (w v bound : Int) (vFin : Bool) : Col :=
  if codes.any (fun e => oddElem s e.1 e.2) then .unchecked
  else if !vFin then .mismatch
  else if s.fc = 14 then (if (w - v) % (2 ^ 32 * 2 ^ 273) = 0 then .pass else .mismatch)
  else if (w - v).natAbs ≤ bound.toNat then .pass else .mismatch

/-- Outcome of a list of columns: MISMATCH before UNCHECKED before PASS (R236). -/
def colsOutcome (l : List Col) : Nat := if l.contains .mismatch then 1 else if l.contains .unchecked then 2 else 0

/-- Raw element codes of column `j` of C over `rows` rows. -/
def colCodes (s : Shape) (c : List Byte) (total rows j : Nat) : List (Nat × Elem) :=
  (List.range rows).map (fun i =>
    let idx := i * s.n + j
    (bitsAt c (idx * elemBits s.fc) (elemBits s.fc), elemAt s.fc total c idx))

/-- An entry of an accumulator file: 576 bits in two's complement, bit 0 of weight 2^-272. The grid of a value has one bit
below it (R233). -/
def accEntry (v : Int) : BitVec 576 := BitVec.ofInt 576 (v / 2)
/-- The value v_j that the file ACC holds for a column, and whether it is a number. -/
def columnV (s : Shape) (sparse : Bool) (a b md : List Byte) (r : List Bool) (j : Nat) : Int × Bool :=
  let sum := (List.range s.k).foldl (fun (acc : Int × Bool) k =>
    let eb := elemAt s.fb (s.n * s.k) b (j * s.k + k)
    r.zipIdx.foldl (fun (acc : Int × Bool) ri =>
      let p := (aAt s sparse a md ri.2 k).mul eb
      (acc.1 + signed ri.1 p.grid, acc.2 && p.isFin)) acc) (0, true)
  ((accEntry sum.1).toInt * 2, sum.2)
/-- What the files U and ACC hold when a projection ends: the last 1,024 columns of A multiplied by r, and the last column
group of v (R233, R235). -/
def accFiles (s : Shape) (sparse : Bool) (a b md : List Byte) (r : List Bool) : List (BitVec 576) × List (BitVec 576) :=
  let k0 := (s.k - 1) / 1024 * 1024
  let j0 := (s.n - 1) / 1024 * 1024
  ((List.range (s.k - k0)).map (fun i =>
      accEntry (r.zipIdx.foldl (fun acc ri => acc + signed ri.1 (aAt s sparse a md ri.2 (k0 + i)).grid) 0)),
    (List.range (s.n - j0)).map (fun j => accEntry (columnV s sparse a b md r (j0 + j)).1))

/-- A projection of C against A and B (R235, R236): the outcome, and the CRC-32C of the 576-bit values of v (R261). -/
def project (s : Shape) (sparse : Bool) (a b c md : List Byte) (r : List Bool) : Nat × BitVec 32 :=
  let total := s.m * s.n
  let vs := (List.range s.n).map (columnV s sparse a b md r)
  let cols := vs.zipIdx.map (fun vj =>
    let codes := colCodes s c total s.m vj.2
    let w := (r.zip codes).foldl (fun x e => x + signed e.1 e.2.2.grid) 0
    let bound := (List.range s.m).foldl (fun x i => x + halfUlp s c total (i * s.n + vj.2)) 0
    columnTest s codes w vj.1.1 bound vj.1.2)
  (colsOutcome cols, crc32c (vs.flatMap (fun v => leBytes 72 (accEntry v.1).toNat)))

/-- The checksum row (R267, R268): C holds M + 1 rows. -/
def checkRow (s : Shape) (c : List Byte) : Nat :=
  let total := (s.m + 1) * s.n
  colsOutcome ((List.range s.n).map (fun j =>
    let codes := colCodes s c total (s.m + 1) j
    let w := (codes.take s.m).foldl (fun x e => x + e.2.grid) 0
    let k := ((codes.getD s.m (0, .nan)).2).grid
    let bound := (List.range (s.m + 1)).foldl (fun x i => x + halfUlp s c total (i * s.n + j)) 0
    columnTest s codes w k bound true))

/-! ### Reduction arithmetic (R239 to R241) -/

/-- One element of a sum: the value on the grid, the special state (0 finite, 1 +Infinity, 2 -Infinity, 3 NaN), and
whether every contribution was -0. -/
structure PSum where
  val : Int
  special : Nat
  negZero : Bool
deriving DecidableEq, Repr

/-- A contribution as a sum of one. -/
def psumOf (e : Elem) : PSum :=
  match e with
  | .nan => ⟨0, 3, false⟩
  | .inf neg => ⟨0, if neg then 2 else 1, false⟩
  | .fin neg mag _ => ⟨e.grid, 0, neg && mag == 0⟩
/-- R226 for two special states. -/
def joinSpecial (a b : Nat) : Nat := if a = 0 then b else if b = 0 then a else if a = b then a else 3
def PSum.add (a b : PSum) : PSum := ⟨a.val + b.val, joinSpecial a.special b.special, a.negZero && b.negZero⟩

/-- R240: width of the partial form in bits, and the exponent of its bit 0; none for BF16 and FP32. -/
def partialForm (code : Nat) : Option (Nat × Int) :=
  match code with
  | 0 => some (16, -1) | 2 => some (16, -3) | 1 => some (24, -4) | 3 => some (32, -9) | 4 => some (48, -16)
  | 12 => some (64, -24) | 10 => some (16, 0) | 14 => some (32, 0) | _ => none
/-- R288: bytes of an accumulator element. -/
def accBytes (code : Nat) : Nat := match partialForm code with | some p => p.1 / 8 | none => 36

/-- The bytes of an element in partial form, and its state byte. -/
def psumBytes (w : Nat) (x : Int) (p : PSum) : List Byte :=
  leBytes (w / 8) (BitVec.ofInt w (p.val / Int.ofNat (2 ^ (x + 273).toNat))).toNat
def psumState (p : PSum) : Byte := BitVec.ofNat 8 (p.special + 4 * b2n p.negZero)
/-- A chunk in partial form: the values, then one state byte for each element. -/
def encodePartial (code : Nat) (l : List PSum) : List Byte :=
  match partialForm code with
  | some (w, x) => l.flatMap (psumBytes w x) ++ l.map psumState
  | none => []
def decodePartial (code n : Nat) (l : List Byte) : List PSum :=
  match partialForm code with
  | some (w, x) =>
    (List.range n).map (fun i =>
      let v := (BitVec.ofNat w (leNat ((l.drop (i * (w / 8))).take (w / 8)))).toInt
      let st := (l.getD (n * (w / 8) + i) 0).toNat
      ⟨v * Int.ofNat (2 ^ (x + 273).toNat), st % 4, decide (st / 4 % 2 = 1)⟩)
  | none => []

/-- Deliver one element in the data format: its code, and whether a NaN could not be encoded (R241). -/
def deliver (code : Nat) (p : PSum) : Nat × Bool :=
  match flOf code with
  | some f =>
    if p.special = 3 then (match nanCode code with | some c => (c, false) | none => (0, true))
    else if p.special ≠ 0 then (infCode code (p.special == 2), false)
    else ((roundFl code f p.val p.negZero).1, false)
  | none =>
    let v := p.val / Int.ofNat (2 ^ 273)
    if code = 10 then ((BitVec.ofInt 8 (max (-128) (min 127 v))).toNat, false) else ((BitVec.ofInt 32 v).toNat, false)

/-- Pack element codes into bytes (R219). -/
def packElems (code : Nat) (l : List Nat) : List Byte :=
  let b := elemBits code
  let v := l.foldr (fun c acc => c % 2 ^ b + acc * 2 ^ b) 0
  leBytes (ceilDiv (l.length * b) 8) v
/-- The element codes of bytes. -/
def unpackElems (code n : Nat) (l : List Byte) : List Nat := (List.range n).map (fun i => bitsAt l (i * elemBits code) (elemBits code))

/-- A value's order for MAX and MIN: -0 below +0 (R241). -/
def orderKey (e : Elem) : Int × Int :=
  match e with
  | .inf neg => (if neg then -(2 ^ 600) else 2 ^ 600, 0)
  | .fin neg mag _ => (e.grid, if neg && mag == 0 then -1 else 0)
  | .nan => (0, 0)
/-- MAX (op 1) or MIN (op 2) of two codes; NaN propagates. -/
def maxMin (code op a b : Nat) : Nat :=
  let ea := decodeElem code a
  let eb := decodeElem code b
  if ea = .nan ∨ eb = .nan then (nanCode code).getD 0
  else
    let ka := orderKey ea
    let kb := orderKey eb
    let aLess := decide (ka.1 < kb.1) || (decide (ka.1 = kb.1) && decide (ka.2 < kb.2))
    if op = 1 then (if aLess then b else a) else (if aLess then a else b)

end Sys2Proof.Machine
end

