-- ==== Sys2Proof/Machine/Translate.lean ====
section
/-! DEFINITION. The Translation Unit: page tables and frames (R169 to R173), caches and walks (R180 to R182),
the binding checks (R179), sequence windows (R193) and access counters (R194). -/

namespace Sys2Proof.Machine

/-! ### Leaves (R170, R171) -/

/-- Pages of 64 KiB in a leaf of a SIZE. -/
def sizePages (sz : Nat) : Nat := if sz = 0 then 1 else if sz = 1 then 32 else 16384
/-- The leaf that covers a page, with its first page; none once the whole tag is unmapped (R168). -/
def Tag.leafAt (t : Tag) (page : Nat) : Option (Nat × Leaf) :=
  if t.destroying then none else
  let look (n sz : Nat) : Option (Nat × Leaf) :=
    match t.leaves.find (page / n * n) with
    | some l => if l.size = sz then some (page / n * n, l) else none
    | none => none
  (look 1 0).or ((look 32 1).or (look 16384 2))
/-- A page lies in a span lost to a table error (R173). -/
def Tag.isLost (t : Tag) (page : Nat) : Bool := t.lost.any (fun r => decide (r.1 ≤ page) && decide (page < r.1 + r.2))

/-! ### Key/value pool placement (R125, R193) -/

/-- The parts of the pool: stack, byte offset and pages, highest stack first. -/
def poolRegions (r : Rec) : List (Nat × Nat × Nat) :=
  ((recStacks r).reverse.foldl (fun (acc : List (Nat × Nat × Nat) × Nat) s =>
    let n := min acc.2 (recSize r s)
    if n = 0 then acc else (acc.1 ++ [(s, gib (recBase r s + recSize r s - n), n * 16384)], acc.2 - n)) ([], recKvGib r)).1
/-- The stack and byte offset of a pool page. -/
def poolPlace : List (Nat × Nat × Nat) → Nat → Nat × Nat
  | [], _ => (0, 0)
  | (s, off, n) :: t, k => if k < n then (s, off + k * 65536) else poolPlace t (k - n)
/-- A byte range of a stack touches the pool. -/
def inPool (r : Rec) (stack off len : Nat) : Bool :=
  (poolRegions r).any (fun p => p.1 == stack && decide (off < p.2.1 + p.2.2 * 65536) && decide (p.2.1 < off + len))
/-- A byte range of a stack lies in the slice's extent (R41). -/
def inExtent (r : Rec) (stack off len : Nat) : Bool :=
  decide (recSize r stack ≠ 0) && decide (gib (recBase r stack) ≤ off) && decide (off + len ≤ gib (recBase r stack + recSize r stack))

/-! ### Ports (R199) -/

/-- The slice's ports that are up and reach a peer, ascending. -/
def Fabric.portsTo (f : Fabric) (x : Slice) (peer : Nat) : List Nat :=
  x.ports.filter (fun p => f.cleat.lanes.getD p 0 != 0 && (f.cleat.peers.getD p (0, 0)).1 == peer && peer != 0
    && f.portIn p && !f.goingOut 4 p)
/-- R199: the port of a granule; none to a chip on the down list (R404). -/
def Fabric.portFor (f : Fabric) (x : Slice) (peer va : Nat) : Option Nat :=
  let l := f.portsTo x peer
  if l.isEmpty || f.rs.peersDown.any (fun e => e.1 == peer) then none else l[va / 65536 % l.length]?

/-- R175: a key selector within the limits of a target. -/
def keySelOk (r : Rec) (target sel : Nat) : Bool :=
  if target = 0 then decide (sel < recMemKeys r) else if target = 1 then sel == 0 else decide (sel < recLinkKeys r) && decide (sel < 512)

/-- R311: the selector's slot holds a key of the right kind: a MEMORY slot for a device target, a link job key for a
remote one. -/
def Fabric.keyReady (f : Fabric) (s target sel : Nat) : Bool :=
  if target = 0 then
    let k := f.keys.mem.getD ((f.slice s).keyBase + sel) {}
    k.state == 1 && k.kind == 0
  else if target = 2 then f.keys.links.any (fun k => k.2.slice == s && k.2.loc == sel && k.2.state == 1)
  else true

/-! ### Resolving one address (R179) -/

/-- What a page of a range resolves to. -/
inductive Page where
  | ext (e : Extent) (writable : Bool)
  | fail (cause : Nat)
  | park (cause : Nat)
deriving DecidableEq, Repr

/-- The sequence of a window address, if it is live in the tag (R193). -/
def Slice.seqAt (x : Slice) (tag va : Nat) : Option Seqn :=
  match x.pool.seqs.find ((va - Config.apertureBase) / 2 ^ 32) with
  | some s => if s.tag = tag then some s else none
  | none => none

/-- Resolve the bytes from `va` to the end of their page, at most `len`. -/
def Fabric.resolveAt (f : Fabric) (x : Slice) (tagNo : Nat) (t : Tag) (va len : Nat) : Page × Nat :=
  if Config.apertureBase ≤ va then
    let n := min len (65536 - va % 65536)
    match x.seqAt tagNo va with
    | none => (.fail 2, n)
    | some s =>
      match s.pages[va / 65536 % 65536]? with
      | none => (.park 3, n)
      | some pg =>
        let pl := poolPlace (poolRegions x.record) pg
        (.ext { target := 0, va := va, len := n, stack := pl.1, addr := pl.2 + va % 65536, keySel := 0, write := true } true, n)
  else
    match t.leafAt (va / 65536) with
    | none =>
      let n := min len (65536 - va % 65536)
      if t.isLost (va / 65536) then (.park 5, n) else if t.parkEn then (.park 4, n) else (.fail 4, n)
    | some (first, l) =>
      let size := sizePages l.size * 65536
      let off := va - first * 65536
      let n := min len (size - off)
      match l.target with
      | 0 => (.ext { target := 0, va := va, len := n, stack := l.stack, addr := l.addr + off, keySel := l.keySel,
                     write := l.write } l.write, n)
      | 1 => (.ext { target := 1, va := va, len := n, addr := l.addr + off, write := l.write } l.write, n)
      | _ =>
        let k := min n (65536 - va % 65536)
        (.ext { target := 2, va := va, len := k, addr := l.addr + off, keySel := l.keySel, peer := l.peer, window := l.window,
                port := (f.portFor x l.peer va).getD Config.ports, write := l.write } l.write, k)

/-- All pages of a range, in address order; `fuel` bounds their number. -/
def Fabric.resolveRange (f : Fabric) (x : Slice) (tagNo : Nat) (t : Tag) : Nat → Nat → Nat → List (Nat × Page)
  | 0, _, _ => []
  | k + 1, va, len =>
    if len = 0 then []
    else
      let r := f.resolveAt x tagNo t va len
      (va, r.1) :: Fabric.resolveRange f x tagNo t k (va + r.2) (len - r.2)

/-- Adjacent pieces with contiguous targets and equal attributes merge; a remote granule stays alone (R180, R199). -/
def mergeExtents : List Extent → List Extent
  | [] => []
  | e :: t =>
    match mergeExtents t with
    | [] => [e]
    | g :: u =>
      if e.target = g.target ∧ e.target ≠ 2 ∧ e.stack = g.stack ∧ e.keySel = g.keySel ∧ e.write = g.write ∧ e.addr + e.len = g.addr ∧ e.va + e.len = g.va then
        { e with len := e.len + g.len } :: u
      else e :: g :: u

/-- The extents among resolved pages. -/
def pageExtents (l : List (Nat × Page)) : List Extent :=
  mergeExtents (l.filterMap (fun p => match p.2 with | .ext e _ => some e | _ => none))

/-- The outcome of binding a range: its extents, a failure, or a park, with the address that decides. -/
inductive Bind where
  | ok (e : List Extent)
  | fail (cause va : Nat)
  | park (cause va : Nat)
deriving DecidableEq, Repr

/-- A range meets a handle that was released before a descriptor was accepted (R160 item 3). -/
def Slice.doomed (x : Slice) (tag : Nat) (r : Rng) (order : Nat) : Bool :=
  x.handles.any (fun h => (h.2.state == 2 || h.2.state == 3) && h.2.tag == tag && decide (h.2.releasedAt ≤ order)
    && decide (r.1 < h.2.va + h.2.len) && decide (h.2.va < r.1 + r.2))

/-- The first page with a property, as an outcome. -/
def firstPage (l : List (Nat × Page)) (p : Nat → Page → Bool) (mk : Nat → Bind) : Option Bind :=
  (l.find? (fun e => p e.1 e.2)).map (fun e => mk e.1)

/-- R179: the checks of one range in order. `writes` says that the range is written. -/
def Fabric.bindRange (f : Fabric) (s tagNo : Nat) (t : Tag) (v : View) (order : Nat) (writes : Bool) (r : Rng) : Bind :=
  let x := f.slice s
  if r.2 = 0 then .ok []
  else if v.epochChk && t.epoch.toNat % 256 != v.epochLo then .fail 0 r.1
  else if x.doomed tagNo r order then .fail 1 r.1
  else if decide (Config.apertureBase < r.1 + r.2)
      && (decide (r.1 < Config.apertureBase) || decide (r.1 / 2 ^ 32 ≠ (r.1 + r.2 - 1) / 2 ^ 32) || (x.seqAt tagNo r.1).isNone) then
    .fail 2 r.1
  else
    let ps := f.resolveRange x tagNo t (r.2 / 65536 + 2) r.1 r.2
    let dev (g : Extent → Bool) : Nat → Page → Bool := fun _ p => match p with | .ext e _ => g e | _ => false
    let bad := (firstPage ps (fun _ p => p == .park 3) (.park 3)).or <|
      (firstPage ps (fun _ p => p == .fail 4) (.fail 4)).or <| (firstPage ps (fun _ p => p == .park 4) (.park 4)).or <|
      (firstPage ps (fun _ p => p == .park 5) (.park 5)).or <|
      (firstPage ps (fun _ p => match p with | .ext _ w => writes && !w | _ => false) (.fail 6)).or <|
      (firstPage ps (dev (fun e => e.target == 0 && !inExtent x.record e.stack e.addr e.len)) (.fail 7)).or <|
      (firstPage ps (dev (fun e => e.target == 0 && decide (e.va < Config.apertureBase) && inPool x.record e.stack e.addr e.len)) (.fail 8)).or <|
      (firstPage ps (dev (fun e => e.target != 1 && !(keySelOk x.record e.target e.keySel && f.keyReady s e.target e.keySel))) (.fail 9)).or <|
      (firstPage ps (dev (fun e => e.target == 2 && e.port == Config.ports)) (.fail 10))
    bad.getD (.ok (pageExtents ps))

/-- The outcome of binding a descriptor: extents by range, or the range that fails or parks. -/
inductive BindAll where
  | ok (e : List (List Extent))
  | fail (range cause va : Nat)
  | park (range cause va : Nat)
deriving DecidableEq, Repr

/-- R179: ranges in number order; more than 4,096 extents in all fail the range that exceeds. -/
def Fabric.bindRanges (f : Fabric) (s tagNo : Nat) (t : Tag) (v : View) (order : Nat) : List (Nat × Rng) → List (List Extent) → BindAll
  | [], acc => .ok acc
  | (i, r) :: rest, acc =>
    match f.bindRange s tagNo t v order (i == 0) r with
    | .fail c va => .fail i c va
    | .park c va => .park i c va
    | .ok e =>
      if 4096 < ((acc ++ [e]).map List.length).sum then .fail i 11 r.1
      else Fabric.bindRanges f s tagNo t v order rest (acc ++ [e])

/-- Two physical extents overlap (R152). -/
def extOverlap (a b : Extent) : Bool :=
  a.target == b.target && a.stack == b.stack && a.peer == b.peer && a.window == b.window
    && decide (a.addr < b.addr + b.len) && decide (b.addr < a.addr + a.len)
/-- The output aliases an input. -/
def aliased (e : List (List Extent)) : Bool :=
  (e.getD 0 []).any (fun a => ((e.drop 1).flatten).any (fun b => extOverlap a b))

/-! ### Caches and walk reads (R181, R182) -/

/-- Put an entry at the head of a cache: a used entry moves, else a stale one leaves first, else the oldest. -/
def cacheUse {α : Type} [BEq α] (cap : Nat) (stale : α → Bool) (x : α) (l : List α) : List α :=
  if l.contains x then x :: l.filter (fun y => !(y == x))
  else if l.length < cap then x :: l
  else
    match l.reverse.findIdx? stale with
    | some i => x :: (l.reverse.eraseIdx i).reverse
    | none => x :: l.dropLast

/-- An entry of either cache holds no current translation. -/
def Fabric.cacheStale (f : Fabric) (e : Nat × BitVec 32 × Nat × Nat) : Bool :=
  match f.tag? e.1 with | some t => t.epoch != e.2.1 | none => true

/-! ### Table frames (R169, R170) -/

/-- Places in a frame for tables of a level: 4 KiB tables, leaf tables, counter blocks. -/
def framePlaces (level : Nat) : Nat := if level < 3 then 1 else if level = 3 then 16 else 2
/-- 64 KiB pages in the span of a table of a level; a counter block spans one upper-table entry. -/
def levelSpan (level : Nat) : Nat := match level with | 0 => 2 ^ 32 | 1 => 2 ^ 23 | 2 => 2 ^ 14 | 3 => 32 | _ => 2 ^ 14
/-- The table of a level that a page indexes, by its span. -/
def spanOf (level page : Nat) : Nat := page / levelSpan level

/-- The tables of a level that a tag needs: the root always, a lower table where a leaf lies in its span and at or below
its level, a counter block for each valid upper-table entry of a tag with ACC_EN. -/
def Tag.wants (t : Tag) (level : Nat) : List Nat :=
  if level = 0 then [0]
  else if level = 4 then (if t.accEn then (t.leaves.map (fun e => spanOf 4 e.1)).eraseDups else [])
  else ((t.leaves.filter (fun e => decide (e.2.size + level ≤ 3))).map (fun e => spanOf level e.1)).eraseDups

/-- A tag's frame of a level that holds a span, with the place. -/
def placeOf (fr : Tab TableFrame) (tag level span : Nat) : Option (Nat × Nat) :=
  fr.findSome? (fun e => if e.2.tag = tag ∧ e.2.level = level then (e.2.places.find? (fun p => p.2 == span)).map (fun p => (e.1, p.1)) else none)
/-- Put a span into the frames: in the lowest free place of the tag's lowest frame of that level that has one, else in the
lowest free frame. Which place a new table takes is not stated (DESIGN CHOICE). -/
def placeTable (fr : Tab TableFrame) (tag level span : Nat) : Tab TableFrame :=
  if (placeOf fr tag level span).isSome then fr
  else
    match fr.find? (fun e => e.2.tag == tag && e.2.level == level && decide (e.2.places.length < framePlaces level)) with
    | some e => fr.onKey e.1 (fun x => { x with places := x.places.put ((x.places.lowestFree 0 16).getD 0) span })
    | none => fr.put ((fr.lowestFree 0 (fr.length + 1)).getD 0) { tag := tag, level := level, places := [(0, span)] }
/-- The frames of a tag after its leaves changed: tables without an entry are freed, frames without a table too, and new
tables are placed from the root down. -/
def settleFrames (fr : Tab TableFrame) (n : Nat) (t : Tag) : Tab TableFrame :=
  let kept := (fr.each (fun _ x => if x.tag = n then { x with places := x.places.filter (fun p => (t.wants x.level).contains p.2) } else x)).filter
    (fun e => e.2.tag != n || !e.2.places.isEmpty)
  (List.range 5).foldl (fun fr level => (t.wants level).foldl (fun fr span => placeTable fr n level span) fr) kept

/-- Recompute the frames of a tag after its leaves changed (R170); a counter block that goes takes its counts with it. -/
def Fabric.settleTables (f : Fabric) (tagNo : Nat) : Fabric :=
  match f.tag? tagNo with
  | none => f
  | some t =>
    let f := f.onTag tagNo (fun t => { t with access := t.access.filter (fun a => (t.wants 4).contains (a.1 / 512)) })
    f.onTu t.slice (fun u => { u with frames := settleFrames u.frames tagNo t })
/-- Frames of a slice in use (R170, R200 TABLE_FRAMES). -/
def Fabric.tableFrames (f : Fabric) (s : Nat) : Nat := (f.slice s).tu.frames.length

/-- Stack and byte offset of a frame of a slice's table area. The frames lie round-robin over the stacks of the reserved
region (R169); that the area begins where the region begins is the model's choice (DESIGN CHOICE). -/
def frameAt (s frame : Nat) : Nat × Nat :=
  let n := Config.reservedStacks.length
  let i := s * 16384 + frame
  (Config.reservedStacks.getD (i % n) 0, gib Config.reservedBaseGib + i / n * 4096)

/-- The entry word of a pointer (R171). -/
def pointerWord (frame place : Nat) : Word := BitVec.ofNat 64 (2 ^ 63 + frame % 2 ^ 20 * 16 + place % 16)
/-- The entry word of a leaf (R171). -/
def Leaf.word (l : Leaf) : Word :=
  let addr := match l.target with
    | 0 => bf l.stack 43 4 + bf (l.addr / 65536) 0 32
    | 1 => bf (l.addr / 65536) 0 47
    | _ => bf l.peer 31 16 + bf l.window 21 10 + bf (l.addr / 65536) 0 21
  BitVec.ofNat 64 (2 ^ 63 + 2 ^ 62 + bf l.target 60 2 + bf (b2n l.write) 59 1 + bf l.runLog2 56 3 + bf l.keySel 47 9 + addr)
/-- The entry of a tag's table that a page indexes: a leaf, a pointer to the next table, or 0 (R170, R171). -/
def Fabric.tableEntry (f : Fabric) (n level page : Nat) : Word :=
  match f.tag? n with
  | none => 0
  | some t =>
    let below := levelSpan (level + 1)
    match (if level = 3 then t.leaves.find page else t.leaves.find (page / below * below)) with
    | some l => if l.size + level = 3 then l.word else next t.slice
    | none => next t.slice
where
  /-- The pointer to the next table, where it exists. -/
  next (s : Nat) : Word :=
    if level = 3 then 0
    else match placeOf (f.slice s).tu.frames n (level + 1) (spanOf (level + 1) page) with
      | some p => pointerWord p.1 p.2
      | none => 0

/-! ### Walks (R181, R182) -/

/-- Offer one table read at the stack of the table's frame, as fabric traffic (R169, R209). -/
def Fabric.readTable (f : Fabric) (s tagNo page level : Nat) (demand : Bool) : Fabric :=
  match placeOf (f.slice s).tu.frames tagNo level (spanOf level page) with
  | none => f
  | some p =>
    let a := frameAt s p.1
    f.offer a.1 { cls := 6, charge := 256, line := a.2 + 256 * p.2, chan := (a.2 / 256 + p.2) % Config.channels,
                  walk := some (s, tagNo, page, level), demand := demand }

/-- The table reads of a walk: from the deepest table that the directory cache holds down to `last`. The pointers of the
tables below it fill the cache, and the deepest one held is used; none above it is looked at (R181, R182). -/
def Fabric.walkTables (f : Fabric) (s tagNo : Nat) (t : Tag) (page last : Nat) (demand : Bool) : Fabric :=
  let held := (f.slice s).tu.dcache
  let ptr (level : Nat) : Nat × BitVec 32 × Nat × Nat := (tagNo, t.epoch, level, spanOf level page)
  let depth := (((List.range (last + 1)).drop 1).filter (fun l => held.contains (ptr l))).foldl max 0
  let used := ((List.range (last + 1)).drop (max 1 depth)).map ptr
  let f := f.onTu s (fun u => { u with
    walkReads := if demand then (u.walkReads + (last + 1 - depth)) % 2 ^ 32 else u.walkReads
    dcache := used.foldl (fun c p => cacheUse 256 f.cacheStale p c) u.dcache })
  ((List.range (last + 1)).drop depth).foldl (fun f level => f.readTable s tagNo page level demand) f

/-- Walk one page of a tag: a cached run needs no read; else its leaf's table is read and its run cached (R182). -/
def Fabric.walkPage (f : Fabric) (s tagNo : Nat) (page : Nat) (demand : Bool) : Fabric :=
  match f.tag? tagNo with
  | none => f
  | some t =>
    match t.leafAt page with
    | none => f
    | some (first, l) =>
      let tu := (f.slice s).tu
      let run := sizePages l.size * 2 ^ l.runLog2
      match tu.tcache.find? (fun e => e.1 == tagNo && e.2.1 == t.epoch && decide (e.2.2.1 ≤ page) && decide (page < e.2.2.1 + e.2.2.2)) with
      | some e => f.onTu s (fun u => { u with tcache := cacheUse 512 f.cacheStale e u.tcache })
      | none =>
        (f.walkTables s tagNo t page (3 - l.size) demand).onTu s (fun u =>
          { u with tcache := cacheUse 512 f.cacheStale (tagNo, t.epoch, first / run * run, run) u.tcache })

/-- A walk that finds no valid leaf reads the tables that exist below the deepest one held (R170, R182). -/
def Fabric.walkMiss (f : Fabric) (s tagNo : Nat) (t : Tag) (page : Nat) (demand : Bool) : Fabric :=
  let last := ((List.range 4).takeWhile (fun l => (t.wants l).contains (spanOf l page))).length - 1
  f.walkTables s tagNo t page last demand

/-- Walk every page of a range of the page tables. -/
def Fabric.walkRange (f : Fabric) (s tagNo : Nat) (demand : Bool) : Nat → Nat → Nat → Fabric
  | 0, _, _ => f
  | k + 1, va, len =>
    if len = 0 then f
    else if Config.apertureBase ≤ va then
      if demand then f.onTu s (fun u => { u with walkReads := (u.walkReads + 1) % 2 ^ 32 }) else f
    else
      match f.tag? tagNo with
      | none => f
      | some t =>
      match t.leafAt (va / 65536) with
      | none => f.walkMiss s tagNo t (va / 65536) demand
      | some (first, l) =>
        let n := min len ((first + sizePages l.size) * 65536 - va)
        Fabric.walkRange (f.walkPage s tagNo (va / 65536) demand) s tagNo demand k (va + n) (len - n)

/-! ### Access counters (R194) -/

/-- Bytes of an extent in a 2 MiB region; a remote leaf and the aperture are not counted. -/
def Extent.inRegion (e : Extent) (k : Nat) : Nat :=
  if e.target = 2 ∨ Config.apertureBase ≤ e.va then 0 else min (e.va + e.len) ((k + 1) * 2 ^ 21) - max e.va (k * 2 ^ 21)
/-- Add a range's units to the counters of the regions that it intersects. -/
def Fabric.countAccess (f : Fabric) (tagNo : Nat) (writes : Bool) (l : List Extent) : Fabric :=
  match f.tag? tagNo, l with
  | some t, e :: _ =>
    if !t.accEn then f
    else
      let lo := e.va / 2 ^ 21
      let hi := ((l.map (fun e => e.va + e.len)).foldl max (e.va + 1) - 1) / 2 ^ 21
      loopN (hi - lo + 1) f (fun i g =>
        let n := ceilDiv ((l.map (fun e => e.inRegion (lo + i))).sum) 65536
        if n = 0 then g
        else g.onTag tagNo (fun t => { t with access := t.access.upd (lo + i) (0, 0) (fun c =>
          if writes then (satAdd 16 c.1 n, c.2) else (c.1, satAdd 16 c.2 n)) }))
  | _, _ => f

end Sys2Proof.Machine
end

