-- ==== Sys2Proof/Machine/Binding.lean ====
section
/-! DEFINITION. From acceptance to a bound, ready descriptor: completion without a run (R245), parking (R188 to
R190), binding (R152, R179, R180), streams (R191), gather rows (R192), readiness (R22, R157, R158). -/

namespace Sys2Proof.Machine

/-- SYNDROME from three words. -/
def syn3 (a b c : Nat) : BitVec 192 := BitVec.ofNat 192 (a % 2 ^ 64 + b % 2 ^ 64 * 2 ^ 64 + c % 2 ^ 64 * 2 ^ 128)

/-- A descriptor's status is neither DONE nor DONE_REPLAYED. -/
def badStatus (st : Nat) : Bool := decide (2 ≤ st)

/-- Extents that a descriptor holds in the bound descriptor store (R180). -/
def Desc.extentCount (d : Desc) : Nat := (d.extents.map List.length).sum + (d.insts.map (fun e => e.2.rows.length)).sum

/-- A descriptor that needs no issue: it has been issued, with every instance of a conditional one, or has completed
without issue (R140). -/
def Desc.pastIssue (d : Desc) : Bool := d.belay != .bound || (!d.insts.isEmpty && d.insts.all (fun i => i.2.belay != .bound))
/-- Advance ISSUE over descriptors that need no issue any more (R140, R94). -/
def advanceIssue (l : List Desc) (issue : BitVec 32) : BitVec 32 :=
  l.foldl (fun i d => if d.seq == i && d.pastIssue then i + 1 else i) issue
def Fabric.moveIssue (f : Fabric) (q : Nat) : Fabric := f.onSq q (fun x => { x with issue := advanceIssue x.descs x.issue })
/-- ISSUE rewinds to COMMIT (R24, R94). -/
def Fabric.rewindIssue (f : Fabric) (q : Nat) : Fabric := f.onSq q (fun x => { x with issue := x.commit })

/-- A descriptor reaches PASSED with a status and without a further run (R245). -/
def Fabric.pass (f : Fabric) (q : Nat) (n : BitVec 32) (status detail : Nat) : Fabric :=
  (f.onDesc q n (fun d => { d with belay := .passed, status := status, detail := detail, stage := .bound, check := none })).moveIssue q

/-- A form check or a binding fails (R151, R152): NOTE to the function, PASSED with the status. -/
def Fabric.formFail (f : Fabric) (q : Nat) (x : Sq) (d : Desc) (n : Nat) : Fabric :=
  ((f.onSq q (fun y => { y with formErr := satAdd 16 y.formErr 1 })).raise
    (descRec q x d srcQm (centralUnit srcQm) (BitVec.ofNat 16 (0x0700 + n)) 0)).pass q d.seq (formStatus n) n
def Fabric.bindFail (f : Fabric) (q : Nat) (x : Sq) (d : Desc) (range cause va : Nat) : Fabric :=
  (f.raise (descRec q x d srcTu (centralUnit srcTu) (BitVec.ofNat 16 (0x0600 + cause)) (syn3 (d.view x).tag va 0))).pass q d.seq 4 (16 + range)

/-! ### Quota and store (R49, R180) -/

/-- Return a descriptor's unit of the quota. -/
def Fabric.dropQuota (f : Fabric) (q : Nat) (x : Sq) (d : Desc) : Fabric :=
  if d.quota then (f.onSlice x.slice (fun s => { s with uncommitted := s.uncommitted - 1 })).onDesc q d.seq (fun d => { d with quota := false })
  else f
/-- Give back the extents of a descriptor. -/
def Fabric.dropExtents (f : Fabric) (q : Nat) (x : Sq) (d : Desc) : Fabric :=
  (f.onSlice x.slice (fun s => { s with extentsUsed := s.extentsUsed - d.extentCount })).onDesc q d.seq
    (fun d => { d with extents := [], insts := d.insts.each (fun _ i => { i with rows := [], rowsReady := false }) })

/-! ### Parking (R188, R190) -/

/-- Open or join the fault of a page; the fault's index, or none for the overflow list. The opening sends the PF one NOTE
record about the descriptor that parks, whatever class its cause has elsewhere (R188). -/
def Fabric.openFault (f : Fabric) (q : Nat) (x : Sq) (d : Desc) (va cause : Nat) : Option Nat × Fabric :=
  let s := x.slice
  let tag := (d.view x).tag
  let tu := (f.slice s).tu
  match tu.faults.find? (fun e => e.2.tag == tag && e.2.page == va / 65536) with
  | some e => (some e.1, f)
  | none =>
    match tu.faults.lowestFree 0 16 with
    | none => (none, f)
    | some k =>
      let g := f.onTu s (fun u => { u with faults := u.faults.put k { tag := tag, page := va / 65536, cause := cause, openedAt := f.now } })
      if cause = 3 then (some k, g)
      else (some k, g.raise { descRec q x d srcTu (centralUnit srcTu) (BitVec.ofNat 16 (0x0600 + cause)) (syn3 tag va k) with fns := [], base := some 0 })

/-- A descriptor parks, or enters the overflow list; either way it holds no unit of the quota (R49). -/
def Fabric.parkDesc (f : Fabric) (q : Nat) (x : Sq) (d : Desc) (cause va : Nat) : Fabric :=
  let r := f.openFault q x d va cause
  (r.2.dropQuota q x d).onDesc q d.seq (fun d => { d with stage := match r.1 with | some k => .parked k | none => .overflow })

/-! ### Readiness (R22 step 4, R157, R158) -/

/-- Everything a bound descriptor waits for has happened: its fence, and for BARRIER its predecessors. -/
def Fabric.depsDone (f : Fabric) (q : Sq) (d : Desc) : Bool :=
  let v := d.view q
  f.fenceDone q d && (!v.barrier || d.seq == q.commit)

/-- A descriptor that becomes ready reads its fence's ERROR bit once (R158). -/
def Fabric.settleDesc (f : Fabric) (q : Nat) (n : BitVec 32) : Fabric :=
  match f.sq? q with
  | none => f
  | some x =>
    match x.desc? n with
    | none => f
    | some d =>
      if d.stage == .bound && d.belay == .bound && d.readyAt.isNone && f.depsDone x d then
        let v := d.view x
        let err := v.waitEn && (f.fence x.fn v.waitFence).error
        let g := f.onDesc q n (fun d => { d with readyAt := some f.now, fenceErr := err })
        if err && !v.ignoreErr then g.pass q n 3 0 else g
      else f

/-- Look again at every descriptor of a function that waits (a commit, a signal, a host write of a fence). -/
def Fabric.settleFn (f : Fabric) (fn : Nat) : Fabric :=
  (f.sqs.filter (fun e => e.2.fn == fn)).foldl (fun g e => e.2.descs.foldl (fun g d => g.settleDesc e.1 d.seq) g) f

/-! ### Streams (R191) -/

/-- Armed streams of a slice: queue, range and last use. -/
def Fabric.armed (f : Fabric) (s : Nat) : List (Nat × Nat × Nat) :=
  f.sqs.flatMap (fun e => if e.2.slice = s then e.2.streams.map (fun t => (e.1, t.1, t.2.2.2)) else [])

/-- The pattern of one range of a queue after a binding: arm, extend and prefetch, or disarm. The rule does not say whether
a rebinding is the next bound descriptor, nor whether both must name one tag: every binding counts, and the tag is not
compared (DESIGN CHOICE). -/
def Fabric.stream (f : Fabric) (q : Nat) (x : Sq) (tag i : Nat) (r : Rng) : Fabric :=
  let follows := match x.lastRange.find i with | some l => decide (l = (r.1, r.2)) && decide (r.2 ≠ 0) | none => false
  let g := f.onSq q (fun y => { y with lastRange := y.lastRange.put i (r.1 + r.2, r.2) })
  if !follows then g.onSq q (fun y => { y with streams := y.streams.del i })
  else
    let all := g.armed x.slice
    let g := if (x.streams.find i).isNone && decide (64 ≤ all.length) then
        match minBy (fun a => a.2.2) all with
        | some o => g.onSq o.1 (fun y => { y with streams := y.streams.del o.2.1 })
        | none => g
      else g
    let g := g.onSq q (fun y => { y with streams := y.streams.put i (r.1 + r.2, r.2, (g.slice x.slice).tu.streamUses) })
    let g := g.onTu x.slice (fun u => { u with streamUses := u.streamUses + 1 })
    g.walkRange x.slice tag false (8 * r.2 / 65536 + 2) (r.1 + r.2) (8 * r.2)

/-! ### Binding (R152, R179, R180) -/

/-- Pool pages that a window range of a tag covers (R131, R193). -/
def Slice.pagesIn (x : Slice) (tag : Nat) (r : Rng) : List Nat :=
  if r.1 < Config.apertureBase ∨ r.2 = 0 then []
  else
    match x.seqAt tag r.1 with
    | some s => (s.pages.drop (r.1 / 65536 % 65536)).take (ceilDiv (r.1 % 65536 + r.2) 65536)
    | none => []

/-- Step 3 of R22 for one descriptor; what a stale binding held is released when it is bound again. The table of a gather is
not bound here: each row is bound with its instance (R192). A page of another range of a gather parks the descriptor, since
no instance exists before the count is read (DESIGN CHOICE). A descriptor without a range, such as a JOIN, has its epoch
checked all the same (R150). -/
def Fabric.bindDesc (f : Fabric) (q : Nat) (n : BitVec 32) : Fabric :=
  match f.sq? q with
  | none => f
  | some x =>
    match x.desc? n with
    | none => f
    | some d =>
      let v := d.view x
      let s := x.slice
      let sl := f.slice s
      if d.ending.isSome then f.pass q n (d.ending.getD 2) 0
      else if v.kind == 4 && poolOp d.raw != 0 then
        if sl.uncommitted < recTiles sl.record then
          ((f.onSlice s (fun y => { y with uncommitted := y.uncommitted + 1 })).onDesc q n
            (fun d => { d with stage := .bound, quota := true, waitVal := waitValue v (f.fence x.fn v.waitFence).value })).settleDesc q n
        else f.onDesc q n (fun d => { d with stage := .unbound })
      else
        match f.tag? v.tag with
        | none => f.pass q n 4 16
        | some t =>
          if t.destroying then f.pass q n 4 16
          else if v.epochChk && t.epoch.toNat % 256 != v.epochLo && v.ranges.all (fun r => r.2 == 0) then f.bindFail q x d 0 0 0
          else
            let rs := v.ranges.zipIdx.map (fun e => (e.2, if v.kind = 2 ∧ e.2 = 2 then (e.1.1, 0) else e.1))
            let f := rs.foldl (fun g r => g.walkRange s v.tag true (r.2.2 / 65536 + 2) r.2.1 r.2.2) f
            match f.bindRanges s v.tag t v d.order rs [] with
            | .fail i c va => f.bindFail q x d i c va
            | .park _ c va => f.parkDesc q x d c va
            | .ok e =>
              let cnt := (e.map List.length).sum
              let needQuota := !d.quota && !v.cond
              if (needQuota && decide (recTiles sl.record ≤ sl.uncommitted)) || decide (16384 < sl.extentsUsed - d.extentCount + cnt) then
                f.onDesc q n (fun d => { d with stage := .unbound })
              else if aliased e && !v.nonReplay then f.pass q n 3 8
              else
                let g := f.dropExtents q x d
                let g := g.onSlice s (fun y => { y with extentsUsed := y.extentsUsed + cnt,
                                                        uncommitted := if needQuota then y.uncommitted + 1 else y.uncommitted })
                let covered := rs.flatMap (fun r => sl.pagesIn v.tag r.2)
                let g := g.onDesc q n (fun d => { d with
                  stage := .bound, extents := e, epoch := t.epoch, stale := false, quota := !v.cond
                  poolPages := covered
                  waitVal := if d.firstBound then d.waitVal else waitValue v (f.fence x.fn v.waitFence).value
                  nInst := d.nInst, firstBound := true })
                let g := if d.firstBound then g
                  else e.zipIdx.foldl (fun g k => g.countAccess v.tag (k.2 == 0) k.1) g
                let g := rs.foldl (fun g r => g.stream q ((g.sq? q).getD x) v.tag r.1 r.2) g
                g.settleDesc q n

/-! ### Parts of ranges and their reads -/

/-- The part of a range that an instance uses: its first byte in the range and its length (R109). -/
def View.instPart (v : View) (range inst : Nat) : Nat × Nat :=
  let len := v.len range
  if (v.kind = 1 && bitAt (BitVec.ofNat 4 v.split) range) || (v.kind = 2 && range = 0) then (inst * (len / v.maxInst), len / v.maxInst)
  else (0, len)

/-- Find the extent that holds an offset of a range that is laid out over its extents in order. -/
def walkExtents : List Extent → Nat → Option (Extent × Nat)
  | [], _ => none
  | e :: t, off => if off < e.len then some (e, off) else walkExtents t (off - e.len)

/-- The extents of a part of a range that is laid out over its extents in order. -/
def cutExtents : List Extent → Nat → Nat → List Extent
  | [], _, _ => []
  | e :: t, off, n =>
    if off < e.len then
      let m := min n (e.len - off)
      if m = 0 then [] else { e with va := e.va + off, addr := e.addr + off, len := m } :: cutExtents t 0 (n - m)
    else cutExtents t (off - e.len) n
/-- The extents of a part of a descriptor's range that an instance uses. -/
def Desc.partOf (d : Desc) (v : View) (inst range off n : Nat) : List Extent :=
  if v.kind = 2 && range = 2 then cutExtents (d.insts.getD inst {}).rows off n
  else cutExtents (d.extents.getD range []) ((v.instPart range inst).1 + off) n

/-- Reads of extents wait at the regulators of the stacks and of the host port, in units of at most 256 bytes, under the
credits of the slice that owns the data (R203, R232). -/
def Fabric.offerReads (f : Fabric) (s cls : Nat) (l : List Extent) (group : Option Nat) : Fabric :=
  l.foldl (fun f e =>
    if e.target = 2 then f
    else (splitUnits e.len).foldl (fun f u =>
      let a := e.addr + u.1
      f.offer (if e.target = 0 then e.stack else 48)
        { slice := some s, cls := cls, charge := if e.target = 0 then 256 else chargeOf u.2, line := a, chan := a / 256 % Config.channels,
          keySlot := f.slotOfSel s e.keySel, group := group }) f) f

/-! ### Gather rows (R192) -/

/-- The bytes of an extent list of a slice at an offset, as its key selectors read them where they lie in device memory
(R309); other bytes are free values. -/
def Fabric.extentBytes (f : Fabric) (s : Nat) (l : List Extent) (off n : Nat) : List Byte :=
  (List.range n).map (fun i =>
    match l with
    | [] => Config.freeByte (off + i)
    | e :: _ =>
      let va := e.va + off + i
      match l.find? (fun e => decide (e.va ≤ va) && decide (va < e.va + e.len)) with
      | some e => if e.target = 0 then f.keyedByte (f.slotOfSel s e.keySel) (devKey e.stack (e.addr + (va - e.va))) else Config.freeByte (e.addr + (va - e.va))
      | none => Config.freeByte va)

/-- Row numbers of a gather instance (R109). -/
def Fabric.gatherRows (f : Fabric) (s : Nat) (v : View) (d : Desc) (i : Nat) : List Nat :=
  let c := d.count.getD 0
  let m := if i + 1 = d.nInst then c - i * v.rowsPer else v.rowsPer
  (List.range m).map (fun k => leNat (f.extentBytes s (d.extents.getD 3 []) (64 + 4 * (i * v.rowsPer + k)) 4))

/-- The rows of a gather instance bound one by one: their extents, or the first row that fails or parks (R192). -/
def Fabric.bindRowList (f : Fabric) (s tagNo : Nat) (t : Tag) (v : View) (order : Nat) : List Rng → List (List Extent) → BindAll
  | [], acc => .ok acc
  | r :: rest, acc =>
    match f.bindRange s tagNo t v order false r with
    | .ok e => Fabric.bindRowList f s tagNo t v order rest (acc ++ [e])
    | .fail c va => .fail 2 c va
    | .park c va => .park 2 c va

/-- Bind the rows of a gather instance: an index beyond the table fails it, a row that parks parks it, and rows that need
more than 4,096 extents fail it, counted for the instance alone (R179, R192; DEDUCED). While the bound descriptor store has
no room for the rows the binding waits (R180). -/
def Fabric.bindRows (f : Fabric) (q : Nat) (n : BitVec 32) (i : Nat) : Fabric :=
  match f.sq? q, f.desc? q n with
  | some x, some d =>
    let v := d.view x
    let inst := d.insts.getD i {}
    let setI (g : Inst → Inst) (f : Fabric) : Fabric := f.onDesc q n (fun d => { d with insts := d.insts.upd i {} g })
    let lost (f : Fabric) (c va : Nat) : Fabric :=
      (setI (fun y => { y with failed := some 4 }) f).raise
        (descRec q x d srcTu (centralUnit srcTu) (BitVec.ofNat 16 (0x0600 + c)) (syn3 v.tag va i))
    if inst.rowsReady || inst.parkedOn.isSome || inst.waits || inst.failed.isSome then f
    else
      match f.tag? v.tag with
      | none => setI (fun y => { y with failed := some 4 }) f
      | some t =>
        let rows := f.gatherRows x.slice v d i
        if rows.any (fun r => decide (v.len 2 / v.rowBytes ≤ r)) then setI (fun y => { y with failed := some 3 }) f
        else
          let rngs := rows.map (fun r => ((v.range 2).1 + r * v.rowBytes, v.rowBytes))
          let walk (f : Fabric) : Fabric := rngs.foldl (fun g r => g.walkRange x.slice v.tag true (r.2 / 65536 + 2) r.1 r.2) f
          match f.bindRowList x.slice v.tag t v d.order rngs [] with
          | .ok e =>
            let cnt := (e.map List.length).sum
            if 4096 < cnt then lost (walk f) 11 (v.range 2).1
            else if 16384 < (f.slice x.slice).extentsUsed + cnt then f
            else if aliased (d.extents.getD 0 [] :: e) && !v.nonReplay then setI (fun y => { y with failed := some 3 }) (walk f)
            else
              let f := if inst.rowsOnce then walk f else e.foldl (fun g l => g.countAccess v.tag false l) (walk f)
              (setI (fun y => { y with rows := e.flatten, rowsReady := true, rowsOnce := true }) f).onSlice x.slice
                (fun y => { y with extentsUsed := y.extentsUsed + cnt })
          | .fail _ c va => lost (walk f) c va
          | .park _ c va =>
            let r := (walk f).openFault q x d va c
            setI (fun y => { y with parkedOn := r.1, waits := r.1.isNone }) r.2
  | _, _ => f

/-- Run-ahead: the rows of up to 8 instances from the lowest not yet issued (R112, R192). -/
def Fabric.runAhead (f : Fabric) (q : Nat) (n : BitVec 32) : Fabric :=
  match f.desc? q n, f.sq? q with
  | some d, some x =>
    if (d.view x).kind = 2 then
      let low := (d.insts.find? (fun e => e.2.belay == .bound && e.2.failed.isNone)).map (·.1)
      match low with
      | some lo => (d.insts.filter (fun e => decide (lo ≤ e.1) && decide (e.1 < lo + 8) && e.2.belay == .bound)).foldl (fun g e => g.bindRows q n e.1) f
      | none => f
    else f
  | _, _ => f

/-- Gathers whose count is held look ahead again: after a rebinding, a reset or a commit that freed extents (R112, R180). -/
def Fabric.settleRows (f : Fabric) : Fabric :=
  f.sqs.foldl (fun f e => e.2.descs.foldl (fun f d =>
    if d.count.isSome && d.stage == .bound && d.belay == .bound && d.ending.isNone && !d.stale then f.runAhead e.1 d.seq else f) f) f

/-! ### Closing faults (R189, R190) -/

/-- Descriptors parked on a fault, in order of acceptance. -/
def Fabric.parkedOn (f : Fabric) (s k : Nat) : List (Nat × Desc) :=
  sortBy (fun e => e.2.order) ((f.descsOf s).filter (fun e => e.2.stage == .parked k))
/-- A gather instance that a fault can keep waiting: its descriptor runs on and it has not failed (R188, R189). -/
def Desc.holdsFault (d : Desc) (i : Inst) : Bool := d.belay == .bound && d.ending.isNone && i.failed.isNone
/-- Gather instances parked on a fault. -/
def Fabric.instsParkedOn (f : Fabric) (s k : Nat) : List (Nat × BitVec 32 × Nat) :=
  (f.descsOf s).flatMap (fun e =>
    (e.2.insts.filter (fun i => i.2.parkedOn == some k && e.2.holdsFault i.2)).map (fun i => (e.1, e.2.seq, i.1)))
/-- What waits in the overflow list, in order of acceptance: descriptors, and instances of gathers (R190). -/
def Fabric.overflowOf (f : Fabric) (s : Nat) : List (Nat × BitVec 32 × Option Nat) :=
  (sortBy (fun e => e.2.order) (f.descsOf s)).flatMap (fun e =>
    if e.2.stage = .overflow then [(e.1, e.2.seq, none)]
    else (e.2.insts.filter (fun i => i.2.waits && e.2.holdsFault i.2)).map (fun i => (e.1, e.2.seq, some i.1)))
/-- Descriptors and instances of a slice that are parked or wait in the overflow list (R190). -/
def Fabric.parkedCount (f : Fabric) (s : Nat) : Nat :=
  ((f.descsOf s).map (fun e =>
    (match e.2.stage with | .parked _ | .overflow => 1 | _ => 0)
      + (e.2.insts.filter (fun i => (i.2.parkedOn.isSome || i.2.waits) && e.2.holdsFault i.2)).length)).sum

/-- Walk a descriptor, or an instance of a gather, again. -/
def Fabric.walkAgain (f : Fabric) (e : Nat × BitVec 32 × Option Nat) : Fabric :=
  match e.2.2 with
  | none => f.bindDesc e.1 e.2.1
  | some i => (f.onDesc e.1 e.2.1 (fun d => { d with insts := d.insts.onKey i (fun y => { y with parkedOn := none, waits := false }) })).bindRows e.1 e.2.1 i

/-- A fault with nothing parked on it closes, and the first of the overflow list is walked again. -/
def Fabric.closeFault (f : Fabric) (s k : Nat) : Fabric :=
  if (f.parkedOn s k).isEmpty && (f.instsParkedOn s k).isEmpty && ((f.slice s).tu.faults.find k).isSome then
    let g := f.onTu s (fun u => { u with faults := u.faults.del k })
    match g.overflowOf s with
    | [] => g
    | e :: _ => g.walkAgain e
  else f
/-- Close every fault that nothing is parked on any more: what was parked has ended by another way (R189). -/
def Fabric.settleFaults (f : Fabric) : Fabric :=
  f.slices.foldl (fun f e => e.2.tu.faults.foldl (fun f k => f.closeFault e.1 k.1) f) f

/-- Walk again everything parked on a fault. -/
def Fabric.retryFault (f : Fabric) (s k : Nat) : Fabric :=
  let g := (f.parkedOn s k).foldl (fun g e => g.bindDesc e.1 e.2.seq) f
  let g := (f.instsParkedOn s k).foldl (fun g e => g.walkAgain (e.1, e.2.1, some e.2.2)) g
  g.closeFault s k

/-- The lowest-numbered range of a descriptor that a page lies in. -/
def Fabric.rangeOfPage (f : Fabric) (q : Nat) (d : Desc) (page : Nat) : Nat :=
  match f.sq? q with
  | some x => ((d.view x).ranges.findIdx? (fun r => decide (r.1 / 65536 ≤ page) && decide (page * 65536 < r.1 + r.2))).getD 0
  | none => 0

/-- Everything parked on a fault completes FAULT_TRANSLATION (R189). -/
def Fabric.abortFault (f : Fabric) (s k : Nat) : Fabric :=
  let page := (((f.slice s).tu.faults.find k).map (·.page)).getD 0
  let g := (f.parkedOn s k).foldl (fun g e => g.pass e.1 e.2.seq 4 (16 + (f.rangeOfPage e.1 e.2 page))) f
  let g := (f.instsParkedOn s k).foldl (fun g e =>
    g.onDesc e.1 e.2.1 (fun d => { d with insts := d.insts.onKey e.2.2 (fun i => { i with parkedOn := none, failed := some 4 }) })) g
  g.closeFault s k

/-- Walk again the faults of a tag whose page lies in a span (a MAP, a restored span). -/
def Fabric.retrySpan (f : Fabric) (s tag page n : Nat) : Fabric :=
  (((f.slice s).tu.faults.filter (fun e => e.2.tag == tag && decide (page ≤ e.2.page) && decide (e.2.page < page + n))).map (·.1)).foldl
    (fun g k => g.retryFault s k) f

end Sys2Proof.Machine
end

