-- ==== Sys2Proof/Machine/Frames.lean ====
section
/-! DEFINITION. Frame tables: the banks, the install checks, the switch, the frame registers, and the frame
table packets (chapter 3, R425). -/

namespace Sys2Proof.Machine

/-- R462: nominal engine clock in MHz. -/
def Fabric.mhz (f : Fabric) : Nat := Config.engineMhz f.rs.fuses.grade

/-- Fabric time of the next boundary (R69). -/
def Fabric.nextBoundary (f : Fabric) : Nat := f.frame.boundaryAt + f.frame.periodNs
/-- The outcome of the next boundary is fixed: 200 ns or less remain (R87, R89). -/
def Fabric.boundaryFixed (f : Fabric) : Bool := f.frame.fixed.isSome || decide (f.nextBoundary ≤ f.now + 200)

/-- A pending switch falls at the next boundary (R87). -/
def Frame.switchNext (fr : Frame) : Bool :=
  match fr.switch with
  | some w => decide (w.due ≤ fr.frameNum + 1)
  | none => false
/-- The bank that is in force after action 3 of the next boundary (R89). -/
def Frame.bankNext (fr : Frame) : Bank := if fr.switchNext then fr.shadowBank else fr.bank

/-- A CREATED slice with a SLICE_ACTIVATE becomes ACTIVE at the next boundary: the table names it, and key selector 0 is
installed (R63). -/
def Fabric.willActivate (f : Fabric) (s : Nat) (x : Slice) : Bool :=
  let k := f.keys.mem.getD x.keyBase {}
  x.state == .created && x.activate.isSome && (bankValid f.frame.bankNext).any (fun e => entSlice e.2 == s) && k.state == 1 && k.kind == 0

/-- The outcomes of actions 2 to 5 of the next boundary are fixed (R89). -/
def Fabric.fixBoundary (f : Fabric) : Fabric :=
  if f.frame.fixed.isSome then f
  else
    let amend := f.slices.keysOf (fun _ x => x.amend.isSome)
    let fx : Fixed := { retire := f.units.retiring.map (·.unit), switch := f.frame.switchNext, amend := amend, activate := f.slices.keysOf f.willActivate }
    { f with frame := { f.frame with fixed := some fx } }

/-- Fabric time reaches `t` where it has not yet; 200 ns before the next boundary its outcomes are fixed (R89). -/
def Fabric.advance (f : Fabric) (t : Nat) : Fabric :=
  (if f.nextBoundary ≤ t + 200 then f.fixBoundary else f).advanceTo t

/-! ### Registers (R104) -/

def Fabric.frameCtrlWord (f : Fabric) : Word := BitVec.ofNat 64
  (bf f.mhz 50 12 + bf f.frame.seqLen 43 7 + bf f.frame.guardNs 31 12 + bf f.frame.periodNs 13 18
    + bf Config.budgetLimitNs 1 12 + bf (b2n f.frame.active) 0 1)
def Fabric.frameStatusWord (f : Fabric) : Word := BitVec.ofNat 64
  (bf f.frame.frameNum 16 48 + bf f.frame.seqPos 10 6 + bf f.frame.pattern 6 4 + bf (b2n f.frame.switch.isSome) 5 1
    + bf (b2n (f.frame.sync.locked && (f.frame.sync.mode == 2 || f.frame.sync.mode == 4))) 4 1 + bf (b2n f.frame.checked) 3 1)
def Fabric.syncCtrlWord (f : Fabric) : Word := BitVec.ofNat 64
  (bf f.frame.sync.pinDelay 22 10 + bf f.frame.sync.port 16 5 + bf f.frame.sync.mode 0 3)
/-- An offset as the register shows it: two's complement, saturated. -/
def sat16 (x : Int) : Nat := (BitVec.ofInt 16 (max (-32767) (min 32767 x))).toNat
def Fabric.syncStatusWord (f : Fabric) : Word := BitVec.ofNat 64
  (bf f.frame.sync.glitchCnt 32 16 + bf f.frame.sync.missCnt 16 16 + sat16 f.frame.sync.offset)

/-- The trims of a slice's entries of the bank in force (R102). -/
def Fabric.trimsOf (f : Fabric) (s : Nat) : List Nat :=
  ((bankValid f.frame.bank).filter (fun e => entSlice e.2 == s)).map (fun e => (f.frame.trims.getD e.1 {}).steps)
def Fabric.slotTrimWord (f : Fabric) (s : Nat) : Word :=
  let t := f.trimsOf s
  BitVec.ofNat 64 (bf (t.foldl max 0) 8 4 + bf ((t.filter (· != 0)).length) 0 7)

/-! ### Shadow writes (R79, R86, R87) -/

/-- A bank with 32 bytes of its header or of an entry replaced. -/
def Bank.write (b : Bank) (w : HeldWrite) : Bank :=
  match w.entry with
  | none => { b with header := setField b.header (32 * w.half) 32 w.data.toNat }
  | some i => { b with entries := b.entries.put i (setField (bankEntry b i) (32 * w.half) 32 w.data.toNat) }
def Frame.setShadow (fr : Frame) (b : Bank) : Frame := if fr.active then { fr with bank0 := b } else { fr with bank1 := b }
/-- A write to the shadow bank clears its passed check (R86). -/
def Frame.writeShadow (fr : Frame) (w : HeldWrite) : Frame :=
  { fr.setShadow (fr.shadowBank.write w) with checked := false, checkResult := 0 }

/-- FTAB_HEADER and FTAB_WRITE (R87, R422): a write accepted in the last 200 ns is held for the new shadow bank;
an earlier one cancels a pending switch. -/
def Fabric.shadowWrite (f : Fabric) (w : HeldWrite) : Fabric :=
  match f.frame.switch with
  | none => f.onFrame (fun fr => fr.writeShadow w)
  | some sw =>
    if f.frame.switchNext && f.boundaryFixed then f.onFrame (fun fr => { fr with heldWrites := fr.heldWrites ++ [w] })
    else (f.onFrame (fun fr => { fr with switch := none }.writeShadow w)).replyOpt sw.req (rep stState)

/-! ### Install checks (R86) -/

/-- The first entry that breaks a condition on single entries. -/
def failOne (l : List (Nat × Entry)) (ok : Entry → Bool) : Option Nat := (l.find? (fun e => !ok e.2)).map (·.1)
/-- The first entry that breaks a condition with an entry before it. -/
def failPair (ok : Entry → Entry → Bool) : List (Nat × Entry) → List (Nat × Entry) → Option Nat
  | _, [] => none
  | before, e :: t => if before.all (fun b => ok b.2 e.2) then failPair ok (before ++ [e]) t else some e.1

/-- Two intervals overlap; intervals that only touch do not. -/
def overlaps (a la b lb : Nat) : Bool := decide (a < b + lb) && decide (b < a + la)

/-- The failed check of the shadow bank and its entry, or none. -/
def Fabric.checkTable (f : Fabric) : Option (Nat × Nat) :=
  let b := f.frame.shadowBank
  let h := b.header
  let v := bankValid b
  let tag (n : Nat) (o : Option Nat) : Option (Nat × Nat) := o.map (fun i => (n, i))
  let named := bankPatterns b
  if !hdrOk h then some (1, 0)
  else (tag 1 (failOne b.entries entReservedOk)).or <|
    (tag 2 (failOne v (fun e => decide (entStart e + entLen e ≤ hdrPeriod h) && decide (entGuard h e + 1000 ≤ entLen e)))).or <|
    (tag 3 (failOne v (fun e => decide (entSlack e ≤ entLen e - entGuard h e)))).or <|
    (tag 4 ((v.find? (fun e => decide (64 < (v.filter (fun d => entPattern d.2 == entPattern e.2 && decide (d.1 ≤ e.1))).length))).map (·.1))).or <|
    (tag 5 (failOne v (fun e =>
      let x := f.slice (entSlice e)
      (x.state == .created || x.state == .active || x.state == .resetting)
        && decide (entEngines e &&& ~~~ofBits 256 x.engineSet = 0)))).or <|
    (tag 6 (failPair (fun a e => entPattern a != entPattern e || decide (entEngines a &&& entEngines e = 0)
      || !overlaps (entStart a) (entLen a) (entStart e) (entLen e)) [] v)).or <|
    (tag 7 (failPair (fun a e => entPattern a != entPattern e || !entGang a || !entGang e || entGangId a != entGangId e
      || (entStart a == entStart e && entLen a == entLen e)) [] v)).or <|
    (tag 8 (if (f.slicesIn (fun s => s == .active || s == .resetting)).all (fun s =>
      v.any (fun e => entSlice e.2 == s && named.contains (entPattern e.2))) then none else some 0))

/-! ### Packets (R425) -/

def rowFtabHeader : Row :=
  { params := [(0x18, 1), (0x20, 32)], range := fun _ p => decide (pfield p 0x18 1 ≤ 1),
    body := fun p _ f => (f.shadowWrite { entry := none, half := pfield p 0x18 1, data := pdata p }, some (repOk)) }

def rowFtabWrite : Row :=
  { params := [(0x18, 2), (0x1A, 1), (0x20, 32)], range := fun _ p => decide (pfield p 0x18 2 < 1024) && decide (pfield p 0x1A 1 ≤ 1),
    body := fun p _ f =>
      (f.shadowWrite { entry := some (pfield p 0x18 2), half := pfield p 0x1A 1, data := pdata p }, some (repOk)) }

def rowFtabCheck : Row :=
  { body := fun _ _ f =>
      match f.checkTable with
      | none => (f.onFrame (fun fr => { fr with checked := true, checkResult := 1, lastCheck := 0, lastEntry := 0 }), some (repOk))
      | some (n, i) =>
        (f.onFrame (fun fr => { fr with checked := false, checkResult := 2, lastCheck := n, lastEntry := i }),
          some { status := stCheck, detail := BitVec.ofNat 16 n, result := result [(0x20, 2, i)] }) }

/-- R87: a switch at the named frame, at the next boundary for 0 or a frame that has passed, and never at a boundary
whose outcome is already fixed. -/
def rowFtabSwitch : Row :=
  { params := [(0x18, 8)], range := fun _ p => decide (pfield p 0x18 8 < 2 ^ 48),
    body := fun p q f =>
      if f.frame.switch.isSome || !f.frame.checked then (f, some (rep stState))
      else
        let first := f.frame.frameNum + (if f.boundaryFixed then 2 else 1)
        (f.onFrame (fun fr => { fr with switch := some { due := max first (pfield p 0x18 8), req := some q } }), none) }

def rowFtabQuery : Row :=
  { pf := true, params := [(0x18, 1), (0x19, 1), (0x1A, 2)],
    range := fun _ p => decide (pfield p 0x18 1 ≤ 4) && decide (pfield p 0x19 1 ≤ 1) && decide (pfield p 0x1A 2 < 1024),
    body := fun p _ f =>
      let what := pfield p 0x18 1
      let shadow := pfield p 0x19 1 == 1
      let i := pfield p 0x1A 2
      let b := if shadow then f.frame.shadowBank else f.frame.bank
      let r : Reply :=
        if what = 0 then
          repOk [(0x20, 8, f.frameStatusWord.toNat), (0x28, 8, (f.frame.switch.map (·.due)).getD 0), (0x30, 1, f.frame.checkResult),
            (0x31, 1, f.frame.lastCheck), (0x32, 2, f.frame.lastEntry)]
        else if what ≤ 2 then { status := stOk, result := b.header.extractLsb' (256 * (what - 1)) 256 }
        else { status := stOk, result := (bankEntry b i).extractLsb' (256 * (what - 3)) 256,
               detail := if shadow then 0 else BitVec.ofNat 16 (f.frame.trims.getD i {}).steps }
      (f, some r) }

def rowFrameSyncSet : Row :=
  { params := [(0x18, 1), (0x19, 1), (0x1A, 2), (0x20, 8)],
    range := fun _ p => decide (pfield p 0x18 1 ≤ 4) && decide (pfield p 0x19 1 < Config.ports) && decide (pfield p 0x1A 2 ≤ 1023)
      && decide (pfield p 0x20 8 < 2 ^ 48) && (pfield p 0x18 1 == 4 || pfield p 0x20 8 == 0),
    body := fun p q f =>
      let w : SyncSet :=
        { mode := pfield p 0x18 1, port := pfield p 0x19 1, pinDelay := pfield p 0x1A 2, adopt := pfield p 0x20 8, req := q }
      (f.onSync (fun y => { y with waiting := y.waiting ++ [w] }), none) }

/-- FTAB_HEADER. -/
def execFtabHeader (p : Packet) (s : State) : Host.Outcome State Fault Refusal := s.run (control rowFtabHeader p)
/-- FTAB_WRITE. -/
def execFtabWrite (p : Packet) (s : State) : Host.Outcome State Fault Refusal := s.run (control rowFtabWrite p)
/-- FTAB_CHECK. -/
def execFtabCheck (p : Packet) (s : State) : Host.Outcome State Fault Refusal := s.run (control rowFtabCheck p)
/-- FTAB_SWITCH. -/
def execFtabSwitch (p : Packet) (s : State) : Host.Outcome State Fault Refusal := s.run (control rowFtabSwitch p)
/-- FTAB_QUERY. -/
def execFtabQuery (p : Packet) (s : State) : Host.Outcome State Fault Refusal := s.run (control rowFtabQuery p)
/-- FRAME_SYNC_SET. -/
def execFrameSyncSet (p : Packet) (s : State) : Host.Outcome State Fault Refusal := s.run (control rowFrameSyncSet p)

/-! ### The switch at a boundary (R79, R81, R87, R102) -/

/-- The shadow bank comes into force; the held writes reach the new shadow bank. -/
def Frame.performSwitch (fr : Frame) : Frame :=
  let b := fr.shadowBank
  let n : Frame := { fr with active := !fr.active, checked := false, checkResult := 0, switch := none, seqPos := 0, trims := [],
                             periodNs := hdrPeriod b.header, guardNs := hdrGuard b.header, seqLen := hdrSeqLen b.header,
                             heldWrites := [] }
  fr.heldWrites.foldl (fun x w => x.writeShadow w) n

/-- A switch due at this boundary takes place and is answered (R87). -/
def Fabric.applySwitch (f : Fabric) : Fabric :=
  match f.frame.switch with
  | some w => (f.onFrame Frame.performSwitch).replyOpt w.req (repOk [(0x20, 8, f.frame.frameNum)])
  | none => f

/-- A FRAME_SYNC_SET takes effect at a boundary (R74, R425). One that names the mode in force keeps the lock, the offset and
the adopted mark, so that its ADOPT_FRAME is not taken; a change of mode clears them and keeps the counters (DESIGN
CHOICE). -/
def Fabric.applySyncSet (f : Fabric) (w : SyncSet) : Fabric :=
  (f.onSync (fun y =>
    let y' : Sync :=
      { mode := w.mode, port := w.port, pinDelay := w.pinDelay, adopt := w.adopt, waiting := y.waiting,
        missCnt := y.missCnt, glitchCnt := y.glitchCnt }
    if y.mode = w.mode then { y with port := w.port, pinDelay := w.pinDelay, adopt := w.adopt } else y')).reply w.req (repOk)
/-- All of them, in order of acceptance. -/
def Fabric.applySyncSets (f : Fabric) : Fabric :=
  f.frame.sync.waiting.foldl Fabric.applySyncSet (f.onSync (fun y => { y with waiting := [] }))

end Sys2Proof.Machine
end

