-- ==== Sys2Proof/Machine/Sched.lean ====
section
/-! DEFINITION. Slots and engines: where a tile fits (R92, R93, R114), the engine queue and its starts (R89, R91),
withdrawal, pre-emption and rewinding (R94 to R98), guard accounting and charges (R99 to R101). -/

namespace Sys2Proof.Machine

/-! ### Slots -/

/-- A slot of an engine in absolute time: entry, start, end, guard, slack. -/
structure Slot where
  idx : Nat
  start : Nat
  stop : Nat
  guard : Nat
  slack : Nat
deriving DecidableEq, Repr

/-- An entry as a slot of the frame that began at `base`. -/
def Fabric.slotOf (f : Fabric) (base : Nat) (e : Nat × Entry) : Slot :=
  { idx := e.1, start := base + entStart e.2, stop := base + entStart e.2 + entLen e.2, guard := f.frame.guardOf e.2, slack := entSlack e.2 }

/-- An entry grants an engine to a slice (R84). -/
def Fabric.grants (f : Fabric) (e : Entry) (s k : Nat) : Bool :=
  entValid e && entSlice e == s && bitAt (entEngines e) k && (f.slice s).hasEngine k && (f.engine k).state != .retired
/-- Entries of a pattern that grant an engine to a slice. -/
def Fabric.grantsIn (f : Fabric) (pat s k : Nat) : List (Nat × Entry) :=
  (bankValid f.frame.bank).filter (fun e => entPattern e.2 == pat && f.grants e.2 s k)

/-- The slot of a slice on an engine that covers the present moment. -/
def Fabric.slotNow (f : Fabric) (s k : Nat) : Option Slot :=
  ((f.grantsIn f.frame.pattern s k).map (f.slotOf f.frame.boundaryAt)).find? (fun x => decide (x.start ≤ f.now) && decide (f.now < x.stop))
/-- The slice's contiguous slot that begins when one ends (R93). -/
def Fabric.slotNext (f : Fabric) (s k : Nat) (x : Slot) : Option Slot :=
  if x.stop < f.nextBoundary then
    ((f.grantsIn f.frame.pattern s k).map (f.slotOf f.frame.boundaryAt)).find? (fun y => y.start == x.stop)
  else if f.frame.switchNext then none
  else
    let pat := f.frame.patternAt ((f.frame.seqPos + 1) % f.frame.seqLen)
    ((f.grantsIn pat s k).map (f.slotOf f.nextBoundary)).find? (fun y => y.start == x.stop)

/-- R102: trim of an entry in ns. -/
def Fabric.trimNs (f : Fabric) (i : Nat) : Nat := 500 * (f.frame.trims.getD i {}).steps
/-- E' of a slot after trims and a charge (R100, R102, R114). -/
def Fabric.windowEnd (f : Fabric) (x : Slot) (charge : Nat) : Nat := max x.start (x.stop - x.guard - f.trimNs x.idx - charge)
/-- The slack start (R114). -/
def Fabric.slackAt (f : Fabric) (x : Slot) (charge : Nat) : Nat := max x.start (f.windowEnd x charge - x.slack)

/-- A conditional descriptor that arms its slice (R113). -/
def Desc.arms (d : Desc) (q : Sq) : Bool :=
  let v := d.view q
  v.cond && d.stage == .bound && d.belay == .bound && (d.count.isNone || d.insts.any (fun i => i.2.belay == .bound && i.2.failed.isNone))
def Fabric.isArmed (f : Fabric) (s : Nat) : Bool :=
  f.sqs.any (fun e => e.2.slice == s && e.2.descs.any (fun d => d.arms e.2))

/-! ### Fit (R92, R93, R114) -/

/-- Counted time of a running tile so far: its time since the start less the stall and stretch in it, which the engine agent
alone knows before the run ends (R72). -/
def Fabric.counted (f : Fabric) (k : Nat) (r : Run) : Nat := f.now - r.startAt - Config.pausedBy k r.startAt f.now
/-- What an engine still has to do: the running tile's budget less its counted time, and the queued budgets (R92). -/
def Fabric.work (f : Fabric) (k : Nat) : Nat :=
  let e := f.engine k
  (match e.running with | some r => r.budgetNs - f.counted k r | none => 0) + (e.queue.map (·.budgetNs)).sum

/-- How a tile fits an engine: in the current window, or from the contiguous slot onward. -/
inductive Fit where
  | no
  | current
  | next (at_ : Nat)
deriving DecidableEq, Repr

/-- The moment in a slot by which a tile must end: E', or the slack start while the slice is armed (R92, R114). -/
def Fabric.slotLimit (f : Fabric) (s : Nat) (x : Slot) (charge : Nat) (cond : Bool) : Nat :=
  if f.isArmed s && !cond then f.slackAt x charge else f.windowEnd x charge
/-- The limits of a slot for a tile. -/
def Fabric.fitsSlot (f : Fabric) (s : Nat) (x : Slot) (charge from_ budget : Nat) (fixed cond : Bool) : Bool :=
  decide (from_ + budget ≤ f.slotLimit s x charge cond) && (!fixed || decide (from_ + 2 * budget ≤ x.stop))

/-- R92, R93: whether a tile of a slice fits an engine, behind `work` ns of earlier tiles. -/
def Fabric.fits (f : Fabric) (s k work budget : Nat) (fixed cond : Bool) : Fit :=
  match f.slotNow s k with
  | none => .no
  | some x =>
    let e := f.engine k
    let t := f.now + work
    if f.fitsSlot s x e.applied t budget fixed cond then .current
    else
      match f.slotNext s k x with
      | none => .no
      | some y =>
        if f.fitsSlot s y (e.charges.getD s 0) (max t y.start) budget fixed cond then .next y.start else .no

/-- The latest start of a tile in a slot. -/
def Fabric.lastStart (f : Fabric) (s : Nat) (x : Slot) (charge budget : Nat) (fixed cond : Bool) : Nat :=
  let a := f.slotLimit s x charge cond - budget
  if fixed then min a (x.stop - 2 * budget) else a
/-- The latest moment at which a tile that fits an engine now can still be placed on it: its latest start less the budgets
of the queued tiles (R92, R121). -/
def Fabric.lastFit (f : Fabric) (s k budget : Nat) (fixed cond : Bool) : Option Nat :=
  match f.slotNow s k with
  | none => none
  | some x =>
    let e := f.engine k
    let queued := (e.queue.map (·.budgetNs)).sum
    let here := if f.fitsSlot s x e.applied (f.now + f.work k) budget fixed cond then [f.lastStart s x e.applied budget fixed cond - queued] else []
    let there := match f.slotNext s k x with
      | some y =>
        let c := e.charges.getD s 0
        if f.fitsSlot s y c (max (f.now + f.work k) y.start) budget fixed cond then [f.lastStart s y c budget fixed cond - queued] else []
      | none => []
    (here ++ there).max?

/-- Every descriptor of a tile may run on an engine (R118, R229): one member that needs an EXACT or a SPARSE_2_4 engine binds
the whole tile. -/
def Fabric.runsOn (f : Fabric) (q : Nat) (l : List (BitVec 32)) (k : Nat) : Bool :=
  match f.sq? q with
  | some x => l.all (fun n => match x.desc? n with | some d => canRun (d.view x) (f.engine k) | none => true)
  | none => false

/-- A retirement of the engine awaits its boundary (R53). -/
def Fabric.isRetiring (f : Fabric) (k : Nat) : Bool := f.goingOut 0 k
/-- The engine takes tiles: in service, not retiring, and no test or scrub holds or awaits it (R53, R336, R363). -/
def Fabric.takesTiles (f : Fabric) (k : Nat) : Bool :=
  let e := f.engine k
  e.state == .inService && !e.noPlace && e.testSeed.isNone && e.testOwner.isNone && !e.scrubbing && !f.isRetiring k

/-- The engine can take work of a slice now: granted, taking tiles and named by its latch (R89, R91). -/
def Fabric.usable (f : Fabric) (s k : Nat) : Bool :=
  let e := f.engine k
  f.takesTiles k && (f.slice s).state == .active
    && (f.slotNow s k).isSome && e.latch == some s

/-! ### Issue bodies (R455) -/

/-- A descriptor in generation-3 form with every VA 0. -/
def gen3Form (q : Sq) (raw : BitVec 512) : BitVec 512 :=
  let v := viewOf q raw
  let clearVa (d : BitVec 512) : BitVec 512 :=
    if v.kind = 4 then d else [256, 320, 384, 448].foldl (fun (d : BitVec 512) o => d &&& ~~~(BitVec.ofNat 512 ((2 ^ 42 - 1) * 2 ^ o))) d
  if q.gen = 3 then clearVa raw
  else
    let xs := v.waitVal % 2 ^ 26 + b2n v.sigEn * 2 ^ 26 + v.sigFence * 2 ^ 27 + b2n v.waitEn * 2 ^ 37 + v.waitFence * 2 ^ 38
    let lens := v.ranges.zipIdx.map (fun r => r.1.2 / 64 % 2 ^ 22 * 2 ^ (256 + 64 * r.2 + 42))
    BitVec.ofNat 512 (v.opcode + (b2n v.nonPreempt + 4 * b2n v.exact + 8 * b2n v.barrier + 16 * b2n v.irq) * 2 ^ 8
      + 4 * b2n v.ignoreErr * 2 ^ 16 + v.ctx * 2 ^ 32 + v.budget * 2 ^ 48 + v.tag * 2 ^ 64 + xs * 2 ^ 80 + lens.sum)

/-- The body of one ISSUE command. -/
def issueBody (q : Sq) (raw : BitVec 512) (member : Nat) (last suppress chkrow : Bool) (inst : Nat) : BitVec 576 :=
  (BitVec.ofNat 64 (bf member 0 5 + bf (b2n last) 5 1 + bf (b2n suppress) 6 1 + bf (b2n chkrow) 7 1 + bf inst 8 12)) ++ gen3Form q raw

/-- The descriptors of a run, leader first. -/
def Run.seqs (r : Run) : List (BitVec 32) := r.seq :: r.members

/-- Send the ISSUE commands of a run: one for each member (R455). -/
def Fabric.emitIssue (f : Fabric) (k : Nat) (r : Run) : Fabric :=
  match f.sq? r.sq with
  | none => f
  | some q =>
    let n := r.seqs.length
    r.seqs.zipIdx.foldl (fun g m =>
      match q.desc? m.1 with
      | none => g
      | some d => g.emit (.engine k (.issue (issueBody q d.raw m.2 (m.2 + 1 == n) r.suppress (d.view q).chkrow r.inst)))) f

/-! ### Belay marks of a run's descriptors -/

/-- Replace the Belay state of what a run carries: an instance of a conditional descriptor, or its descriptors. -/
def Fabric.markRun (f : Fabric) (r : Run) (b : Belay) : Fabric :=
  if r.cond then f.onDesc r.sq r.seq (fun d => { d with insts := d.insts.onKey r.inst (fun i => { i with belay := b }) })
  else r.seqs.foldl (fun g n => g.onDesc r.sq n (fun d => { d with belay := b })) f

/-- The run is an extra run of Belay or the isolated replay of a hang search. -/
def Run.extra (r : Run) : Bool := r.kind != .first

/-- The check that a run belongs to. -/
def Fabric.checkOf (f : Fabric) (r : Run) : Option Check :=
  match f.desc? r.sq r.seq with
  | some d => if r.cond then (d.insts.getD r.inst {}).check else d.check
  | none => none
def Fabric.setCheck (f : Fabric) (q : Nat) (n : BitVec 32) (inst : Option Nat) (c : Option Check) : Fabric :=
  f.onDesc q n (fun d =>
    match inst with
    | some i => { d with insts := d.insts.onKey i (fun y => { y with check := c }) }
    | none => { d with check := c })
def Run.instOpt (r : Run) : Option Nat := if r.cond then some r.inst else none

/-! ### Starting tiles (R89, R91, R92) -/

/-- Conditional instances hold a unit of the quota from issue to their pass (R111). -/
def Fabric.instQuota (f : Fabric) (s : Nat) (up : Bool) : Fabric :=
  f.onSlice s (fun x => { x with uncommitted := if up then x.uncommitted + 1 else x.uncommitted - 1 })

/-- A tile goes back from an engine queue: its first run returns to the ready list, an extra run waits again
(R94, R123, R265). -/
def Fabric.backToReady (f : Fabric) (r : Run) : Fabric :=
  if r.extra then
    match f.checkOf r with
    | some c => f.setCheck r.sq r.seq r.instOpt (some { c with placed := false })
    | none => f
  else
    let g := f.markRun r .bound
    let g := r.seqs.foldl (fun g n => g.onDesc r.sq n (fun d => { d with members := [], stage := if d.stale then .unbound else d.stage })) g
    let g := if r.cond then g.instQuota r.slice false else g
    g.rewindIssue r.sq

/-- Take the tiles that meet a condition out of an engine's queue. -/
def Fabric.withdraw (f : Fabric) (k : Nat) (p : Run → Bool) : Fabric :=
  let out := (f.engine k).queue.filter p
  let g := f.onEngine k (fun e => { e with queue := e.queue.filter (fun r => !p r) })
  out.foldl (fun g r => g.backToReady r) g

/-- Start one run on an idle engine. -/
def Fabric.startRun (f : Fabric) (k : Nat) (r : Run) : Fabric :=
  let w := (f.belay.watch.getD k {}).on
  let run := { r with startAt := f.now, watched := w, excursion := f.cleat.droopLow }
  let g := (f.onEngine k (fun e => { e with running := some run })).emitIssue k run
  if r.extra then g else r.seqs.foldl (fun g n => g.onDesc r.sq n (fun d => { d with started := true })) g

/-- The EA starts the head of its queue while the engine is idle and its slot's issue window allows it; a head that
no longer fits is withdrawn. `fuel` bounds the withdrawals. -/
def Fabric.startNext (f : Fabric) (k : Nat) : Nat → Fabric
  | 0 => f
  | n + 1 =>
    let e := f.engine k
    match e.running, e.queue with
    | none, r :: rest =>
      if f.rs.frozen || e.aborting || e.state != .inService || f.now < r.notBefore || e.latch != some r.slice || (f.slice r.slice).state != .active then f
      else
        match f.slotNow r.slice k with
        | none => f
        | some x =>
          let drop := f.onEngine k (fun e => { e with queue := rest })
          if f.windowEnd x e.applied ≤ f.now then f
          else if r.kind == .isolated || f.fitsSlot r.slice x e.applied f.now r.budgetNs false (r.cond || r.extra) then drop.startRun k r
          else Fabric.startNext (drop.backToReady r) k n
    | _, _ => f

/-- Put a run into an engine's queue, at its head for an extra run (R258), and start it if the engine is free. -/
def Fabric.enqueue (f : Fabric) (k : Nat) (r : Run) (head : Bool) : Fabric :=
  (f.onEngine k (fun e => { e with queue := if head then r :: e.queue else e.queue ++ [r] })).startNext k 9

/-! ### Ending a run early (R95, R96) -/

/-- Ask the engine to abort its running tile. -/
def Fabric.abortRun (f : Fabric) (k : Nat) : Fabric :=
  let e := f.engine k
  if e.running.isSome && !e.aborting then (f.onEngine k (fun e => { e with aborting := true, abortFrom := f.now })).emit (.engine k .abort) else f

/-- Pre-emption is raised against a running tile (R95): a pre-emptible tile past its budget is aborted at once. -/
def Fabric.preempt (f : Fabric) (k : Nat) (onEnd : Option Nat) : Fabric :=
  let g := f.onEngine k (fun e => { e with running := e.running.map (fun r => { r with preempt := true, onEnd := onEnd.or r.onEnd }) })
  match (g.engine k).running with
  | some r => if !r.nonPreempt && decide (r.budgetNs ≤ f.counted k r) then g.abortRun k else g
  | none => g

/-! ### Guard accounting (R99, R100) -/

/-- Charge overrun to the slice's next slot on the engine: the one in progress where it has begun since E, up to its issue
window, and what is left to the slot after it. -/
def Fabric.charge (f : Fabric) (k s lateFrom ns : Nat) : Fabric :=
  let later (f : Fabric) (n : Nat) : Fabric := if n = 0 then f else f.onEngine k (fun e => { e with charges := e.charges.upd s 0 (· + n) })
  match f.slotNow s k with
  | some x =>
    if lateFrom < x.start then
      let a := min ((f.engine k).applied + ns) (f.windowEnd x 0 - x.start)
      later (f.onEngine k (fun e => { e with applied := a })) ((f.engine k).applied + ns - a)
    else later f ns
  | none => later f ns

/-- Fabric time of E for a tile of a slice that ends now: as the end of the issue window recorded it, else that of the
slot in progress where it has passed; 0 while E has not passed. -/
def Fabric.lateSince (f : Fabric) (k s : Nat) : Nat :=
  let e := f.engine k
  if e.lateFrom ≠ 0 then e.lateFrom
  else
    match f.slotNow s k with
    | some x => if f.windowEnd x e.applied < f.now then f.windowEnd x e.applied else 0
    | none => 0

/-- The engine falls idle: the time since E is divided into stall, stretch and overrun (R99). The rule caps the sum of stall
and stretch; a capped sum is filled with stall first and takes stretch for the rest (DESIGN CHOICE). -/
def Fabric.settleLate (f : Fabric) (k : Nat) (s : Nat) (m : Meter) : Fabric :=
  let since := f.lateSince k s
  if since = 0 || f.now ≤ since then f.onEngine k (fun e => { e with lateFrom := 0 })
  else
    let late := f.now - since
    let stall := min m.stall late
    let stretch := min m.stretch (late - stall)
    let left := late - stall - stretch
    let g := f.onLive s (fun c => { c with guardStall := (c.guardStall + stall) % 2 ^ 64,
                                           guardStretch := (c.guardStretch + stretch) % 2 ^ 64,
                                           overrun := (c.overrun + left) % 2 ^ 64 })
    (g.charge k s since left).onEngine k (fun e => { e with lateFrom := 0 })

/-! ### Slack (R116) -/

/-- Time that an entry's slack has held back on an engine, up to a moment: from the slack start, at most to E'. -/
def Fabric.slackTime (f : Fabric) (i k till : Nat) : Nat :=
  let x := f.slotOf f.frame.boundaryAt (i, bankEntry f.frame.bank i)
  let a := (f.engine k).applied
  min till (f.windowEnd x a) - f.slackAt x a
/-- The slack of an entry on an engine ends: its time is added to SLACK_HELD_NS. -/
def Fabric.endSlack (f : Fabric) (p : Nat × Nat) : Fabric :=
  if !f.frame.slackRun.contains p then f
  else
    let n := f.slackTime p.1 p.2 f.now
    (f.onSlice (entSlice (bankEntry f.frame.bank p.1)) (fun x => { x with slackHeld := x.slackHeld + n })).onFrame
      (fun fr => { fr with slackRun := fr.slackRun.filter (· != p) })
/-- The slack of slices that are no longer armed ends. -/
def Fabric.settleSlack (f : Fabric) : Fabric :=
  (f.frame.slackRun.filter (fun p => !f.isArmed (entSlice (bankEntry f.frame.bank p.1)))).foldl Fabric.endSlack f

/-! ### Cutting off work of engines, slices and contexts -/

/-- Take a descriptor's queued tiles off every engine. -/
def Fabric.withdrawDesc (f : Fabric) (q : Nat) (n : BitVec 32) : Fabric :=
  (f.engines.map (·.1)).foldl (fun g k => g.withdraw k (fun r => r.sq == q && r.seqs.contains n)) f
/-- Engines that run a descriptor's tile. -/
def Fabric.runningOn (f : Fabric) (q : Nat) (n : BitVec 32) : List Nat :=
  f.engines.keysOf (fun _ e => match e.running with | some r => r.sq == q && r.seqs.contains n | none => false)

end Sys2Proof.Machine
end

