-- ==== Sys2Proof/Machine/BelayOps.lean ====
section
/-! DEFINITION. Belay: triggers and audit sampling (R249 to R252), the watch list (R253 to R255), extra runs
(R257, R258), verdicts (R259, R261), and the commit (R244 to R247). -/

namespace Sys2Proof.Machine

/-! ### Shape words (R231) -/

def shapeExact (w : Word) : Bool := bitAt w 51
def shapeProj (w : Word) : Bool := bitAt w 50
def shapeM (w : Word) : Nat := (w.extractLsb' 43 7).toNat + 1
def shapeK (w : Word) : Nat := (w.extractLsb' 25 18).toNat + 1
def shapeN (w : Word) : Nat := (w.extractLsb' 9 16).toNat + 1
def shapeFmtA (w : Word) : Nat := (w.extractLsb' 60 4).toNat
def shapeFmtB (w : Word) : Nat := (w.extractLsb' 56 4).toNat
def shapeFmtC (w : Word) : Nat := (w.extractLsb' 52 4).toNat
def shapeSat (w : Word) : Bool := bitAt w 8

/-- Two runs agree: equal digests and shape words of every member (R259, R266). -/
def agree (a b : RunResult) : Bool :=
  (a.beats.map (fun x => (x.digest, x.shape))) == (b.beats.map (fun x => (x.digest, x.shape)))

/-! ### Audit sampling (R252) -/

/-- One step of the 64-bit xorshift generator. -/
def xorshift (x : Word) : Word :=
  let a := x ^^^ (x <<< 13)
  let b := a ^^^ (a >>> 7)
  b ^^^ (b <<< 17)
/-- The next draw of the audit generator. -/
def Fabric.nextAudit (f : Fabric) : Word × Fabric :=
  let w := xorshift f.belay.rng
  (w, { f with belay := { f.belay with rng := w } })
/-- A fresh window for an engine of a slice. -/
def Fabric.drawAudit (f : Fabric) (s k : Nat) : Fabric :=
  let r := f.nextAudit
  let l := (f.slice s).auditLog2
  r.2.onSlice s (fun x => { x with audits := x.audits.put k { n := 0, pos := r.1.toNat % 2 ^ l } })
/-- Restart every window of a slice (R252). -/
def Fabric.restartAudits (f : Fabric) (s : Nat) : Fabric :=
  if (f.slice s).auditLog2 = 31 then f.onSlice s (fun x => { x with audits := [] })
  else ((f.slice s).engineSet).foldl (fun g k => g.drawAudit s k) f
/-- Count one execution; whether it is drawn as a sample. A full window draws its next position first. -/
def Fabric.countAudit (f : Fabric) (s k : Nat) : Bool × Fabric :=
  let x := f.slice s
  let full := match x.audits.find k with | some a => decide (2 ^ x.auditLog2 ≤ a.n) | none => true
  let f := if full && x.auditLog2 != 31 then f.drawAudit s k else f
  let a := (f.slice s).audits.getD k {}
  let n := (a.n + 1) % 2 ^ 32
  (x.auditLog2 != 31 && n == a.pos + 1, f.onSlice s (fun x => { x with audits := x.audits.put k { a with n := n } }))

/-! ### The watch list (R253, R254) -/

/-- A cause puts an engine on the watch list, or restarts its counts: 1 LOSER, 2 CE_RATE, 3 HANG, 4 OPERATOR. -/
def Fabric.watchEngine (f : Fabric) (k cause : Nat) : Fabric :=
  if (f.engine k).state == .retired then f
  else { f with belay := { f.belay with watch := f.belay.watch.upd k {} (fun w =>
    { w with on := true, cause := cause, lastAt := f.now, clean := 0, causes := if w.on then w.causes + 1 else 1 }) } }
/-- An engine leaves the watch list. -/
def Fabric.unwatch (f : Fabric) (k : Nat) : Fabric :=
  { f with belay := { f.belay with watch := f.belay.watch.onKey k (fun w => { w with on := false, clean := 0 }) } }
def Fabric.isWatched (f : Fabric) (k : Nat) : Bool := (f.belay.watch.getD k {}).on
/-- A checked execution of an engine passed. -/
def Fabric.cleanRun (f : Fabric) (k : Nat) : Fabric :=
  { f with belay := { f.belay with watch := f.belay.watch.onKey k (fun w => if w.on then { w with clean := satAdd 16 w.clean 1 } else w) } }

/-! ### Passing -/

/-- Update a descriptor, an instance's check or the check of a plain or formed tile. -/
def Fabric.onCheck (f : Fabric) (q : Nat) (n : BitVec 32) (i : Option Nat) (g : Check → Check) : Fabric :=
  f.onDesc q n (fun d =>
    match i with
    | some k => { d with insts := d.insts.onKey k (fun y => { y with check := y.check.map g }) }
    | none => { d with check := d.check.map g })
def Fabric.getCheck (f : Fabric) (q : Nat) (n : BitVec 32) (i : Option Nat) : Option Check :=
  match f.desc? q n with
  | some d => match i with | some k => (d.insts.getD k {}).check | none => d.check
  | none => none

/-- A conditional descriptor ends when the outcome of R110 is known. -/
def Fabric.settleCond (f : Fabric) (q : Nat) (n : BitVec 32) : Fabric :=
  match f.desc? q n with
  | none => f
  | some d =>
    let busy := d.insts.any (fun i => i.2.belay == .issued || i.2.belay == .checking || i.2.belay == .held)
    if d.belay != .bound || d.stage != .bound then f
    else if d.ending.isSome then
      if busy then f
      else if d.ending == some 2 && d.count.isSome && !d.insts.isEmpty && d.insts.all (fun i => i.2.belay == .passed && i.2.failed.isNone) then
        f.pass q n (if d.insts.any (fun i => i.2.replayed) then 1 else 0) 0
      else f.pass q n (d.ending.getD 2) 0
    else if d.count.isNone then f
    else
      match d.insts.find? (fun i => i.2.failed.isSome) with
      | some i => if busy then f else f.pass q n (i.2.failed.getD 3) 0
      | none =>
        if d.insts.all (fun i => i.2.belay == .passed) then
          f.pass q n (if d.insts.any (fun i => i.2.replayed) then 1 else 0) 0
        else f

/-- A run's verdict: its descriptors, or its instance, pass with a status (R244, R111). -/
def Fabric.passRun (f : Fabric) (q : Nat) (n : BitVec 32) (i : Option Nat) (status detail engine counted : Nat) : Fabric :=
  match f.sq? q, f.desc? q n with
  | some x, some d =>
    match i with
    | some k =>
      let g := f.onDesc q n (fun d => { d with
        engine := if badStatus status then d.engine else engine
        counted := if badStatus status then d.counted else counted
        insts := d.insts.onKey k (fun y => { y with belay := .passed, check := none, replayed := status == 1,
                                                    failed := if badStatus status then some status else none,
                                                    engine := engine, counted := counted }) })
      (g.instQuota x.slice false).settleCond q n
    | none =>
      let all := n :: d.members
      let g := all.foldl (fun g m => g.onDesc q m (fun d => { d with
        belay := .passed, status := status, detail := detail, engine := engine, counted := counted, check := none })) f
      g.moveIssue q
  | _, _ => f

/-! ### Losers and held descriptors (R263, R264) -/

/-- An engine is outvoted: a confirmed mismatch (R263). -/
def Fabric.loser (f : Fabric) (q : Nat) (n : BitVec 32) (k : Nat) : Fabric :=
  match f.sq? q, f.desc? q n with
  | some x, some d =>
    let g := f.raise (descRec q x d k (unitId 0 0 k) 0x0401 0)
    let g := g.onLive x.slice (fun c => { c with mismatch := satAdd 15 c.mismatch 1 })
    let g := { g with belay := { g.belay with watch := g.belay.watch.upd k {} (fun w => { w with confirmed := satAdd 16 w.confirmed 1 }) } }
    g.watchEngine k 1
  | _, _ => f

/-- No majority: the descriptor is held and the slice takes a CONTAINED fault (R264). A held instance stays in CHECKING, for
an instance has the codes 0 to 3 only, and holds its descriptor (R244, R266). -/
def Fabric.hold (f : Fabric) (q : Nat) (n : BitVec 32) (i : Option Nat) (engines : List Nat) : Fabric :=
  match f.sq? q, f.desc? q n with
  | some x, some d =>
    let all := if i.isSome then [n] else n :: d.members
    let g := all.foldl (fun g m => g.onDesc q m (fun d => { d with belay := .held, runNamed := true })) f
    let g := g.onLive x.slice (fun c => { c with heldCnt := satAdd 16 c.heldCnt (if i.isSome then 1 else all.length) })
    g.raise (descRec q x d srcBelay (centralUnit srcBelay) 0x0402
      (syn3 (engines.getD 0 0xFFFF) (engines.getD 1 0xFFFF) (engines.getD 2 0xFFFF)))
  | _, _ => f

/-! ### Extra runs (R257, R258) -/

/-- A check asks for an extra run. -/
def Fabric.want (f : Fabric) (q : Nat) (n : BitVec 32) (i : Option Nat) (k : RunKind) : Fabric :=
  f.onCheck q n i (fun c => { c with wanted := some k, placed := false })

/-- Engines reachable for the descriptors of a tile (R257): in service, with the capabilities they need, and granted to
the slice by some entry of a pattern in the sequence. -/
def Fabric.reachable (f : Fabric) (s q : Nat) (l : List (BitVec 32)) : List Nat :=
  (f.slice s).engineSet.filter (fun k =>
    (f.engine k).state == .inService && f.runsOn q l k && f.frame.patterns.any (fun p => !(f.grantsIn p s k).isEmpty))

/-- Whether an extra run fits an engine, behind its running tile alone, against E′ whatever the arming state (R257, R258). -/
def Fabric.extraFit (f : Fabric) (s k budget : Nat) (fixed : Bool) : Fit :=
  let work := match (f.engine k).running with | some r => r.budgetNs - f.counted k r | none => 0
  f.fits s k work budget fixed true
/-- A run that is placed against a contiguous slot waits for it (R93). -/
def Run.against (r : Run) (w : Fit) : Run := match w with | .next t => { r with notBefore := t } | _ => r
/-- The engine of R257 for an extra run, among those that grant the slice now and still fit it. Engines on which a run of
the descriptor hung are left out (R265). -/
def Fabric.chooseExtra (f : Fabric) (s q : Nat) (l : List (BitVec 32)) (earlier avoid : List Nat) (kind : RunKind) (budget : Nat) (fixed : Bool) : Option Nat :=
  let reach := f.reachable s q l
  let ok (k : Nat) : Bool := f.usable s k && !avoid.contains k && f.extraFit s k budget fixed != .no
  let cand := sortBy id (reach.filter (fun k => ok k && !earlier.contains k))
  let free (k : Nat) : Bool := (f.engine k).running.isNone && (f.engine k).queue.isEmpty
  let room (k : Nat) : Bool := decide ((f.engine k).queue.length < 8)
  let steps (l : List Nat) : Option Nat :=
    (l.find? (fun k => free k && (earlier ++ avoid).all (fun e => e / 4 != k / 4))).or <|
    (l.find? free).or (minBy (fun k => (f.engine k).queue.length) (l.filter room))
  let unwatched := cand.filter (fun k => !f.isWatched k)
  (steps unwatched).or <| (steps cand).or <|
    (match earlier with
      | first :: _ => if kind == .replay && reach.all (fun k => k == first) && reach.contains first && ok first && room first then some first else none
      | [] => none)

/-- Place the extra run that a check wants, if an engine qualifies. -/
def Fabric.placeExtra (f : Fabric) (q : Nat) (n : BitVec 32) (i : Option Nat) : Fabric :=
  match f.sq? q, f.desc? q n, f.getCheck q n i with
  | some x, some d, some c =>
    match c.wanted with
    | none => f
    | some kind =>
      if c.placed || (f.slice x.slice).state != .active then f
      else
        let budgets := (n :: d.members).filterMap (fun m => (x.desc? m).map (fun y => budgetTime (y.view x).budget f.mhz))
        let budget := budgets.foldl max 0
        let fixed := (n :: d.members).any (fun m => match x.desc? m with | some y => (y.view x).fixed | none => false)
        let same := kind == .replay
        match f.chooseExtra x.slice q (n :: d.members) c.engines c.avoid kind budget fixed with
        | none => f
        | some k =>
          let r : Run :=
            { sq := q, seq := n, inst := i.getD 0, members := d.members, kind := kind, slice := x.slice, budgetNs := budget,
              nonPreempt := fixed, cond := i.isSome, suppress := same && !c.projection }
          let g := f.onCheck q n i (fun c => { c with placed := true })
          let g := if c.engines.contains k then g.onLive x.slice (fun l => { l with sameEngine := true }) else g
          g.enqueue k (r.against (f.extraFit x.slice k budget fixed)) true
  | _, _, _ => f

/-! ### CAU jobs (R232) -/

/-- Priority of a kind of job: arbitration recomputations, then projections, then digests. A checksum row is a projection
job (R232, R268). -/
def JobKind.rank : JobKind → Nat
  | .arbitrate _ _ _ => 0
  | .project _ _ _ => 1
  | .checkRow _ _ _ => 1
  | .digest _ _ => 2

/-- What a shape word describes (R231). -/
def shapeOf (w : Word) : Shape :=
  { fa := shapeFmtA w, fb := shapeFmtB w, fc := shapeFmtC w, m := shapeM w, k := shapeK w, n := shapeN w, sat := shapeSat w }
/-- The beat of a member. -/
def RunResult.shapeAt (r : RunResult) (m : Nat) : Word := ((r.beats.find? (fun b => b.member == m)).map (·.shape)).getD 0
/-- The run whose result lies in memory: the last that wrote the output region in place (R258, R259, R261). -/
def Check.inMemory (c : Check) : RunResult := c.run3.getD (if c.projection then c.run2.getD c.run1 else c.run1)

/-- The parts of a member's ranges that a projection reads: C, A, B and the metadata of a sparse A, in range order (R235). -/
def projParts (v : View) (d : Desc) (s : Shape) (inst : Nat) : List (List Extent) :=
  [d.partOf v inst 0 0 (elemBytes s.fc (s.m * s.n)), d.partOf v inst 1 0 (s.aBytes v.sparse),
   d.partOf v inst 2 0 (elemBytes s.fb (s.n * s.k)),
   if v.sparse then d.partOf v inst 3 (if v.kind = 1 then 64 else 0) (s.m * s.k / 8) else []]
/-- The part of range 0 that a checksum row job reads: C and row M (R268). -/
def rowPart (v : View) (d : Desc) (s : Shape) (inst : Nat) : List Extent := d.partOf v inst 0 0 (elemBytes s.fc ((s.m + 1) * s.n))
/-- The extents of a replica set's member (R270). -/
def Fabric.memberExtents (f : Fabric) (set m : Nat) : Option (List Extent) :=
  let x := (f.belay.replicas.getD set {}).members.getD m {}
  match f.tag? x.tag with
  | some t =>
    if t.slice != x.slice then none
    else (match f.bindRange x.slice x.tag t (view3 0) f.accepts false (x.va, x.len) with
      | .ok e => some e
      | _ => none)
  | none => none

/-- What a job reads. -/
def Fabric.jobReads (f : Fabric) (j : Job) : List Extent :=
  let tile (q : Nat) (n : BitVec 32) (inst : Nat) (row : Bool) : List Extent :=
    match f.sq? q, f.desc? q n with
    | some x, some d =>
      (match f.getCheck q n (if (d.view x).cond then some inst else none) with
        | some c => (n :: d.members).zipIdx.flatMap (fun m => match x.desc? m.1 with
          | some e =>
            let s := shapeOf (c.inMemory.shapeAt m.2)
            if row then rowPart (e.view x) e s inst else (projParts (e.view x) e s inst).flatten
          | none => [])
        | none => [])
    | _, _ => []
  match j.kind with
  | .arbitrate q n i => tile q n i false
  | .project q n i => tile q n i false
  | .checkRow q n i => tile q n i true
  | .digest set m => (f.memberExtents set m).getD []

/-- Lanes in service. -/
def Cau.lanesIn (c : Cau) : List Nat := (List.range 4).filter (fun l => !c.lanesOut.contains l)
/-- Lanes that a job may take: none that computed v before, unless no other is left in service (R261). -/
def Cau.lanesFor (c : Cau) (j : Job) : List Nat :=
  let l := c.lanesIn.filter (fun l => !j.avoid.contains l)
  if l.isEmpty then c.lanesIn else l
/-- The lowest free lane for a job. -/
def Cau.freeLane (c : Cau) (j : Job) : Option Nat := (c.lanesFor j).find? (fun l => !(c.jobs.filterMap (·.lane)).contains l)
/-- Waiting jobs, a higher kind first and within a kind in order of request. -/
def Cau.waitingJobs (c : Cau) : List Job := sortBy (fun j => j.kind.rank) (c.jobs.filter (fun j => j.lane.isNone))
/-- A digest job that yields its lane to a waiting job of a higher kind, the one requested last (DESIGN CHOICE: the rule
does not say which of several). -/
def Cau.yields (c : Cau) : Option Job :=
  (c.waitingJobs.find? (fun j => decide (j.kind.rank < 2))).bind (fun j =>
    c.jobs.reverse.find? (fun d => d.kind.rank == 2 && (match d.lane with | some l => (c.lanesFor j).contains l | none => false)))
/-- Put a job on a lane, or off it. -/
def Fabric.setLane (f : Fabric) (id : Nat) (l : Option Nat) : Fabric :=
  f.onCau (fun c => { c with jobs := c.jobs.map (fun j => if j.id = id then { j with lane := l, begun := j.begun || l.isSome } else j) })
/-- Waiting jobs take lanes (R232). A job offers its reads, of class 0 under its slice's credits, when it first takes a lane.
A digest yields its lane at each 64 KiB of its message; the model has it yield at once. `fuel` bounds the moves. -/
def Fabric.assignLanes (f : Fabric) : Nat → Fabric
  | 0 => f
  | fuel + 1 =>
    match f.cau.waitingJobs.findSome? (fun j => (f.cau.freeLane j).map (fun l => (j, l))) with
    | some (j, l) =>
      let g := if j.begun then f else f.offerReads j.slice 0 (f.jobReads j) none
      Fabric.assignLanes (g.setLane j.id (some l)) fuel
    | none =>
      match f.cau.yields with
      | some d => Fabric.assignLanes (f.setLane d.id none) fuel
      | none => f
/-- Jobs that meet a condition are dropped, and others take their lanes. -/
def Fabric.dropCau (f : Fabric) (p : Job → Bool) : Fabric :=
  (f.onCau (fun c => { c with jobs := c.jobs.filter (fun j => !p j) })).assignLanes 12

/-- Queue a job and return its number. It takes a lane once it is known to what waits for it. -/
def Fabric.addJob (f : Fabric) (kind : JobKind) (slice : Nat) (avoid : List Nat) : Nat × Fabric :=
  let id := f.cau.nextId
  (id, f.onCau (fun c => { c with jobs := c.jobs ++ [{ id := id, kind := kind, slice := slice, avoid := avoid }], nextId := id + 1 }))

/-- Start the projection or arbitration job of a check. -/
def Fabric.askCau (f : Fabric) (q : Nat) (n : BitVec 32) (i : Option Nat) (arbitrate : Bool) : Fabric :=
  match f.sq? q, f.getCheck q n i with
  | some x, some c =>
    let kind := if arbitrate then JobKind.arbitrate q n (i.getD 0) else JobKind.project q n (i.getD 0)
    let r := f.addJob kind x.slice c.lastLane.toList
    (r.2.onCheck q n i (fun c => { c with job := some r.1 })).assignLanes 12
  | _, _ => f

/-! ### Verdicts (R259, R261) -/

/-- A check ends with a pass: the winner's engine and time go into the record. The checked execution is the first run, for
an extra run is none (R249): it counts towards its engine's leaving the watch list, unless that engine was outvoted (R254). -/
def Fabric.passCheck (f : Fabric) (q : Nat) (n : BitVec 32) (i : Option Nat) (status : Nat) (r : RunResult) (losers : List Nat) : Fabric :=
  let first := ((f.getCheck q n i).map (·.run1.engine)).getD r.engine
  let g := losers.foldl (fun g k => g.loser q n k) f
  let g := if losers.contains first then g else g.cleanRun first
  g.passRun q n i status 0 r.engine r.counted
/-- A check needs a third run or a CAU arbitration: it counts once in ARBITRATIONS (R277). -/
def Fabric.countArb (f : Fabric) (q : Nat) : Fabric :=
  match f.sq? q with
  | some x => f.onLive x.slice (fun l => { l with arbitrations := satAdd 16 l.arbitrations 1 })
  | none => f

/-- R259 after its second and third runs: the result now in memory, its CAU arbitration, or a held descriptor. -/
def Fabric.digestEnd (f : Fabric) (q : Nat) (n : BitVec 32) (i : Option Nat) (c : Check) : Fabric :=
  let now := c.run3.getD c.run1
  if now.beats.all (fun b => shapeProj b.shape) && !now.beats.isEmpty && decide (f.cau.lanesOut.length < 4) then
    f.askCau q n i true
  else f.hold q n i c.engines

/-- A third run exists unless no engine but those of the first run and the replay is reachable (R257). -/
def Fabric.thirdPossible (f : Fabric) (q : Nat) (n : BitVec 32) (c : Check) : Bool :=
  match f.sq? q, f.desc? q n with
  | some x, some d => (f.reachable x.slice q (n :: d.members)).any (fun k => !c.engines.contains k)
  | _, _ => false

/-- R259: the digest path looks at the runs it has. -/
def Fabric.digestPath (f : Fabric) (q : Nat) (n : BitVec 32) (i : Option Nat) (c : Check) : Fabric :=
  match c.run2, c.run3 with
  | none, _ => f.want q n i .replay
  | some p, none =>
    if agree c.run1 p then f.passCheck q n i 1 c.run1 []
    else
      let g := f.countArb q
      if f.thirdPossible q n c then g.want q n i .third else g.digestEnd q n i c
  | some p, some t =>
    if agree t c.run1 then f.passCheck q n i 1 t [p.engine]
    else if agree t p then f.passCheck q n i 1 t [c.run1.engine]
    else f.digestEnd q n i c

/-- A third run that waits is skipped when no engine is left for it (R257, R259, R261). -/
def Fabric.skipThird (f : Fabric) (q : Nat) (n : BitVec 32) (i : Option Nat) : Fabric :=
  match f.getCheck q n i with
  | some c =>
    if c.wanted == some .third && !c.placed && !f.thirdPossible q n c then
      let f := f.onCheck q n i (fun c => { c with wanted := none })
      if c.projection then f.hold q n i c.engines else f.digestEnd q n i c
    else f
  | none => f
/-- Reachability is judged afresh at each boundary (R257). -/
def Fabric.skipThirds (f : Fabric) : Fabric :=
  f.sqs.foldl (fun f e => e.2.descs.foldl (fun f d =>
    d.insts.foldl (fun f i => f.skipThird e.1 d.seq (some i.1)) (f.skipThird e.1 d.seq none)) f) f

/-- Each trigger of an execution counts in its slice (R249, R277). -/
def Fabric.countTriggers (f : Fabric) (s : Nat) (trig : BitVec 6) : Fabric :=
  f.onLive s (fun c => { c with trig := c.trig.zipIdx.map (fun t => if trig.getLsbD t.2 then (t.1 + 1) % 1024 else t.1) })
/-- A suspect execution is counted and its path chosen (R249, R256). -/
def Fabric.suspect (f : Fabric) (q : Nat) (n : BitVec 32) (i : Option Nat) (s : Nat) (trig : BitVec 6) (r : RunResult) : Fabric :=
  let f := (f.countTriggers s trig).onLive s (fun c => { c with checked := (c.checked + 1) % 2 ^ 32 })
  let proj := r.beats.all (fun b => !shapeExact b.shape && shapeProj b.shape) && !r.beats.isEmpty && decide (f.cau.lanesOut.length < 4)
  let f := f.setCheck q n i (some { run1 := r, triggers := trig, engines := [r.engine], projection := proj })
  if proj then f.askCau q n i false else f.want q n i .replay

/-- The verdict of an execution once its triggers are known (R249, R251). -/
def Fabric.judge (f : Fabric) (q : Nat) (n : BitVec 32) (i : Option Nat) (s : Nat) (nonReplay : Bool) (trig : BitVec 6) (r : RunResult) : Fabric :=
  if nonReplay then
    let f := f.countTriggers s trig
    let g := if trig &&& 0b001110 != 0 then f.onLive s (fun c => { c with unverified := satAdd 16 c.unverified 1 }) else f
    g.passRun q n i 0 0 r.engine r.counted
  else if trig = 0 then f.passRun q n i 0 0 r.engine r.counted
  else f.suspect q n i s trig r

/-- Triggers of a first run other than the checksum row (R249, R250). -/
def triggerBits (ce watched exc audit force : Bool) : BitVec 6 :=
  BitVec.ofNat 6 (2 * b2n ce + 4 * b2n watched + 8 * b2n exc + 16 * b2n audit + 32 * b2n force)

/-- A first run returned its digest (R244, R249 to R252, R268). FORCE_CHECK on any member makes a formed tile suspect
(R122). The run's `excursion` holds what droop alarm and sensors gave since its start (R249). -/
def Fabric.firstDigest (f : Fabric) (k : Nat) (r : Run) (m : Meter) (beats : List Beat) : Fabric :=
  match f.sq? r.sq, f.desc? r.sq r.seq with
  | some x, some d =>
    let v := d.view x
    let res : RunResult := { engine := k, beats := beats, counted := m.counted }
    let f := f.markRun r .checking
    let a := if r.nonReplay then (false, f) else f.countAudit x.slice k
    let force := r.seqs.any (fun n => match x.desc? n with | some e => (e.view x).force | none => false)
    let trig := triggerBits (beats.any (fun b => b.ce != 0)) r.watched (r.excursion || m.stretch != 0 || f.cleat.droopLow) a.1 force
    if v.chkrow && beats.all (fun b => shapeProj b.shape) && !beats.isEmpty && decide (f.cau.lanesOut.length < 4) then
      let g := a.2.setCheck r.sq r.seq r.instOpt (some { run1 := res, triggers := trig, engines := [k] })
      let j := g.addJob (.checkRow r.sq r.seq r.inst) x.slice []
      (j.2.onCheck r.sq r.seq r.instOpt (fun c => { c with job := some j.1 })).assignLanes 12
    else a.2.judge r.sq r.seq r.instOpt x.slice r.nonReplay trig res
  | _, _ => f

/-- An extra run returned its digest (R257 to R261). -/
def Fabric.extraDigest (f : Fabric) (k : Nat) (r : Run) (m : Meter) (beats : List Beat) : Fabric :=
  let res : RunResult := { engine := k, beats := beats, counted := m.counted }
  let f := f.onLive r.slice (fun c => { c with extraRuns := (c.extraRuns + 1) % 2 ^ 32 })
  let f := f.onCheck r.sq r.seq r.instOpt (fun c =>
    let c := { c with engines := c.engines ++ [k], wanted := none, placed := false }
    if r.kind == .third then { c with run3 := some res } else { c with run2 := some res })
  match f.getCheck r.sq r.seq r.instOpt with
  | none => f
  | some c =>
    if c.projection then (if r.kind == .third then f else f.countArb r.sq).askCau r.sq r.seq r.instOpt true
    else f.digestPath r.sq r.seq r.instOpt c

/-- R261 after a CAU outcome: 0 PASS, 1 MISMATCH, 2 UNCHECKED, 3 result unreadable, 4 operand unreadable. An unreadable
operand ends the check in step 1 alone. The table names PASS and MISMATCH for step 2; any other outcome leads to step 3 as
MISMATCH does (DESIGN CHOICE). -/
def Fabric.projectionVerdict (f : Fabric) (q : Nat) (n : BitVec 32) (i : Option Nat) (outcome : Nat) : Fabric :=
  match f.getCheck q n i with
  | none => f
  | some c =>
    match c.run2, c.run3 with
    | none, _ =>
      if outcome = 0 then f.passCheck q n i 0 c.run1 []
      else if outcome = 2 then (f.onCheck q n i (fun c => { c with projection := false })).want q n i .replay
      else if outcome = 4 then f.passRun q n i 3 0 c.run1.engine c.run1.counted
      else f.want q n i .second
    | some p, none => if outcome = 0 then f.passCheck q n i 1 p [c.run1.engine] else f.want q n i .third
    | some p, some t => if outcome = 0 then f.passCheck q n i 1 t [c.run1.engine, p.engine] else f.hold q n i c.engines

/-- R259: the CAU arbitration of the result in memory. -/
def Fabric.arbitrationVerdict (f : Fabric) (q : Nat) (n : BitVec 32) (i : Option Nat) (outcome : Nat) : Fabric :=
  match f.getCheck q n i with
  | none => f
  | some c =>
    let r := c.run3.getD c.run1
    if outcome = 0 then
      f.passCheck q n i 1 r (([some c.run1, c.run2, c.run3].filterMap id).filter (fun o => !agree o r) |>.map (·.engine))
    else f.hold q n i c.engines

/-! ### Commit (R245, R246) -/

/-- The completion record (R153). -/
def cqRecord (x : Sq) (local_ : Nat) (d : Desc) (time : Nat) (phase : Bool) : BitVec 256 :=
  let v := d.view x
  BitVec.ofNat 256 (bf d.status 0 8 + bf d.detail 8 8 + bf x.loc 16 16 + bf d.seq.toNat 32 32 + bf time 64 64
    + bf (if d.noContext then 0 else v.ctx) 128 16 + bf local_ 144 16 + bf d.counted 160 32
    + bf (if v.cond then (d.insts.filter (fun i => i.2.started)).length else 0) 192 32 + bf (b2n phase + 2 * b2n d.fenceErr) 248 8)

end Sys2Proof.Machine
end

