-- ==== Sys2Proof/Machine/Imports.lean ====
section
/-! DEFINITION. Weight packages in the import pipe (R320 to R322): the fields of a package, its decryption, what a
running import holds, and how one is stopped. -/

namespace Sys2Proof.Machine

/-! ### The package (R320) -/

/-- Fields of a package header. -/
def pkgSeg (h : BitVec 2048) : Nat := 2 ^ field h 0xC 1
def pkgLen (h : BitVec 2048) : Nat := field h 0x10 8
def pkgSegments (h : BitVec 2048) : Nat := ceilDiv (pkgLen h) (pkgSeg h)
/-- Bytes of the whole package. -/
def pkgSize (h : BitVec 2048) : Nat := 256 + pkgLen h + 16 * pkgSegments h
/-- Step 2 of R321 but for HEADER_TAG. -/
def pkgOk (h : BitVec 2048) (keyId : BitVec 32) : Bool :=
  zeroAt h 2 2 && zeroAt h 0xD 3 && zeroAt h 0x60 160 && decide (field h 0 2 = 1) && decide (16 ≤ field h 0xC 1) && decide (field h 0xC 1 ≤ 24)
    && decide (pkgLen h ≠ 0) && decide (pkgLen h % 64 = 0) && decide (pkgLen h ≤ 2 ^ 40) && decide (field h 8 4 = keyId.toNat)
/-- The nonce of segment `i`: NONCE_BASE followed by `i` as a 32-bit value; that of the header tag has 0xFFFFFFFF there. -/
def pkgNonce (h : BitVec 2048) (i : Nat) : BitVec 96 := BitVec.ofNat 96 (field h 0x18 8 * 2 ^ 32 + i % 2 ^ 32)
/-- HEADER_TAG verifies under a key: it covers bytes 0x00 to 0x4F with no plaintext. -/
def headerTagOk (key : Nat) (header : List Byte) : Bool :=
  (header.drop 0x50).take 16 == Config.packageTag key (pkgNonce (ofBytes 2048 header) (2 ^ 32 - 1)) (header.take 0x50) []

/-- Where segment `i` begins in the package, and its plaintext bytes. -/
def segAt (h : BitVec 2048) (i : Nat) : Nat := 256 + i * (pkgSeg h + 16)
def segLen (h : BitVec 2048) (i : Nat) : Nat := min (pkgSeg h) (pkgLen h - i * pkgSeg h)
/-- The plaintext of segment `i` of a package under a key, where its tag verifies: the additional data is PACKAGE_ID followed by
`i`. -/
def openSegment (key : Nat) (h : BitVec 2048) (package : List Byte) (i : Nat) : Option (List Byte) :=
  let n := segLen h i
  let cipher := (package.drop (segAt h i)).take n
  let nonce := pkgNonce h i
  if (package.drop (segAt h i + n)).take 16 = Config.packageTag key nonce (leBytes 4 (field h 4 4) ++ leBytes 4 i) cipher
  then some (cipher.zipIdx.map (fun b => b.1 ^^^ Config.gcmStream key nonce b.2))
  else none
/-- The segments decrypted in order up to the first that fails: their plaintext, and the index of that one. `lost` is a segment
that could not be read. -/
def openSegments (key : Nat) (h : BitVec 2048) (package : List Byte) (lost : Option Nat) : List Nat → List Byte × Option Nat
  | [] => ([], none)
  | i :: t =>
    if lost = some i then ([], some i)
    else match openSegment key h package i with
      | none => ([], some i)
      | some b => let r := openSegments key h package lost t; (b ++ r.1, r.2)

/-! ### What an import holds (R322) -/

/-- Bind a range of a tag of the slice for the import pipe (R179). -/
def Fabric.bindImport (f : Fabric) (s tag va len : Nat) (writes : Bool) : Option (List Extent) :=
  match f.tag? tag with
  | none => none
  | some t =>
    if t.slice != s || t.destroying || decide (2 ^ 48 < va + len) then none
    else match f.bindRange s tag t (view3 0) f.accepts writes (va, len) with
      | .ok e => some e
      | _ => none

/-- Bytes of a bound source: of the slice's own memory under its keys, and of host memory as the host port returns them, in
order (R321). -/
def Fabric.sourceBytes (f : Fabric) (s : Nat) : List Extent → List Byte → List Byte
  | [], _ => []
  | e :: t, host =>
    if e.target = 0 then f.readKeyed (f.slotOfSel s e.keySel) (devKey e.stack e.addr) e.len ++ Fabric.sourceBytes f s t host
    else (host ++ List.replicate e.len 0).take e.len ++ Fabric.sourceBytes f s t (host.drop e.len)

/-- The header of an import whose header lies in the slice's own memory. -/
def Fabric.importHeader (f : Fabric) (i : Import) : Option (BitVec 2048) :=
  match f.bindImport i.slice i.srcTag i.srcVa 256 false with
  | some l => if l.all (fun e => e.target == 0) then some (ofBytes 2048 (f.sourceBytes i.slice l [])) else none
  | none => none
/-- An import reaches the head of the queue: from now on it holds what it names, as far as its header tells; of a header in host
memory, which is not read yet, the header itself and one line of the destination (DESIGN CHOICE). -/
def Fabric.beginImport (f : Fabric) (i : Import) : Import :=
  let n := match f.importHeader i with | some h => (pkgSize h, pkgLen h) | none => (256, 64)
  { i with begun := true, unmapped := [], srcLen := n.1, dstLen := n.2
           exts := (f.bindImport i.slice i.srcTag i.srcVa n.1 false).getD [] ++ (f.bindImport i.slice i.dstTag i.dstVa n.2 true).getD [] }
def Fabric.startImports (f : Fabric) : Fabric :=
  match f.keys.imports with
  | i :: t => if i.begun then f else f.onKeys (fun k => { k with imports := f.beginImport i :: t })
  | [] => f

/-- The running import reads or writes a span of a tag. -/
def Import.touches (i : Import) (srcLen dstLen tag va len : Nat) : Bool :=
  i.begun && ((tag == i.srcTag && decide (va < i.srcVa + srcLen) && decide (i.srcVa < va + len))
    || (tag == i.dstTag && decide (va < i.dstVa + dstLen) && decide (i.dstVa < va + len)))
/-- An unmap met a range of the import since it became the running one. -/
def Import.stale (i : Import) (srcLen dstLen : Nat) : Bool := i.unmapped.any (fun u => i.touches srcLen dstLen u.1 u.2.1 u.2.2)

/-- Weight imports that meet a condition stop with ABORTED (R317, R322, R335), and what waits of the running one is not made. -/
def Fabric.stopImports (f : Fabric) (p : Import → Bool) : Fabric :=
  let hit := f.keys.imports.filter p
  if hit.isEmpty then f
  else
    let f := if hit.any (·.begun) then f.onCleat (fun c => { c with regs := c.regs.each (fun _ r => { r with waiting := r.waiting.filter (fun u => !u.imported) }) }) else f
    let f := f.onKeys (fun k => { k with imports := k.imports.filter (fun i => !p i) })
    (hit.foldl (fun f i => f.reply i.req (rep stAborted)) f).startImports
/-- The running import is over: the package count and the chain advance after a pass, and the next one begins (R321, R324). -/
def Fabric.closeImport (f : Fabric) : Fabric :=
  match f.keys.imports with
  | i :: t =>
    (match i.ended with
      | some (step, segment, header) =>
        if i.left ≠ 0 then f
        else
          let f := (f.onKeys (fun k => { k with imports := t })).startImports
          if step = 0 then
            (f.onSlice i.slice (fun x => { x with
              packages := satAdd 16 x.packages 1
              packageDigest := digestBits (sha384 (bytesOf x.packageDigest ++ header)) })).reply i.req (repOk)
          else f.reply i.req { status := stCheck, detail := BitVec.ofNat 16 step, result := result [(0x20, 4, segment)] }
      | none => f)
  | [] => f
/-- The running import stops where an unmap has met what it is known to hold (R322), and ends once its units are granted. -/
def Fabric.settleImports (f : Fabric) : Fabric := (f.stopImports (fun i => i.begun && i.stale i.srcLen i.dstLen)).closeImport

/-! ### Its traffic (R322) -/

/-- Class-2 units of an import for extents of a slice, with what they write. The import ends when all of its units are granted. -/
def Fabric.offerImport (f : Fabric) (s : Nat) (write : Bool) : List Extent → List Byte → Fabric
  | [], _ => f
  | e :: t, data =>
    let f := (splitUnits e.len).foldl (fun f u =>
      let a := e.addr + u.1
      (f.offer (if e.target = 0 then e.stack else 48)
        { slice := some s, cls := 2, charge := if e.target = 0 then 256 else chargeOf u.2, write := write, line := a,
          chan := a / 256 % Config.channels, keySlot := f.slotOfSel s e.keySel, imported := true,
          store := if write then some (devKey e.stack a, (data.drop u.1).take u.2) else none }).onKeys (fun k => { k with
            imports := match k.imports with | i :: l => { i with left := i.left + 1 } :: l | [] => [] })) f
    Fabric.offerImport f s write t (data.drop e.len)

end Sys2Proof.Machine
end

