-- ==== Sys2Proof/Machine/Commit.lean ====
section
/-! DEFINITION. Unmaps and their stale holdings (R184, R185), handles (R160), and the commit of a queue's head
descriptor (R245, R246, R155 to R158). -/

namespace Sys2Proof.Machine

/-! ### Unmaps (R184) -/

/-- A descriptor's ranges intersect a span of a tag. -/
def Desc.touches (d : Desc) (q : Sq) (tag va len : Nat) : Bool :=
  let v := d.view q
  v.tag == tag && v.ranges.any (fun r => decide (r.2 ≠ 0) && decide (r.1 < va + len) && decide (va < r.1 + r.2))

/-- Holdings of a slice under a tag at the application of an unmap: intersecting ones become stale, the others take
the new epoch. -/
def Fabric.staleHoldings (f : Fabric) (s tag va len : Nat) (epoch : BitVec 32) : List (Nat × BitVec 32) × Fabric :=
  let all := (f.descsOf s).filter (fun e => e.2.stage == .bound && (match f.sq? e.1 with | some q => (e.2.view q).tag == tag && (e.2.view q).kind != 4 | none => false))
  let hit (e : Nat × Desc) : Bool := match f.sq? e.1 with | some q => e.2.touches q tag va len | none => false
  let f := (all.filter (fun e => !hit e)).foldl (fun g e => g.onDesc e.1 e.2.seq (fun d => { d with epoch := epoch })) f
  (all.filter hit).foldl (fun acc e =>
    let g := acc.2
    let g := g.withdrawDesc e.1 e.2.seq
    let running := !(g.runningOn e.1 e.2.seq).isEmpty
    match g.desc? e.1 e.2.seq with
    | none => (acc.1, g)
    | some d =>
      let checking := d.belay == .checking || d.insts.any (fun i => i.2.belay == .checking)
      let view := (g.sq? e.1).map (fun q => d.view q)
      let range := match view with
        | some v => (v.ranges.findIdx? (fun r => decide (r.2 ≠ 0) && decide (r.1 < va + len) && decide (va < r.1 + r.2))).getD 0
        | none => 0
      if d.belay == .passed || d.belay == .held || d.belay == .committing then (acc.1, g)
      else if d.belay == .issued && (view.map (·.kind)) == some 8 then
        (acc.1, g.onDesc e.1 d.seq (fun d => { d with stale := true, detail := 16 + range }))
      else if running || checking then (acc.1 ++ [(e.1, d.seq)], g.onDesc e.1 d.seq (fun d => { d with stale := true }))
      else (acc.1, g.onDesc e.1 d.seq (fun d => { d with stale := true, stage := .unbound }))) ([], f)

/-- Windows over a span of a tag are revoked (R184). -/
def Fabric.revokeWindows (f : Fabric) (tag va len : Nat) : Fabric :=
  { f with windows := f.windows.each (fun _ w =>
      if w.state == 1 && !w.scratch && w.tag == tag && decide (w.va < va + len) && decide (va < w.va + w.len) then { w with state := 2 } else w) }

/-- The tag's epoch increases; before it would wrap, its cached translations are removed (R183). -/
def Fabric.bumpEpoch (f : Fabric) (s tag : Nat) : Fabric :=
  let g := match f.tag? tag with
    | some t => if t.epoch == 0xFFFFFFFF then f.onTu s (fun u => { u with tcache := u.tcache.filter (fun e => e.1 != tag), dcache := u.dcache.filter (fun e => e.1 != tag) }) else f
    | none => f
  g.onTag tag (fun t => { t with epoch := t.epoch + 1 })

/-- What a span of pages of a tag reaches in memory, on the host and at peers. -/
def Tag.spanPhys (t : Tag) (page n : Nat) : List Extent :=
  t.leaves.filterMap (fun l =>
    let lo := max l.1 page
    let hi := min (l.1 + sizePages l.2.size) (page + n)
    if lo < hi then some { target := l.2.target, va := lo * 65536, len := (hi - lo) * 65536, stack := l.2.stack,
                           addr := l.2.addr + (lo - l.1) * 65536, keySel := l.2.keySel, peer := l.2.peer, window := l.2.window }
    else none)
def Fabric.spanPhys (f : Fabric) (tag page n : Nat) : List Extent := ((f.tag? tag).map (fun t => t.spanPhys page n)).getD []

/-- Apply an unmap: epoch, stale holdings, windows, and a pending acknowledgement (R184, R185). `phys` is what the span reached
before. -/
def Fabric.applyUnmap (f : Fabric) (s tag va len : Nat) (kind : UnmapKind) (phys : List Extent) : Fabric :=
  let f := f.bumpEpoch s tag
  let ep := ((f.tag? tag).map (·.epoch)).getD 0
  let r := f.staleHoldings s tag va len ep
  let g := r.2.revokeWindows tag va len
  let g := g.onKeys (fun k => { k with imports := k.imports.map (fun i =>
    if i.srcTag == tag || i.dstTag == tag then { i with unmapped := i.unmapped ++ [(tag, va, len)] } else i) })
  g.onTu s (fun u => { u with unmaps := u.unmaps ++ [{ kind := kind, tag := tag, va := va, len := len, holders := r.1, since := f.now, phys := phys }] })

/-- Remove the leaves that meet a span of pages (R175 UNMAP, R160, R168). -/
def Fabric.dropLeaves (f : Fabric) (tag page n : Nat) : Fabric :=
  (f.onTag tag (fun t => { t with leaves := t.leaves.filter (fun l =>
    decide (l.1 + sizePages l.2.size ≤ page) || decide (page + n ≤ l.1)) })).settleTables tag

/-! ### Handles (R160) -/

/-- References of a handle: bound, uncommitted descriptors of the slice, open windows, and the running import, that meet the
object (R160, R322). -/
def Fabric.handleRefs (f : Fabric) (s : Nat) (h : Handle) : Nat :=
  ((f.descsOf s).filter (fun e => e.2.stage == .bound && e.2.firstBound && (match f.sq? e.1 with | some q => e.2.touches q h.tag h.va h.len | none => false))).length
    + (f.windows.filter (fun w => (w.2.state == 1 || w.2.state == 2) && !w.2.scratch && w.2.tag == h.tag && decide (w.2.va < h.va + h.len) && decide (h.va < w.2.va + w.2.len))).length
    + (f.keys.imports.filter (fun i => i.slice == s && i.touches i.srcLen i.dstLen h.tag h.va h.len)).length

/-- A DOOMED handle without references whose earlier descriptors are all bound or complete becomes UNMAPPING. -/
def Fabric.settleHandle (f : Fabric) (s k : Nat) : Fabric :=
  match (f.slice s).handles.find k with
  | some h =>
    if h.state == 2 && f.handleRefs s h == 0
        && (f.descsOf s).all (fun e => decide (h.releasedAt ≤ e.2.order) || e.2.stage == .bound) then
      let g := f.onSlice s (fun x => { x with handles := x.handles.onKey k (fun h => { h with state := 3 }) })
      let page := h.va / 65536
      let n := ceilDiv (h.va % 65536 + h.len) 65536
      (g.dropLeaves h.tag page n).applyUnmap s h.tag h.va h.len (.handle k) (f.spanPhys h.tag page n)
    else f
  | none => f
def Fabric.settleHandles (f : Fabric) (s : Nat) : Fabric :=
  ((f.slice s).handles.filter (fun h => h.2.state == 2)).foldl (fun g h => g.settleHandle s h.1) f

/-! ### Queue ends -/

/-- SQ_DESTROY ends when the queue is empty: the queue is freed and its step group is without a queue (R136). -/
def Fabric.settleDestroy (f : Fabric) (q : Nat) : Fabric :=
  match f.sq? q with
  | some x =>
    if x.destroy.isSome && x.accepted == x.commit then
      let g := { f with sqs := f.sqs.del q }
      (g.onFn x.fn (fun y => { y with sqs := y.sqs.del x.loc })).replyOpt x.destroy (repOk)
    else f
  | none => f

/-- Every descriptor in the scope of a cancellation on a queue has a completion record: none of the context, and none not yet
read, is held before the end of the scope (R161). -/
def Sq.cancelDone (x : Sq) (c : Req × Nat × BitVec 32) : Bool :=
  !x.descs.any (fun d => decide ((d.seq - c.2.2).toInt < 0) && !d.noContext && (d.stage == .accepted || (d.view x).ctx == c.2.1))
/-- CTX_CANCEL replies whose scope has committed (R161); during an L3 a cancellation does not complete (R405). -/
def Fabric.settleCancels (f : Fabric) (q : Nat) : Fabric :=
  match f.sq? q with
  | some x =>
    if (f.slice x.slice).state == .resetting then f
    else
    let done := x.cancels.filter x.cancelDone
    let g := f.onSq q (fun x => { x with cancels := x.cancels.filter (fun c => !x.cancelDone c) })
    done.foldl (fun g c => if g.sqs.any (fun e => e.2.cancels.any (fun k => k.1 == c.1)) then g else g.reply c.1 (repOk)) g
  | none => f

/-! ### Commit (R246) -/

/-- The completion queue has room (R156). -/
def Cq.room (c : Cq) : Bool := decide ((c.tail - c.head).toNat < 2 ^ c.log2)
/-- PHASE of the next record (R154). -/
def Cq.phase (c : Cq) : Bool := c.tail.toNat / 2 ^ c.log2 % 2 == 0

/-- R157: the signal of a committing descriptor. -/
def Fabric.signalFence (f : Fabric) (x : Sq) (d : Desc) : Fabric :=
  let v := d.view x
  if d.noContext || !v.sigEn then f
  else
    let g := f.onFence x.fn v.sigFence (fun n =>
      { n with value := n.value + 1, error := n.error || badStatus d.status, shValue := n.value + 1, shError := n.error || badStatus d.status })
    let n := g.fence x.fn v.sigFence
    if n.irqEn then g.irq x.fn n.vector else g

/-- R155: the vector of a record, at most one message in a coalescing interval. -/
def Fabric.raiseCq (f : Fabric) (fn k : Nat) (c : Cq) : Fabric :=
  if c.quietUntil ≤ f.now then (f.irq fn c.vector).onCq fn k (fun c => { c with quietUntil := f.now + c.coalesceNs, owed := false })
  else f.onCq fn k (fun c => { c with owed := true })

/-- The slice-local index of an engine, or 0xFFFF. -/
def Fabric.localEngine (f : Fabric) (s k : Nat) : Nat := ((f.slice s).engines.findIdx? (· == k)).getD 0xFFFF

/-- A descriptor whose verdict is given: PASSED, or HELD with the status that the slice's reset gave it (R245, R264). -/
def Desc.decided (d : Desc) : Bool := d.belay == .passed || (d.belay == .held && d.ending == some 5)
/-- Stack and byte offset of a completion queue's journal shadow in the reserved region: behind the table areas, round-robin
over its stacks (DESIGN CHOICE: R55 fixes no place). -/
def shadowAt (fn cq : Nat) : Nat × Nat :=
  let n := Config.reservedStacks.length
  let i := fn * 64 + cq
  (Config.reservedStacks.getD (i % n) 0, gib (Config.reservedBaseGib + 2) + i / n * 256)
/-- A journal shadow write reaches the reserved region (R163, R247). -/
def Fabric.applyShadow (f : Fabric) (w : ShadowWrite) : Fabric :=
  (f.onCq w.fn w.cq (fun c => { c with shHead := w.head, shTail := w.tail, shRecord := w.record,
                                       ahead := c.ahead.filter (fun r => decide (0 ≤ (r.1 - w.tail).toInt)) })).onSq w.sq
    (fun x => { x with shCommit := w.commit })
/-- A record reaches the host ring; it stands ahead of the shadow until its shadow write arrives (R247). -/
def Fabric.recordArrives (f : Fabric) (w : ShadowWrite) : Fabric :=
  f.onCq w.fn w.cq (fun c => if (w.tail - c.shTail).toInt ≤ 0 then c else { c with ahead := c.ahead ++ [(w.tail - 1, w.record)] })
/-- Steps 1 and 2 of a commit: the shadow write is issued as fabric traffic under slot 1, and the record write as the slice's
traffic, without waiting for it (R246, R247, R310). -/
def Fabric.issueRecord (f : Fabric) (x : Sq) (w : ShadowWrite) (addr : Nat) : Fabric :=
  let a := shadowAt w.fn w.cq
  let f := f.offer a.1 { cls := 6, charge := 256, write := true, line := a.2, chan := a.2 / 256 % Config.channels, keySlot := 1, shadow := some w }
  if (f.fn w.fn).silent then f
  else f.offer 48 { slice := some x.slice, cls := 5, charge := chargeOf 32, write := true,
                    send := [.cqRecord w.fn w.cq addr w.record], shadow := some w }
/-- Commit the head of a queue: journal shadow, record, fence, COMMIT, release, vector (R246). -/
def Fabric.commitHead (f : Fabric) (q : Nat) : Fabric :=
  match f.sq? q with
  | none => f
  | some x =>
    match x.descs with
    | [] => f
    | d :: rest =>
      match f.cq? x.fn x.cq with
      | none => f
      | some c =>
        if !d.decided || f.rs.frozen then f
        else if !c.room then
          if d.fullStall then f
          else (f.onCq x.fn x.cq (fun c => { c with fullStall := satAdd 16 c.fullStall 1 })).onDesc q d.seq (fun d => { d with fullStall := true })
        else
          let bytes := cqRecord x (f.localEngine x.slice d.engine) d f.now c.phase
          let w : ShadowWrite := { sq := q, commit := x.commit + 1, fn := x.fn, cq := x.cq, head := c.head,
                                   tail := c.tail + 1, record := bytes }
          let f := f.issueRecord x w (c.addr + c.tail.toNat % 2 ^ c.log2 * 32)
          let f := f.onCq x.fn x.cq (fun c => { c with tail := c.tail + 1 })
          let f := if leaving (f.slice x.slice).state && d.status == 7 then
              f.onSlice x.slice (fun y => { y with revokedRecs := satAdd 16 y.revokedRecs 1 }) else f
          let f := f.signalFence x d
          let f := (f.dropQuota q x d).dropExtents q x d
          let f := f.onSq q (fun x => { x with
            commit := x.commit + 1, issue := if x.issue == x.commit then x.commit + 1 else x.issue, descs := rest })
          let f := f.moveIssue q
          let v := d.view x
          let f := if (!d.noContext && v.irq) || badStatus d.status then f.raiseCq x.fn x.cq c else f
          let f := f.settleFn x.fn
          let f := f.settleHandles x.slice
          (f.settleCancels q).settleDestroy q

/-- Commit every queue's head as far as it goes; `fuel` bounds the commits of one queue. -/
def Fabric.commitQueue (f : Fabric) (q : Nat) : Nat → Fabric
  | 0 => f
  | n + 1 =>
    let c := ((f.sq? q).map (·.commit)).getD 0
    let g := f.commitHead q
    if ((g.sq? q).map (·.commit)).getD 0 == c then g else Fabric.commitQueue g q n

end Sys2Proof.Machine
end

