-- ==== Sys2Proof/Machine/Groups.lean ====
section
/-! DEFINITION. Collective groups: reach of neighbours, messages on VL 7, the end and the abort of a step, and the
break of a group (R278 to R300). -/

namespace Sys2Proof.Machine

/-! ### Reach -/

/-- A port is up: lanes active and a peer with a number, and not retired (R67, R280). -/
def Fabric.portUp (f : Fabric) (p : Nat) : Bool :=
  f.cleat.lanes.getD p 0 != 0 && (f.cleat.peers.getD p (0, 0)).1 != 0 && !bitAt f.units.portRetired p
/-- Up ports of a slice that reach a chip and carry a virtual lane, ascending. -/
def Fabric.portsVl (f : Fabric) (s chip vl : Nat) : List Nat :=
  let x := f.slice s
  (f.portsTo x chip).filter (fun p => bitAt (BitVec.ofNat 7 (recVl x.record p)) vl)
/-- Chips of a group's successor and predecessor. -/
def Group.succ (g : Group) : Nat := gMember g.record ((gRank g.record + 1) % gN g.record)
def Group.pred (g : Group) : Nat := gMember g.record ((gRank g.record + gN g.record - 1) % gN g.record)
/-- Rank 0 leads the ring. -/
def Group.leads (g : Group) : Bool := gRank g.record == 0

/-- A message on VL 7 waits at a port's regulator as fabric traffic (R46, R209). A chip without a number sends nothing (R280),
and while the cluster key is EMPTY VL 7 carries nothing (R313). -/
def Fabric.sendPort (f : Fabric) (p : Nat) (m : LinkMsg) : Fabric :=
  if f.splice.chip = 0 || !f.wireReady p wireCluster then f
  else f.offer (16 + p) { cls := 6, charge := 64, wire := some vl7Wire, msg := some m }
/-- Send a message on VL 7 to a chip that the slice reaches, on its lowest such port. -/
def Fabric.sendChip (f : Fabric) (s chip : Nat) (m : LinkMsg) : Fabric :=
  match f.portsTo (f.slice s) chip with
  | p :: _ => f.sendPort p m
  | [] => f
def Fabric.sendSucc (f : Fabric) (g : Nat) (m : LinkMsg) : Fabric := f.sendChip (gSlice (f.group g).record) (f.group g).succ m
def Fabric.sendPred (f : Fabric) (g : Nat) (m : LinkMsg) : Fabric := f.sendChip (gSlice (f.group g).record) (f.group g).pred m

/-- R403: a notice to the operator path and to every peer whose port is up, once the cluster key is installed; of a
frozen chip the hardware sends it past the regulators, which grant nothing (R384). -/
def Fabric.notify (f : Fabric) (kind : Nat) (job : BitVec 32) : Fabric :=
  let g := f.emit (.notice kind f.splice.chip job f.now f.rs.l4Count)
  ((List.range Config.ports).filter f.portUp).foldl (fun g p =>
    let m := LinkMsg.notice kind g.splice.chip job g.now g.rs.l4Count
    if !g.rs.frozen then g.sendPort p m
    else if g.splice.chip = 0 || !g.wireReady p wireCluster then g
    else g.sendUnit p vl7Wire (some m)) g

/-! ### The step queue -/

/-- The chip-wide number of a group's step queue. -/
def Fabric.stepQueue (f : Fabric) (g : Nat) : Option Nat :=
  (f.sqs.find? (fun e => e.2.group == some g)).map (·.1)
/-- The descriptor of a step number. -/
def Fabric.stepDesc (f : Fabric) (g k : Nat) : Option (Nat × Desc) :=
  match f.stepQueue g with
  | some q =>
    match f.sq? q with
    | some x => (x.descs.find? (fun d => (d.seq - (f.group g).base).toNat % 65536 == k)).map (fun d => (q, d))
    | none => none
  | none => none
/-- The step in progress. -/
def Fabric.runningStep (f : Fabric) (g : Nat) : Option (Nat × Desc) :=
  match (f.group g).running, f.stepQueue g with
  | some n, some q => (f.desc? q n).map (fun d => (q, d))
  | _, _ => none
/-- Number of the step in progress: one before the next to start. -/
def Group.stepNow (g : Group) : Nat := (g.stepNum + 65535) % 65536

/-- R287: the status with which an aborted step completes; `mine` on the member that raised the abort. -/
def abortStatus (c : AbortCause) (mine : Bool) : Nat :=
  match c with
  | .mismatch => 3
  | .timeout => if mine then 6 else 8
  | .path => 8
  | .cancel => if mine then 2 else 8
  | .stale => if mine then 4 else 8
  | .unreadable => if mine then 3 else 8

/-- What a group keeps of a step is cleared at its end. -/
def Group.clearStep (g : Group) : Group :=
  { g with running := none, isReady := false, going := false, received := [], sent := [], toSend := [], written := 0, accum := [],
           made := 0, blocked := false, writesOut := 0 }

/-- The time since the last progress of the step in progress is added up (R296). -/
def Fabric.progress (f : Fabric) (g : Nat) : Fabric :=
  f.onGroup g (fun x => { x with waitNs := x.waitNs + (f.now - x.lastProgress), lastProgress := f.now })
/-- What still waits at the regulators of a step in progress that ends without its end: its reads and its writes of range 0
are not made (R287, R300). -/
def Fabric.dropStepUnits (f : Fabric) (g : Nat) : Fabric :=
  let k := (f.group g).stepNow
  f.onCleat (fun c => { c with regs := c.regs.each (fun _ r => { r with
    waiting := r.waiting.filter (fun u => u.group != some g && u.step != some (g, k)) }) })

/-! ### Breaking (R299) -/

/-- Every held step of a group completes PEER_LOST; one that is ending takes its own status. -/
def Fabric.loseSteps (f : Fabric) (g : Nat) : Fabric :=
  match f.stepQueue g with
  | some q =>
    match f.sq? q with
    | some x => (x.descs.filter (fun d => d.belay != .passed && d.stage != .accepted)).foldl (fun f d => f.pass q d.seq (d.ending.getD 8) 0) f
    | none => f
  | none => f

/-- The group breaks. A step in progress has its time without progress added up (R296). -/
def Fabric.breakGroup (f : Fabric) (g : Nat) : Fabric :=
  let x := f.group g
  if x.state != 2 && x.state != 3 then f
  else
    let job := gJob x.record
    let f := if x.running.isSome then (f.progress g).dropStepUnits g else f
    let f := (f.sendSucc g (.broken job)).sendPred g (.broken job)
    let f := if x.leads && x.resv == 2 then f.sendChip (gSlice x.record) (gSwitch x.record) (.release job) else f
    let f := f.loseSteps g
    let f := f.onGroup g (fun x => { x.clearStep with state := 4, resv := 0, heldReady := none, cancelSteps := [], abortAhead := [] })
    f.notify 4 job
/-! ### The end of a step (R286, R287) -/

/-- The descriptor of a step number has been committed. -/
def Fabric.stepGone (f : Fabric) (g k : Nat) : Bool :=
  match (f.stepQueue g).bind f.sq? with
  | some x =>
    let d := ((x.commit - (f.group g).base).toNat + 65536 - k) % 65536
    decide (0 < d) && decide (d < 32768)
  | none => false

/-- Steps that end without having run are passed over. A cancelled one raises CANCEL for its number; one that failed a check
or a binding needs nothing (R286, R300). Such a step is none that ends by TIMEOUT (R299). -/
def Fabric.skipSteps (f : Fabric) (g : Nat) : Nat → Fabric
  | 0 => f
  | n + 1 =>
    let x := f.group g
    let next (f : Fabric) : Fabric := f.onGroup g (fun y => { y with
      cancelSteps := y.cancelSteps.filter (fun k => k != x.stepNum), abortAhead := y.abortAhead.filter (fun a => a.1 != x.stepNum)
      heldReady := if (y.heldReady.map (·.step)) = some x.stepNum then none else y.heldReady
      stepNum := (y.stepNum + 1) % 65536, timeoutRun := 0 })
    let ended := match f.stepDesc g x.stepNum with
      | some (_, d) => d.belay == .passed
      | none => f.stepGone g x.stepNum
    if x.state != 3 || x.running.isSome || !ended then f
    else if x.cancelSteps.contains x.stepNum then
      let m := LinkMsg.abort (gJob x.record) x.stepNum .cancel
      let f := (f.sendSucc g m).sendPred g m
      Fabric.skipSteps ((next f).onGroup g (fun y => { y with abortCnt := satAdd 16 y.abortCnt 1 })) g n
    else Fabric.skipSteps (next f) g n

/-- A step ends with a status (R286, R287). `late` says that it ends by TIMEOUT, on the member that raised it or another; the
third in a row breaks the group (R299). -/
def Fabric.endStep (f : Fabric) (g status detail : Nat) (late : Bool := false) : Fabric :=
  match f.runningStep g with
  | some (q, d) =>
    let f := f.progress g
    let f := if status = 0 then f else f.dropStepUnits g
    let third := late && (f.group g).timeoutRun == 2
    let f := f.pass q d.seq status detail
    let f := f.onGroup g (fun x =>
      let y := x.clearStep
      { y with timeoutRun := if late then min 2 (x.timeoutRun + 1) else 0
               abortCnt := if status = 0 then x.abortCnt else satAdd 16 x.abortCnt 1 })
    if third then f.breakGroup g else f.skipSteps g 64
  | none => f

/-- Break every group that meets a condition. -/
def Fabric.breakGroups (f : Fabric) (p : Group → Bool) : Fabric :=
  (f.splice.groups.keysOf (fun _ x => p x)).foldl (fun f g => f.breakGroup g) f

/-- Trigger 3 of R299: no up port of the slice that carries the group's VL reaches a neighbour. -/
def Fabric.reachesRing (f : Fabric) (x : Group) : Bool :=
  let s := gSlice x.record
  let vl := gVl x.record
  !(f.portsVl s x.succ vl).isEmpty && !(f.portsVl s x.pred vl).isEmpty
def Fabric.breakUnreached (f : Fabric) : Fabric := f.breakGroups (fun x => (x.state == 2 || x.state == 3) && !f.reachesRing x)

/-- GRP_DESTROY ends when the step queue is empty (R299). -/
def Fabric.settleGroup (f : Fabric) (g : Nat) : Fabric :=
  let x := f.group g
  match x.destroy with
  | some r =>
    let done : Bool := match f.stepQueue g with
      | some q => ((f.sq? q).map (fun y => y.accepted == y.commit)).getD true
      | none => true
    if done then
      let f := match f.stepQueue g with | some q => f.onSq q (fun y => { y with group := none }) | none => f
      ({ f with splice := { f.splice with groups := f.splice.groups.del g } } : Fabric).reply r (repOk)
    else f
  | none => f
def Fabric.settleGroups (f : Fabric) : Fabric :=
  (f.splice.groups.keysOf (fun _ x => x.destroy.isSome)).foldl (fun f g => f.settleGroup g) f

/-! ### Aborting (R287) -/

/-- This member raises an abort of its step in progress. -/
def Fabric.raiseAbort (f : Fabric) (g : Nat) (c : AbortCause) (detail : Nat) : Fabric :=
  let x := f.group g
  if x.running.isNone then f
  else
    let m := LinkMsg.abort (gJob x.record) x.stepNow c
    ((f.sendSucc g m).sendPred g m).endStep g (abortStatus c true) detail (c == .timeout)

/-- Steps in progress whose range an unmap made stale raise STALE (R184, R300). -/
def Fabric.settleStale (f : Fabric) : Fabric :=
  (f.splice.groups.keysOf (fun _ x => x.running.isSome)).foldl (fun f g =>
    match f.runningStep g with
    | some (_, d) => if d.stale then f.raiseAbort g .stale d.detail else f
    | none => f) f

/-! ### What a step moves (R285, R290, R291) -/

/-- The figures of a step on a member. -/
structure Plan where
  op : Nat
  red : Nat
  fmt : Nat
  root : Nat
  n : Nat
  rank : Nat
  segs : Nat
  seg : Nat
  chunk : Nat
  sw : Bool
deriving DecidableEq, Repr

/-- Segments and their elements: N of E / N, or one of E for a broadcast. -/
def planOf (x : Group) (d : Desc) : Plan :=
  let n := gN x.record
  let e := stepElems d.raw
  let op := field d.raw 0 1
  { op := op, red := stepRedOp d.raw, fmt := stepFmt d.raw, root := stepRoot d.raw, n := n, rank := gRank x.record,
    segs := if op = 4 then 1 else n, seg := if op = 4 then e else e / n, chunk := 2 ^ gChunkLog2 x.record, sw := x.useSwitch }
/-- Chunks of a segment, elements of a chunk, and where chunk `i` begins in its segment. -/
def Plan.chunks (p : Plan) : Nat := ceilDiv p.seg p.chunk
def Plan.count (p : Plan) (c : Nat) : Nat := min p.chunk (p.seg - c * p.chunk)
def Plan.bits (p : Plan) : Nat := elemBits p.fmt
/-- Sums of a format without a partial form are not formed on the way (R290). -/
def Plan.unsummed (p : Plan) : Bool := p.red == 0 && (partialForm p.fmt).isNone
/-- Elements of range 0 that the member writes, and chunks that it sends. -/
def Plan.toWrite (p : Plan) : Nat := match p.op with | 2 => p.seg | 4 => if p.rank = p.root then 0 else p.seg | 5 => 0 | _ => p.seg * p.segs
def Plan.toMake (p : Plan) : Nat :=
  let c := p.chunks
  let reduce := if p.unsummed then p.n * (p.n - 1) / 2 * c else (p.n - 1) * c
  if p.sw then p.n * c
  else
    match p.op with
    | 1 => reduce + (p.n - 1) * c
    | 2 => reduce
    | 3 => (p.n - 1) * c
    | 4 => if p.rank = p.root ∨ (p.rank + 1) % p.n ≠ p.root then c else 0
    | _ => 0

/-- The step ends when range 0 is written, every chunk that the member sends is acknowledged, and no write of it waits. -/
def Fabric.checkEnd (f : Fabric) (g : Nat) : Fabric :=
  match f.runningStep g with
  | some (_, d) =>
    let x := f.group g
    let p := planOf x d
    if x.going && x.sent.isEmpty && x.toSend.isEmpty && x.written == p.toWrite && x.writesOut == 0 && x.made == p.toMake then f.endStep g 0 0 else f
  | none => f
/-- READY groups go on: past steps that have ended without running, and at the end of one in progress. -/
def Fabric.settleSteps (f : Fabric) : Fabric :=
  f.each (f.splice.groups.keysOf (fun _ x => x.state == 3)) (fun g f =>
    if (f.group g).running.isSome then f.checkEnd g else f.skipSteps g 64)

end Sys2Proof.Machine
end

