-- ==== Sys2Proof/Machine/Resets.lean ====
section
/-! DEFINITION. Work that is cut short: cancellation (R161), L1 (R379), hang searches (R373 to R376), L2 (R380,
R381) and L3 (R382, R383). -/

namespace Sys2Proof.Machine

/-! ### Descriptors that end without running on (R161, R317, R334) -/

/-- Drop a CAU job. -/
def Fabric.dropJobs (f : Fabric) (p : JobKind → Bool) : Fabric :=
  f.dropCau (fun j => p j.kind)
/-- The job belongs to a descriptor. -/
def jobOf (q : Nat) (n : BitVec 32) (k : JobKind) : Bool :=
  match k with
  | .arbitrate a b _ => a == q && b == n
  | .project a b _ => a == q && b == n
  | .checkRow a b _ => a == q && b == n
  | .digest _ _ => false

/-- Engines whose running tile meets a condition. -/
def Fabric.enginesRunning (f : Fabric) (p : Run → Bool) : List Nat :=
  f.engines.keysOf (fun _ e => match e.running with | some r => p r | none => false)

/-- Searches whose replay is no longer on an engine look for another (R374). -/
def Fabric.settleHangs (f : Fabric) : Fabric :=
  let on (k : Nat) (h : Hang) : Bool :=
    let e := f.engine k
    let is (r : Run) : Bool := r.kind == .isolated && r.sq == h.sq && r.seq == h.seq && r.inst == h.inst
    e.queue.any is || (match e.running with | some r => is r | none => false)
  let lost := f.rs.hangs.filterMap (fun h => match h.replayEngine with | some k => if on k h then none else some k | none => none)
  let g := f.onRs (fun r => { r with hangs := r.hangs.map (fun h => match h.replayEngine with
    | some k => if on k h then h else { h with replayEngine := none }
    | none => h) })
  lost.foldl (fun g k => g.onEngine k (fun e => { e with noPlace := false })) g
/-- A search is abandoned. -/
def Fabric.dropHang (f : Fabric) (q : Nat) (n : BitVec 32) : Fabric :=
  let mine := f.rs.hangs.filter (fun h => h.sq == q && h.seq == n)
  let g := f.onRs (fun r => { r with hangs := r.hangs.filter (fun h => !(h.sq == q && h.seq == n)) })
  mine.foldl (fun g h => match h.replayEngine with
    | some k => g.onEngine k (fun e => { e with noPlace := false, queue := e.queue.filter (fun r => !(r.kind == .isolated && r.sq == q && r.seq == n)) })
    | none => g) g

/-- The run that a search stands for. -/
def Hang.run (h : Hang) (cond : Bool) : Run :=
  { sq := h.sq, seq := h.seq, inst := h.inst, members := h.members, kind := .isolated, slice := h.slice, cond := cond }
/-- A search is abandoned, and its tile is ready again (R405). -/
def Fabric.quitHang (f : Fabric) (h : Hang) : Fabric :=
  let cond := match f.sq? h.sq, f.desc? h.sq h.seq with
    | some x, some d => (d.view x).cond
    | _, _ => false
  (f.dropHang h.sq h.seq).backToReady { h.run cond with kind := .first }
/-- The searches that meet a condition are abandoned. -/
def Fabric.quitHangs (f : Fabric) (p : Hang → Bool) : Fabric := (f.rs.hangs.filter p).foldl (fun f h => f.quitHang h) f

/-- A descriptor of a pool operation, a step or a tile that waits ends at once. -/
def Fabric.endWaiting (f : Fabric) (q : Nat) (n : BitVec 32) (st : Nat) : Fabric :=
  match f.sq? q, f.desc? q n with
  | some x, some d =>
    match d.stage with
    | .parked k => (f.pass q n st 0).closeFault x.slice k
    | .accepted => f.onDesc q n (fun d => { d with ending := some st })
    | _ => f.pass q n st 0
  | _, _ => f

/-- A queued run of a descriptor leaves its engine; members that are not ending are ready again. -/
def Fabric.unqueue (f : Fabric) (q : Nat) (n : BitVec 32) : Fabric :=
  (f.engines.map (·.1)).foldl (fun g k =>
    let hit := (g.engine k).queue.filter (fun r => r.sq == q && r.seqs.contains n)
    let g := g.onEngine k (fun e => { e with queue := e.queue.filter (fun r => !(r.sq == q && r.seqs.contains n)) })
    hit.foldl (fun g r => if r.kind == .isolated then g else g.backToReady r) g) f

/-- A descriptor ends with a status under the table of R161 or of R317. `all` also cuts off non-pre-emptible tiles at
their end and abandons checks. -/
def Fabric.endDesc (f : Fabric) (q : Nat) (n : BitVec 32) (st : Nat) (all : Bool) : Fabric :=
  match f.sq? q, f.desc? q n with
  | some x, some d =>
    let v := d.view x
    if d.belay == .passed || d.belay == .committing then f
    else if v.kind = 8 && d.belay == .issued then
      (match x.group with
        | some g => if all then f.endStep g st 0 else f.raiseAbort g .cancel 0
        | none => f.pass q n st 0)
    else if d.belay == .bound && !v.cond then
      let f := f.endWaiting q n st
      match x.group with
      | some g => if v.kind = 8 && st = 2 then (f.onGroup g (fun y => { y with cancelSteps := y.cancelSteps ++ [(n - y.base).toNat % 65536] })).skipSteps g 64 else f
      | none => f
    else if v.cond && d.stage != .bound then f.endWaiting q n st
    else
      let runs := f.enginesRunning (fun r => r.sq == q && r.seqs.contains n)
      let firsts := runs.filter (fun k => match (f.engine k).running with | some r => !r.extra | none => false)
      let firm := runs.any (fun k => match (f.engine k).running with | some r => r.nonPreempt && !r.extra | none => false)
      let checking := d.belay == .checking || d.belay == .held
      if checking && !v.cond && !all then f
      else if !v.cond && firm && !all then f.unqueue q n
      else
        let f := (f.quitHangs (fun h => h.sq == q && (h.seq == n || h.members.contains n))).unqueue q n
        let f := f.onDesc q n (fun d => { d with ending := some st })
        let f := if all then
            (d.insts.filter (fun i => i.2.belay == .checking)).foldl (fun f _ => f.instQuota x.slice false)
              ((f.dropJobs (jobOf q n)).onDesc q n (fun d => { d with
                check := none
                insts := d.insts.each (fun _ i => if i.belay == .checking then { i with belay := .bound, check := none } else i) }))
          else f
        let f := runs.foldl (fun g k => match (g.engine k).running with
          | some r => if all || !r.nonPreempt then g.preempt k none else g
          | none => g) f
        if v.cond then f.settleCond q n
        else if firsts.isEmpty || checking then f.pass q n st 0
        else f
  | _, _ => f

/-- A test that runs or awaits its tile boundary is abandoned and falls due again at once (R364). -/
def Fabric.abandonTest (f : Fabric) (k : Nat) : Fabric :=
  let e := f.engine k
  if e.testSeed.isNone && e.testOwner.isNone then f
  else
    let f := if e.testSeed.isSome then f.emit (.engine k .abort) else f
    f.onEngine k (fun e => { e with testSeed := none, testOwner := none, testDue := true })

/-- The TEST command goes to the engine with a drawn seed. -/
def Fabric.startTest (f : Fabric) (k : Nat) : Fabric :=
  let r := f.drawWord
  (r.2.onEngine k (fun e => { e with testSeed := some r.1, testDue := false, testFrom := f.now })).emit (.engine k (.test r.1))

/-- A tile boundary on an engine that a borrow waits for (R363). -/
def Fabric.testBoundary (f : Fabric) (k : Nat) : Fabric :=
  let e := f.engine k
  match e.testOwner with
  | some s => if e.testSeed.isNone && e.running.isNone && e.state == .inService && (f.slotNow s k).isSome then f.startTest k else f
  | none => f

/-! ### Cancellation of a context (R161, R379, R134) -/

/-- A descriptor was accepted before a packet was received. -/
def Desc.within (d : Desc) (receipt : Option Nat) : Bool :=
  match receipt with
  | none => true
  | some n => decide (d.order < n)
/-- The ACCEPTED pointer of a queue at the receipt of a packet. -/
def Sq.scopeEnd (x : Sq) (receipt : Option Nat) : BitVec 32 :=
  match receipt with
  | none => x.accepted
  | some n => ((x.descs.find? (fun d => decide (n ≤ d.order))).map (·.seq)).getD x.accepted
/-- A place in admission order: fabric time, queue, ring order (R129). -/
def admissionKey (time q order : Nat) : Nat := (time * 4096 + q) * 2 ^ 64 + order
/-- The place of the implicit LEAVEs of a cancellation: behind everything that its receipt found accepted (R134). -/
def Fabric.leaveKey (f : Fabric) (s : Nat) (receipt : Option Nat) : Nat :=
  match receipt with
  | none => admissionKey f.now 4095 f.accepts
  | some n => admissionKey ((((f.descsOf s).filter (fun e => decide (e.2.order < n))).map (·.2.acceptedAt)).foldl max 0) 4095 n
/-- Cancel a context on queues of a slice; the scope is what was accepted at `receipt`, or is now. `except` names a
descriptor left out. The implicit LEAVEs of one cancellation share a place in admission order and stand in it in the order in
which their sequences were admitted (R134). -/
def Fabric.cancelCtx (f : Fabric) (s ctx : Nat) (queues : List Nat) (except : Option (Nat × BitVec 32)) (receipt : Option Nat) : Fabric :=
  let f := queues.foldl (fun f q => f.onSq q (fun x => { x with scopes := x.scopes ++ [(ctx, x.scopeEnd receipt)] })) f
  let hit := (f.descsOf s).filter (fun e => queues.contains e.1 && e.2.stage != .accepted && e.2.within receipt && except != some (e.1, e.2.seq)
    && (match f.sq? e.1 with | some x => (e.2.view x).ctx == ctx | none => false))
  let f := hit.foldl (fun f e => f.endDesc e.1 e.2.seq 2 false) f
  let fns := (queues.filterMap (fun q => (f.sq? q).map (·.fn))).eraseDups
  let f := ((f.slice s).engineSet).foldl (fun f k => f.abandonTest k) f
  let key := f.leaveKey s receipt
  f.onSlice s (fun x =>
    let gone := sortBy (fun e => e.2.joinedAt) (x.pool.seqs.filter (fun e => e.2.ctx == ctx && fns.contains e.2.fn))
    { x with l1Cnt := satAdd 16 x.l1Cnt 1, pool := { x.pool with leaves := x.pool.leaves ++ gone.map (fun e => (e.1, key)) } })

/-! ### L2 (R380, R381) -/

/-- Send the engine port RESET, once in an L2. -/
def Fabric.sendReset (f : Fabric) (k : Nat) : Fabric :=
  if (f.engine k).resetSent then f
  else (f.onEngine k (fun e => { e with resetFrom := f.now, resetSent := true, resetWait := false })).emit (.engine k .reset)

/-- An extra run of Belay that runs on an engine is void, whatever it returns (R265). -/
def Fabric.voidExtra (f : Fabric) (k : Nat) : Fabric :=
  f.onEngine k (fun e => { e with running := e.running.map (fun r =>
    if r.kind == .replay || r.kind == .second || r.kind == .third then { r with void := true } else r) })
/-- L2 of an engine begins. `packet` says that ENGINE_RESET asked for it. -/
def Fabric.startL2 (f : Fabric) (k : Nat) (packet : Bool) : Fabric :=
  if (f.engine k).state != .inService then f
  else
    let f := ((f.abandonTest k).onEngine k (fun e => { e with state := .resetting, resetSent := false })).withdraw k (fun _ => true)
    let f := f.settleHangs.voidExtra k
    let f := (f.engineOwners k).foldl (fun f s => f.onSlice s (fun x => { x with l2Cnt := satAdd 16 x.l2Cnt 1 })) f
    match (f.engine k).running with
    | none => f.sendReset k
    | some r => if packet && r.nonPreempt then f.onEngine k (fun e => { e with resetWait := true }) else f.abortRun k

/-! ### Ending a run without a verdict -/

/-- The run ends its descriptors, or its instance, with a bad status (R375, R150). -/
def Fabric.failRun (f : Fabric) (r : Run) (status detail : Nat) : Fabric :=
  (f.dropJobs (jobOf r.sq r.seq)).passRun r.sq r.seq r.instOpt status detail 0xFFFF 0

/-- Members of a first run that are ending take their status, the others are ready again (R96, R123, R161). -/
def Fabric.rewindRun (f : Fabric) (r : Run) : Fabric :=
  let g := f.backToReady r
  if r.extra then g
  else
    let g := r.seqs.foldl (fun g n =>
      match g.desc? r.sq n with
      | some d => if !r.cond && d.belay == .bound && d.ending.isSome then g.endWaiting r.sq n (d.ending.getD 2) else g
      | none => g) g
    if r.cond then g.settleCond r.sq r.seq else g

/-- What follows a run that was cut off: a NON_REPLAY run cannot be rewound (R150, R380, R405). -/
def Fabric.cutRun (f : Fabric) (r : Run) : Fabric :=
  let ending := r.seqs.any (fun n => match f.desc? r.sq n with | some d => d.ending.isSome | none => false)
  match r.onEnd with
  | some st => if r.extra && (f.checkOf r).isNone then f.rewindRun r else f.failRun r st 0
  | none => if r.nonReplay && !r.extra && !ending then f.failRun r 5 0 else f.rewindRun r

/-! ### Hang searches (R373 to R376) -/

/-- SYNDROME of a SCHED HANG record (R376). -/
def hangSyn (e : Nat) (replay : Option Nat) (verdict : Nat) (nonReplay : Bool) : BitVec 192 :=
  BitVec.ofNat 192 (bf e 0 16 + bf (replay.getD 0xFFFF) 16 16 + bf verdict 32 8 + bf (b2n nonReplay) 40 1)
/-- The record of a hang, raised at the verdict: 0 ENGINE, 1 CONTEXT, 2 UNDECIDED. -/
def Fabric.hangRecord (f : Fabric) (h : Hang) (verdict : Nat) : Fabric :=
  match f.sq? h.sq, f.desc? h.sq h.seq with
  | some x, some d =>
    let unit := if verdict = 1 then centralUnit srcRs else unitId 0 0 h.engine
    f.raise (descRec h.sq x d srcRs unit 0x0501 (hangSyn h.engine h.replayEngine verdict h.nonReplay))
  | _, _ => f

/-- An engine's cause HANG. -/
def Fabric.watchHang (f : Fabric) (k : Nat) : Fabric := f.watchEngine k 3

/-- Place the isolated replay of a search if an engine qualifies (R374). -/
def Fabric.placeIsolated (f : Fabric) (h : Hang) : Fabric :=
  match f.sq? h.sq, f.desc? h.sq h.seq with
  | some x, some d =>
    if h.replayEngine.isSome || (f.slice h.slice).state != .active then f
    else
      let v := d.view x
      let all := h.seq :: h.members
      let budget := (all.filterMap (fun m => (x.desc? m).map (fun y => budgetTime (y.view x).budget f.mhz))).foldl max 0
      let fixed := all.any (fun m => match x.desc? m with | some y => (y.view x).fixed | none => false)
      let other := (f.reachable h.slice h.sq all).any (fun k => k != h.engine)
      let pick := (f.chooseExtra h.slice h.sq all [h.engine] [h.engine] .isolated budget fixed).or
        (if !other && f.usable h.slice h.engine && f.extraFit h.slice h.engine budget fixed != .no then some h.engine else none)
      match pick with
      | none => f
      | some k =>
        let f := f.withdraw k (fun _ => true)
        let f := f.onEngine k (fun e => { e with noPlace := true })
        let f := f.onRs (fun r => { r with hangs := r.hangs.map (fun y => if y.sq == h.sq && y.seq == h.seq && y.inst == h.inst then { y with replayEngine := some k } else y) })
        f.enqueue k ({ h.run v.cond with budgetNs := budget, nonPreempt := fixed }.against (f.extraFit h.slice k budget fixed)) true
  | _, _ => f
/-- Every search that waits for an engine tries again. -/
def Fabric.placeHangs (f : Fabric) : Fabric := f.rs.hangs.foldl (fun f h => f.placeIsolated h) f

/-- A hang suspect whose engine is idle again (R373). -/
def Fabric.hangSuspect (f : Fabric) (k : Nat) (r : Run) : Fabric :=
  let h : Hang := { engine := k, sq := r.sq, seq := r.seq, inst := r.inst, slice := r.slice, nonReplay := r.nonReplay, extra := r.extra,
                    replayEngine := none, members := r.members }
  let f := (f.watchHang k).startL2 k false
  if r.extra then
    let f := f.hangRecord h 0
    match f.checkOf r with
    | some c => f.setCheck r.sq r.seq r.instOpt (some { c with placed := false, avoid := c.avoid ++ [k] })
    | none => f
  else if r.nonReplay then (f.hangRecord h 2).failRun r 6 0
  else (f.onRs (fun x => { x with hangs := x.hangs ++ [h] })).placeIsolated h

/-- The search of an isolated replay. -/
def Fabric.hangOf (f : Fabric) (r : Run) : Option Hang := f.rs.hangs.find? (fun h => h.sq == r.sq && h.seq == r.seq && h.inst == r.inst)

/-- The replay reached its limit: CONTEXT on another engine, UNDECIDED on the engine that hung (R375). -/
def Fabric.replayLimit (f : Fabric) (k : Nat) (r : Run) : Fabric :=
  match f.hangOf r, f.sq? r.sq, f.desc? r.sq r.seq with
  | some h, some x, some d =>
    let v := d.view x
    let f := f.onEngine k (fun e => { e with noPlace := false })
    let f := f.onRs (fun y => { y with hangs := y.hangs.filter (fun g => !(g.sq == r.sq && g.seq == r.seq && g.inst == r.inst)) })
    let f := f.startL2 k false
    if k = h.engine then (f.hangRecord h 2).failRun r 6 0
    else
      let f := (f.hangRecord h 1).failRun r 6 0
      let f := f.onSlice h.slice (fun y => { y with hangCtx := satAdd 16 y.hangCtx 1 })
      let w := f.belay.watch.getD h.engine {}
      let f := if w.on && w.cause == 3 && w.causes == 1 then f.unwatch h.engine else f
      let qs := f.queuesOf (fun y => y.slice == h.slice)
      let f := f.cancelCtx h.slice v.ctx qs (some (r.sq, r.seq)) none
      f.raise { source := srcRs, unit := centralUnit srcRs, cause := 0x0501, owners := [h.slice], context := v.ctx, base := some 0 }
  | _, _, _ => f

/-- The replay ended within its limit: verdict ENGINE; its result is checked as a suspect execution (R375). -/
def Fabric.replayEnded (f : Fabric) (k : Nat) (r : Run) (m : Meter) (beats : List Beat) : Fabric :=
  match f.hangOf r with
  | none => f
  | some h =>
    let f := f.onEngine k (fun e => { e with noPlace := false })
    let f := f.onRs (fun y => { y with hangs := y.hangs.filter (fun g => !(g.sq == r.sq && g.seq == r.seq && g.inst == r.inst)) })
    let f := f.hangRecord h 0
    let f := f.markRun r .checking
    let f := f.suspect r.sq r.seq r.instOpt r.slice 0 { engine := k, beats := beats, counted := m.counted }
    f.onCheck r.sq r.seq r.instOpt (fun c => { c with avoid := [h.engine] })

/-- An engine site that is SILENT is handed to the RS as for a hang: its tiles are rewound and L2 starts (R373). -/
def Fabric.silentEngine (f : Fabric) (k : Nat) : Fabric := (f.watchHang k).startL2 k false

/-! ### L3 (R382, R383) -/

/-- The fate of one uncommitted descriptor at the start of L3, but for the tiles that still run (R383). A held descriptor stays
HELD, with its status, until it commits in its place (R264). -/
def Fabric.l3Desc (f : Fabric) (q : Nat) (n : BitVec 32) : Fabric :=
  match f.sq? q, f.desc? q n with
  | some x, some d =>
    let v := d.view x
    let running := !(f.runningOn q n).isEmpty
    if d.belay == .passed || d.belay == .committing || v.kind == 8 then f
    else if d.belay == .held then
      (d.insts.filter (fun i => i.2.belay == .checking)).foldl (fun f _ => f.instQuota x.slice false)
        (f.onDesc q n (fun d => { d with
          ending := some 5, status := 5, detail := 0, check := none
          insts := d.insts.each (fun _ i => if i.belay == .checking then { i with belay := .bound, check := none } else i) }))
    else if v.nonReplay then
      if d.runNamed then f.pass q n 5 0
      else if v.cond then
        (d.insts.filter (fun i => i.2.belay == .checking)).foldl (fun f i => f.passRun q n (some i.1) 0 0 i.2.engine i.2.counted) f
      else if d.belay == .checking then f.pass q n 0 0
      else if running then f
      else if d.started then f.pass q n 5 0
      else f.onDesc q n (fun d => { d with belay := .bound })
    else
      (d.insts.filter (fun i => i.2.belay == .checking)).foldl (fun f _ => f.instQuota x.slice false)
        (f.onDesc q n (fun d => { d with
          belay := if running && d.belay == .issued then .issued else .bound
          check := none
          insts := d.insts.each (fun _ i => if i.belay == .checking then { i with belay := .bound, check := none } else i) }))
  | _, _ => f


/-- L3 of a slice begins (R382). Of its transfers that wait, those of peers to its memory windows stay, and its records and
messages. -/
def Fabric.startL3 (f : Fabric) (s : Nat) : Fabric :=
  if (f.slice s).state != .active then f
  else
    let engs := ((f.slice s).engineSet).filter (fun k => (f.slotNow s k).isSome)
    let f := f.onSlice s (fun x => { x with state := .resetting, resetFrom := f.now, l3Cnt := satAdd 16 x.l3Cnt 1, l3Engines := engs })
    let f := f.quitHangs (fun h => h.slice == s)
    let f := (f.engines.map (·.1)).foldl (fun f k => f.withdraw k (fun r => r.slice == s)) f
    let runs := f.enginesRunning (fun r => r.slice == s)
    let f := runs.foldl (fun f k => f.preempt k (match (f.engine k).running with | some r => if r.nonReplay && !r.extra then some 5 else none | none => none)) f
    let f := f.dropCau (fun j => j.slice == s)
    let f := { f with belay := { f.belay with replicas := f.belay.replicas.each (fun _ r =>
      { r with members := r.members.each (fun _ m => if m.slice == s && m.state == 2 then { m with state := 7, job := none } else m) }) } }
    let f := (f.descsOf s).foldl (fun f e => f.l3Desc e.1 e.2.seq) f
    let f := (f.queuesOf (fun x => x.slice == s)).foldl (fun f q => (f.rewindIssue q).moveIssue q) f
    let f := f.breakGroups (fun x => (x.state == 2 || x.state == 3) && gSlice x.record == s)
    let f := { f with remotes := f.remotes.filter (fun e => e.2.slice != s) }
    let f := f.onCleat (fun c => { c with regs := c.regs.each (fun r g =>
      { g with waiting := g.waiting.filter (fun u => u.slice != some s || u.window.isSome || (r == 48 && u.cls == 5)) }) })
    let f := f.onTu s (fun u => { u with tcache := [], dcache := [] })
    let f := ((f.slice s).engineSet).foldl (fun f k => f.abandonTest k) (f.stopImports (fun i => i.slice == s))
    let f := engs.foldl (fun f k => if (f.engine k).running.isNone then f.startL2 k false else f) f
    f.onSlice s (fun x => { x with l3Engines := engs.filter (fun k => (f.engine k).running.isSome) })

/-- An engine whose last tile of a resetting slice has ended takes its L2, unless another slice's slot has begun on it
(R382). -/
def Fabric.l3Engine (f : Fabric) (k : Nat) : Fabric :=
  (f.slicesIn (· == .resetting)).foldl (fun f s =>
    if (f.slice s).l3Engines.contains k && (f.engine k).running.isNone then
      let other := f.slices.any (fun e => e.1 != s && (f.slotNow e.1 k).isSome)
      let f := f.onSlice s (fun x => { x with l3Engines := x.l3Engines.filter (· != k) })
      if other then f else f.startL2 k false
    else f) f

/-- What follows when an engine falls idle. -/
def Fabric.afterIdle (f : Fabric) (k : Nat) : Fabric :=
  let e := f.engine k
  if e.state == .resetting then f.sendReset k
  else ((f.l3Engine k).testBoundary k).startNext k 9

end Sys2Proof.Machine
end

