-- ==== Sys2Proof/Machine/Restart.lean ====
section
/-! DEFINITION. The heartbeat and its watchdog (R371, R372), the control core restart (R30 to R35), and the ledger summary
that the firmware owes (R396). -/

namespace Sys2Proof.Machine

/-- RECOVERY ESCALATED of a stated class (R34, R355, R386, R402). -/
def Fabric.escalate (f : Fabric) (source base : Nat) : Fabric :=
  f.raise { source := source, unit := centralUnit source, cause := 0x0908, fabric := true, base := some base, flags := 0x10 }

/-- A pending FTAB_SWITCH that a restart meets has no effect, and the hardware answers it BUSY (R32, R33). A switch that
is already fixed for the coming boundary (R87, R89) has reached that step: it takes place, with the writes held for it
(DEDUCED). -/
def Fabric.dropSwitch (f : Fabric) : Fabric :=
  match f.frame.switch with
  | some w =>
    if f.frame.switchNext && f.boundaryFixed then f
    else
      let f := f.onFrame (fun fr => { fr with switch := none })
      match w.req with
      | some q => f.bounce q
      | none => f
  | none => f
/-- FRAME_SYNC_SET packets that await their boundary: the cores carry them out (R104), so a restart forestalls them
(R33). -/
def Fabric.dropSyncSets (f : Fabric) : Fabric :=
  f.frame.sync.waiting.foldl (fun f w => f.bounce w.req) (f.onSync (fun y => { y with waiting := [] }))

/-- A control core restart begins (R30, R31): 0 watchdog, 1 lockstep, 2 control core memory, 3 operator. -/
def Fabric.startRestart (f : Fabric) (trigger : Nat) : Fabric :=
  if !f.coresRun then f
  else
    let f := f.dropSwitch.dropSyncSets
    let f := f.onRs (fun r => { r with
      restart := some f.now, restartLoaded := false, restartLate := false, armed := false, hbAny := false
      restartCount := satAdd 16 r.restartCount 1 })
    f.raise { source := srcRs, unit := centralUnit srcCc, cause := 0x0901, syndrome := BitVec.ofNat 192 trigger }

/-- The restart's firmware is up: the replies that fell due are written, the CC_RESTART packet is answered first
(R31, R420, R430). -/
def Fabric.endRestart (f : Fabric) : Fabric :=
  if f.rs.restart.isNone then f
  else
    let q := f.rs.restartReq
    let f := f.onRs (fun r => { r with restart := none, restartReq := none })
    let f : Fabric := match q with
      | some q =>
        if f.ctl.awaiting.contains q then (f.onCtl (fun c => { c with awaiting := c.awaiting.erase q })).finishReply q (repOk) else f
      | none => f
    f.flushDue

/-- The bytes of the newest dump's ledger summary (R396), from the dump's own header, records and directory. -/
def Dump.summaryBytes (d : Dump) : List Byte :=
  let h := d.heads.getD (if d.slot then 1 else 0) []
  let code (k : Nat) : Nat := match ((h.drop (0x2000 + 16 * k)).headD 0).toNat with | 2 => 1 | 3 => 2 | 4 => 3 | _ => 0
  let status := (List.range 128).map (fun i =>
    BitVec.ofNat 8 (code (4 * i) + 4 * code (4 * i + 1) + 16 * code (4 * i + 2) + 64 * code (4 * i + 3)))
  let hist := (h.drop 0x1000).take 4096
  let used := 64 - (hist.reverse.takeWhile (· == 0)).length / 64
  let body := h.take 0xC0 ++ status ++ ((hist.drop (64 * (used - 58))).take 3712) ++ List.replicate 60 0
  body ++ leBytes 4 (crc32c body).toNat

/-- The firmware begins to write the summary that is owed (R396). -/
def Fabric.writeSummary (f : Fabric) : Fabric :=
  if f.rs.summaryDue then f.emit (.ledger 2 f.rs.dump.summaryBytes) else f

/-- An entry of the log as the flash holds it: 60 bytes of content, whose layout R365 leaves open, and their CRC-32C. -/
def LedgerEntry.bytes (e : LedgerEntry) : List Byte :=
  let body := (match e with
    | .stress t n => Config.ledgerBody 0 t n 0
    | .stamp i u t => Config.ledgerBody 1 i u.toNat t
    | .retired u => Config.ledgerBody 2 u.toNat 0 0
    | .notice p => Config.ledgerBody 3 p 0 0).take 60
  let body := body ++ List.replicate (60 - body.length) 0
  body ++ leBytes 4 (crc32c body).toNat
/-- The firmware writes the buffered entries to the flash (R366). -/
def Fabric.writeFlush (f : Fabric) : Fabric :=
  if f.ledger.flushing then f.emit (.ledger 1 (f.ledger.buffer.flatMap LedgerEntry.bytes)) else f

/-- The watchdog expires (R372). -/
def Fabric.watchdogExpire (f : Fabric) : Fabric :=
  if f.rs.armed && f.rs.restart.isNone && decide (f.rs.l4Stage < 4) then (f.advance (f.rs.hbAt + 4000000)).startRestart 0 else f

/-- The firmware takes a heartbeat (R371): the first one ends a restart or a start-up, and the firmware goes on with the
flush and the summary that are outstanding (R31). -/
def Fabric.acceptBeat (f : Fabric) (count : BitVec 32) (fw : BitVec 4) : Fabric :=
  let f := f.onRs (fun r => { r with
    hbCount := count, fwState := fw, hbAt := f.now, hbAny := true, armed := true, boot := if r.boot = .beat then .running else r.boot })
  (f.endRestart).writeFlush.writeSummary

/-- A write of IRX_HEARTBEAT by the firmware (R371, R372). Cores that are held in reset write nothing. -/
def Fabric.beat (f : Fabric) (count : BitVec 32) (fw : BitVec 4) : Fabric :=
  let r := f.rs
  if r.boot != .beat && r.boot != .running then f
  else if 4 ≤ r.l4Stage && r.l4Stage ≤ 6 then f
  else
    match r.restart with
    | some t => if r.restartLoaded && !r.restartLate && decide (f.now ≤ t + 20000000) then f.acceptBeat count fw else f
    | none =>
      if r.armed && decide (r.hbAt + 4000000 ≤ f.now) then f.watchdogExpire
      else if r.hbAny && count != r.hbCount + 1 then f.onRs (fun r => { r with badBeat := satAdd 16 r.badBeat 1 })
      else f.acceptBeat count fw

/-- The two cores disagree at a compare point (R30); an armed LOCKSTEP injection is consumed by it (R359). -/
def Fabric.lockstep (f : Fabric) : Fabric :=
  if !f.coresRun then f
  else
    let f := match f.fc.inject with | some i => if i.target = 6 then f.consume else f | none => f
    (f.raiseCentral srcCc 0x0107).startRestart 1

/-- 20 ms have passed since the trigger without a heartbeat: the restart escalates to FATAL (R34). -/
def Fabric.restartTimeout (f : Fabric) : Fabric :=
  match f.rs.restart with
  | some t =>
    if f.rs.restartLate then f
    else ((f.advance (t + 20000000)).onRs (fun r => { r with restartLate := true })).escalate srcRs 3
  | none => f

/-- CC_RESTART (R430). -/
def rowCcRestart : Row :=
  { body := fun _ q f => ((f.onRs (fun r => { r with restartReq := some q })).startRestart 3, none) }

def execHeartbeat (count : BitVec 32) (fwState : BitVec 4) (s : State) : Host.Outcome State Fault Refusal := s.run (fun f => f.beat count fwState)
def execWatchdogExpiry (s : State) : Host.Outcome State Fault Refusal := s.run (fun f => f.watchdogExpire)
def execLockstepDisagree (s : State) : Host.Outcome State Fault Refusal := s.run (fun f => f.lockstep)
def execCcMemoryError (s : State) : Host.Outcome State Fault Refusal := s.run (fun f => f.startRestart 2)
def execCcRestartTimeout (s : State) : Host.Outcome State Fault Refusal := s.run (fun f => f.restartTimeout)
def execCcRestart (p : Packet) (s : State) : Host.Outcome State Fault Refusal := s.run (control rowCcRestart p)

end Sys2Proof.Machine
end

