-- ==== Sys2Proof/Machine/Dumps.lean ====
section
/-! DEFINITION. Fault records as 64 bytes (R347), the Fid dump (R392 to R395) and the freeze (R384). -/

namespace Sys2Proof.Machine

/-! ### The record (R347) -/

/-- SLICE and SHARED of a full-resolution record. -/
def FRec.sliceByte (r : FRec) : Byte := match r.owners with | [s] => BitVec.ofNat 8 s | _ => 0x80
def FRec.shared (r : FRec) : Bool := decide (2 ≤ r.owners.length)
/-- SYNDROME as the raising rule gives it: R31 and R229 every byte, R376 the first six; all other bytes are free (R347). -/
def FRec.shownSyndrome (r : FRec) : BitVec 192 :=
  let free := Config.syndrome r.seqNo r.cause r.syndrome
  match r.cause.toNat with
  | 0x0901 => r.syndrome
  | 0x0715 => r.syndrome
  | 0x0501 => free.extractLsb' 48 144 ++ r.syndrome.extractLsb' 0 48
  | _ => free
/-- The 64 bytes of a record with the given flags, SLICE and COUNT. -/
def FRec.bytes (r : FRec) (flags slice : Byte) (count : Nat) : BitVec 512 :=
  r.shownSyndrome ++ BitVec.ofNat 16 (min count 0xFFFF) ++ BitVec.ofNat 16 r.volt ++ r.temp ++ BitVec.ofNat 16 r.sq ++ r.seq
    ++ BitVec.ofNat 16 r.context ++ (0 : Byte) ++ slice ++ r.opcode ++ r.cause ++ r.unit ++ BitVec.ofNat 64 r.time ++ r.seqNo
    ++ BitVec.ofNat 16 (r.source % 512) ++ flags ++ BitVec.ofNat 8 r.cls
/-- The full-resolution record. -/
def FRec.image (r : FRec) : BitVec 512 := r.bytes (if r.shared then r.flags ||| 0x40 else r.flags) r.sliceByte r.count

/-! ### The freeze (R384) -/

/-- No tile issues, nothing commits, Cleat grants nothing and the front end takes no doorbell. -/
def Fabric.freeze (f : Fabric) : Fabric := f.onRs (fun r => { r with frozen := true })

/-! ### A dump begins (R392, R394) -/

/-- Engines that Fid asks. -/
def Fabric.fidEngines (f : Fabric) : List Nat := f.engines.keysOf (fun _ e => e.state != .absent)
/-- Fid begins a dump: 0 L4, 1 L5, 2 DUMP_TAKE. Every engine port is asked for its regions. -/
def Fabric.startDump (f : Fabric) (trigger : Nat) (cause : Option FRec) (req : Option Req) : Fabric :=
  let f := f.onRs (fun r => { r with dump := { r.dump with taking := some trigger, req := req, cause := cause } })
  f.fidEngines.foldl (fun f k => (f.onEngine k (fun e => { e with
    regionsDue := true, regions := 0, regionCount := 0, status := 0, spPending := 0, spData := [] })).emit (.engine k .regions)) f

/-! ### A dump ends (R393, R394) -/

/-- R244: the code of a Belay state. -/
def belayCode : Belay → Nat
  | .bound => 0 | .issued => 1 | .checking => 2 | .passed => 3 | .held => 4 | .committing => 5

/-- Whether a source number names a unit that is present (R344). -/
def Fabric.sourcePresent (f : Fabric) (n : Nat) : Bool :=
  if n < 256 then (f.engine n).state != .absent
  else if n < 272 then bitAt f.units.stackPresent (n - 256)
  else if n < 304 then bitAt f.units.portPresent (n - 272)
  else decide (n ≤ 314) || n == srcFc

/-- The section of an engine: 256 bytes of header and what was sampled; the rest of the 64 KiB is zeros (R394). -/
def Fabric.engineSection (f : Fabric) (k : Nat) : List Byte :=
  let e := f.engine k
  let sq (q : Nat) : Nat := q % 65536
  let head := match e.running with
    | some r =>
      let d := f.desc? r.sq r.seq
      let ctx := match f.sq? r.sq, d with | some x, some d => (d.view x).ctx | _, _ => 0
      let st := match d with | some d => belayCode (if r.cond then (d.insts.getD r.inst {}).belay else d.belay) | none => 0
      leBytes 1 r.slice ++ leBytes 2 (sq r.sq) ++ leBytes 2 ctx ++ leBytes 4 r.seq.toNat ++ leBytes 1 st ++ leBytes 3 0 ++ leBytes 4 (f.counted k r)
    | none => leBytes 1 0x80 ++ leBytes 2 0xFFFF ++ leBytes 2 0 ++ leBytes 4 0 ++ leBytes 1 0 ++ leBytes 3 0 ++ leBytes 4 0
  let queue := (List.range 8).flatMap (fun i =>
    match e.queue[i]? with | some r => leBytes 2 (sq r.sq) ++ leBytes 2 0 ++ leBytes 4 r.seq.toNat | none => leBytes 8 0)
  leBytes 2 k ++ leBytes 1 e.regionCount ++ head ++ leBytes 12 0 ++ bytesOf e.regions ++ queue ++ bytesOf e.status ++ e.spData.flatMap bytesOf

/-- Bytes that a complete section of a source takes: an engine's is fixed by R394, no rule gives any other's. -/
def sectionLen (num n : Nat) : Nat := if n < 256 then 65792 else (Config.sectionBytes num n).length
/-- STATUS of a source in the directory (R393). -/
def Fabric.fidStatus (f : Fabric) (timeouts unreadables : List Nat) (n : Nat) : Nat :=
  if !f.sourcePresent n then 0
  else if timeouts.contains n then 3
  else if unreadables.contains n then 2
  else if n < 256 && ((f.engine n).regionsDue || (f.engine n).spPending != 0) then 4
  else 1
/-- The directory: an entry for each source, the sections one behind another. -/
def directory (status : List Nat) (num : Nat) : List (Nat × Nat × Nat) :=
  (status.zipIdx.foldl (fun (acc : List (Nat × Nat × Nat) × Nat) e =>
    let len := if e.1 = 1 ∨ e.1 = 4 then sectionLen num e.2 else 0
    (acc.1 ++ [(e.1, if len = 0 then 0 else acc.2, len)], acc.2 + len)) ([], 0x4000)).1

/-- Bytes 0x000_0000 to 0x000_3FFF of a dump slot. -/
def Fabric.dumpHead (f : Fabric) (num trigger : Nat) (cause : Option FRec) (dir : List (Nat × Nat × Nat)) : List Byte :=
  let h := leBytes 4 num ++ leBytes 1 trigger ++ leBytes 3 0 ++ leBytes 8 f.now ++ leBytes 8 f.frame.frameNum ++ leBytes 4 f.rs.l4Count ++ leBytes 32 0
  let rec64 (r : Option FRec) : List Byte := match r with | some r => bytesOf r.image | none => leBytes 64 0
  let hist := f.fc.hist.flatMap (fun r => bytesOf r.image)
  h ++ leBytes 4 (crc32c h).toNat ++ rec64 cause ++ rec64 f.fc.first ++ leBytes 3904 0
    ++ hist ++ leBytes (4096 - hist.length) 0
    ++ dir.flatMap (fun e => leBytes 1 e.1 ++ leBytes 3 0 ++ leBytes 4 e.2.1 ++ leBytes 4 e.2.2 ++ leBytes 4 0)

/-- The dump in progress is complete: it takes the slot that does not hold the newest one (R392, R393). -/
def Fabric.finishDump (f : Fabric) (timeouts unreadables : List Nat) : Fabric :=
  let d := f.rs.dump
  match d.taking with
  | none => f
  | some t =>
    let slot := if d.valid then !d.slot else false
    let at_ := if slot then 1 else 0
    let num := (d.num + 1) % 2 ^ 32
    let status := (List.range 512).map (f.fidStatus timeouts unreadables)
    let dir := directory status num
    let secs : Tab (List Byte) := (status.zipIdx.filter (fun e => e.1 == 1 || e.1 == 4)).map (fun e =>
      (at_ * 512 + e.2, if e.2 < 256 then f.engineSection e.2 else Config.sectionBytes num e.2))
    let new : Dump :=
      { num := num, timeouts := (status.filter (· == 3)).length, unreadables := (status.filter (· == 2)).length, summary := false,
        slot := slot, valid := true, taking := none, req := none, cause := none,
        heads := d.heads.put at_ (f.dumpHead num t d.cause dir),
        sections := secs.foldl (fun l e => l.put e.1 e.2) (d.sections.filter (fun e => e.1 / 512 != at_)) }
    let f := f.onRs (fun r => { r with dump := new, summaryDue := r.summaryDue || t != 2 })
    { f with engines := f.engines.each (fun _ e => { e with regionsDue := false, spPending := 0, spData := [] }) }

/-! ### DUMP_TAKE and DUMP_READ (R395, R406, R430) -/

/-- DUMP_TAKE: refused while another dump is taken. -/
def rowDumpTake : Row :=
  { body := fun _ q f => if f.rs.dump.taking.isSome then (f, some (rep stState)) else (f.startDump 2 none (some q), none) }

/-- A byte of a dump slot: the head, or the section that the directory places there; `none` where no rule says what the
slot holds. -/
def Dump.byte (d : Dump) (slot off : Nat) : Option Byte :=
  let h := d.heads.getD slot []
  if h.isEmpty then none
  else if off < 0x4000 then some (h.getD off 0)
  else
    let entry (k : Nat) : Nat × Nat := (leNat ((h.drop (0x2000 + 16 * k + 4)).take 4), leNat ((h.drop (0x2000 + 16 * k + 8)).take 4))
    match (List.range 512).find? (fun k => let e := entry k; decide (e.1 ≤ off) && decide (off < e.1 + e.2)) with
    | some k => some ((d.sections.getD (slot * 512 + k) []).getD (off - (entry k).1) 0)
    | none => none

/-- An open chip-scope session with MEM_READ (R395). -/
def Fabric.memReadOpen (f : Fabric) : Bool := f.keys.dbg.any (fun d => d.2.chip && d.2.access % 2 == 1)

/-- DUMP_READ: the reply follows the copy (R395, R406). -/
def rowDumpRead : Row :=
  { params := [(0x18, 1), (0x1C, 4), (0x20, 8), (0x28, 8)],
    range := fun _ p => decide (pfield p 0x18 1 ≤ 1) && decide (pfield p 0x1C 4 ≤ 2 ^ 24)
      && decide (pfield p 0x20 8 + pfield p 0x1C 4 ≤ 2 ^ 25),
    body := fun p q f =>
      if !f.memReadOpen then (f, some (rep stState))
      else
        let n := pfield p 0x1C 4
        let free := f.drawBytes n
        let bytes := (List.range n).zipWith (fun i b => (f.rs.dump.byte (pfield p 0x18 1) (pfield p 0x20 8 + i)).getD b) free.1
        (free.2.hostAnswer none n (.dumpCopy (pfield p 0x28 8) bytes) q, none) }

def execDumpTake (p : Packet) (s : State) : Host.Outcome State Fault Refusal := s.run (control rowDumpTake p)
def execDumpRead (p : Packet) (s : State) : Host.Outcome State Fault Refusal := s.run (control rowDumpRead p)

/-- The dump sections of a removed slice's engines are overwritten in both slots (R336). -/
def Fabric.wipeDumps (f : Fabric) (s : Nat) : Fabric :=
  let engs := (f.slice s).engines
  f.onRs (fun r => { r with dump := { r.dump with sections := r.dump.sections.each (fun k l => if engs.contains (k % 512) then [] else l) } })

/-! ### A power cycle begins (R401 step 2) -/

/-- The chip is frozen and Fid dumps; the cause is the TERMINAL record, if one asked. -/
def Fabric.beginL5 (f : Fabric) (cause : Option FRec) : Fabric :=
  let f := f.onRs (fun r => { r with l5Step := 2, l5Drain := none, level := 5 })
  (f.freeze).startDump 1 cause none

/-- Every queue of every slice has ACCEPTED equal to COMMIT: the drain of POWER_CYCLE is over (R401 step 1). -/
def Fabric.settleDrain (f : Fabric) : Fabric :=
  if f.rs.l5Drain.isSome && f.sqs.all (fun e => e.2.accepted == e.2.commit) then f.beginL5 none else f

/-! ### VF quiesce (R397) -/

/-- Descriptors of a function's queues that are issued, checked or committing. -/
def Fabric.stillIssued (f : Fabric) (n : Nat) : Nat :=
  ((f.sqs.filter (fun e => e.2.fn == n)).map (fun e => (e.2.descs.filter (fun d =>
    d.belay == .issued || d.belay == .checking || d.belay == .committing
      || d.insts.any (fun i => i.2.belay == .issued || i.2.belay == .checking))).length)).sum
/-- Everything of the function is held, or passed behind a held predecessor. -/
def Fabric.quiesced (f : Fabric) (n : Nat) : Bool :=
  f.stillIssued n == 0
    && f.sqs.all (fun e => e.2.fn != n || (match e.2.descs with | d :: _ => d.belay != .passed | [] => true))
/-- A quiesce that has come to its end is answered, once (R397). -/
def Fabric.settleQuiesce (f : Fabric) : Fabric :=
  (f.fns.keysOf (fun _ x => x.resetState == 1)).foldl (fun f n =>
    if f.quiesced n then
      let q := (f.fn n).quiesceReq
      (f.onFn n (fun x => { x with resetState := 2, quiesceReq := none })).replyOpt q (repOk)
    else f) f

end Sys2Proof.Machine
end

