-- ==== Sys2Proof/Machine/Pipeline.lean ====
section
/-! DEFINITION. The life of a tile (R22): descriptor read, binding, count read, placement and forming, the ends
that an engine reports, budget and hang limits, extra runs, commit, and address resolution. -/

namespace Sys2Proof.Machine

/-! ### Replica sets (R269 to R273) -/

def Fabric.replica (f : Fabric) (n : Nat) : Replica := f.belay.replicas.getD n {}
def Fabric.onReplica (f : Fabric) (n : Nat) (g : Replica → Replica) : Fabric :=
  { f with belay := { f.belay with replicas := f.belay.replicas.upd n {} g } }
def Fabric.onMember (f : Fabric) (n m : Nat) (g : Member → Member) : Fabric :=
  f.onReplica n (fun r => { r with members := r.members.onKey m g })
/-- MEMBER_STATE of a set (R277). -/
def Replica.states (r : Replica) : Nat := (r.members.map (fun m => m.2.state * 16 ^ m.1)).sum

/-- A member is expelled: its slice takes a CONTAINED fault (R272). -/
def Fabric.expel (f : Fabric) (n m : Nat) : Fabric :=
  let x := (f.replica n).members.getD m {}
  let f := match x.job with | some j => f.dropCau (fun k => k.id == j) | none => f
  (f.onMember n m (fun x => { x with state := 6, job := none })).raiseCentral srcBelay 0x0403 [x.slice] (syn3 n m 0)

/-- A check ends when its last job has ended: majority and odd members (R271), expulsions (R272), the reply. -/
def Fabric.settleReplica (f : Fabric) (n : Nat) : Fabric :=
  let r := f.replica n
  if r.result != 1 || r.members.any (fun m => m.2.job.isSome) then f
  else
    let good := r.members.filter (fun m => m.2.state == 2)
    let total := good.length + (r.members.filter (fun m => m.2.state == 5)).length
    let size (d : BitVec 384) : Nat := (good.filter (fun m => m.2.digest == d)).length
    let major := (good.find? (fun m => decide (total < 2 * size m.2.digest))).map (fun m => m.2.digest)
    let f := f.onReplica n (fun r => { r with
      result := if major.isSome then 2 else 3, req := none
      members := r.members.each (fun _ m => if m.state = 2 then { m with state := if major = some m.digest then 3 else 4 } else m) })
    let f := if major.isNone then f.raiseCentral srcBelay 0x0404 [] (BitVec.ofNat 192 n)
      else if r.autoExpel then
        ((f.replica n).members.keysOf (fun _ m => m.state == 4 || m.state == 5)).foldl (fun f m => f.expel n m) f
      else f
    f.replyOpt r.req (repOk [(0x20, 1, (f.replica n).result), (0x24, 4, (f.replica n).states)])
def Fabric.settleReplicas (f : Fabric) : Fabric := (f.belay.replicas.keysOf (fun _ r => r.result == 1)).foldl (fun f n => f.settleReplica n) f

/-- Stale descriptors whose runs have ended are bound again (R24, R184). -/
def Fabric.settleRebind (f : Fabric) : Fabric :=
  { f with sqs := f.sqs.each (fun _ x => { x with descs := x.descs.map (fun d =>
      if d.stale && d.stage == .bound && d.belay == .bound && d.insts.all (fun i => i.2.belay == .bound || i.2.belay == .passed)
      then { d with stage := .unbound } else d) }) }
/-- Conditional descriptors whose outcome is known end (R110). -/
def Fabric.settleConds (f : Fabric) : Fabric :=
  f.sqs.foldl (fun f e => e.2.descs.foldl (fun f d => if (d.view e.2).cond then f.settleCond e.1 d.seq else f) f) f
/-- Cancellations whose scope has its records are answered (R161). -/
def Fabric.settleAllCancels (f : Fabric) : Fabric := f.each (f.sqs.keysOf (fun _ x => !x.cancels.isEmpty)) (fun q f => f.settleCancels q)

/-- What every change of the queues may complete: conditional descriptors, faults with nothing parked on them, gathers that
look ahead, the slack of a slice that is armed no longer, cancellations, steps that went stale or have ended, groups that are being
destroyed, checks of replica sets, an import that went stale, quiesces, and the drain for a power cycle. -/
def Fabric.settle (f : Fabric) : Fabric :=
  f.settleRebind.settleConds.settleFaults.settleRows.settleAllCancels.settleSlack.settleStale.settleSteps.settleGroups.settleReplicas.settleImports.settleQuiesce.settleDrain

/-! ### Descriptor read and form check (R23, R151) -/

/-- Ring address of a descriptor. -/
def Sq.slotKey (x : Sq) (n : BitVec 32) : Nat :=
  devKey x.ringStack (x.ringBase + n.toNat % 2 ^ x.ringLog2 * descBytes x.gen)

/-- A cancelled context covers a descriptor that was accepted at or before the cancellation (R161). -/
def Sq.cancelled (x : Sq) (ctx : Nat) (n : BitVec 32) : Bool := x.scopes.any (fun s => s.1 == ctx && decide ((n - s.2).toInt < 0))

/-- Ring entries of a slice are read and bound while it is ACTIVE: what is accepted during an L3 is held until then (R142).
In the reinstatement of an L4 the descriptors of the slices that come back are read as well (R387 step 5). -/
def Fabric.reads (f : Fabric) (s : Nat) : Bool :=
  if f.rs.l4Stage = 0 then f.isActive s else decide (9 ≤ f.rs.l4Stage) && (f.isActive s || (f.slice s).state == .resetting)
/-- The ring entry of a queue's first accepted descriptor arrives. An entry that cannot be read of a descriptor that
SQ_DESTROY has ended already completes CANCELLED: the spec does not order that before the read's ABORTED_INPUT
(DESIGN CHOICE). -/
def Fabric.readDesc (f : Fabric) (q : Nat) (readable : Bool) : Fabric :=
  match f.sq? q with
  | none => f
  | some x =>
    match x.descs.find? (fun d => d.stage == .accepted && d.belay == .bound) with
    | none => f
    | some d =>
      if !f.reads x.slice then f
      else
      let f := f.offer x.ringStack { slice := some x.slice, cls := 5, charge := 256, line := x.ringBase }
      if !readable then
        let d0 := { d with noContext := true }
        let f := f.onDesc q d.seq (fun d => { d with noContext := true })
        let f := f.raise (descRec q x d0 srcQm (centralUnit srcQm) 0x070F 0)
        f.pass q d.seq (d.ending.getD 3) (if d.ending.isSome then 0 else 15)
      else
        let raw := ofBytes 512 (f.readKeyed (f.slotOfSel x.slice 0) (x.slotKey d.seq) (descBytes x.gen))
        let v := viewOf x raw
        let d1 := { d with raw := raw, stage := .unbound }
        let f := f.onDesc q d.seq (fun d => { d with raw := raw, stage := .unbound })
        if x.cancelled v.ctx d.seq then
          let f := f.pass q d.seq 2 0
          match x.group with
          | some g => (f.onGroup g (fun y => { y with cancelSteps := y.cancelSteps ++ [(d.seq - y.base).toNat % 65536] })).skipSteps g 64
          | none => f
        else if d.ending.isSome then f.pass q d.seq (d.ending.getD 2) 0
        else if d.begun && v.nonReplay then f.pass q d.seq 5 0
        else
          match x.group with
          | some g =>
            if (f.group g).state == 4 then f.pass q d.seq 8 0
            else (match f.formCheck x d1 with | some n => (f.formFail q x d1 n).skipSteps g 64 | none => f)
          | none => match f.formCheck x d1 with | some n => f.formFail q x d1 n | none => f

def execDescriptorRead (q : Nat) (readable : Bool) (s : State) : Host.Outcome State Fault Refusal :=
  s.run (fun f => (f.readDesc q readable).settle)

/-! ### Binding (R173, R179) -/

/-- A table of a tag is lost: the subtree of the level that holds a page is discarded (R173). Levels 1 to 4 are the
upper, middle and leaf tables below the root, 0 the root. -/
def Fabric.loseTable (f : Fabric) (s tagNo page level : Nat) : Fabric :=
  let span := if level = 0 then 2 ^ 32 else if level = 1 then 2 ^ 23 else if level = 2 then 2 ^ 14 else 32
  let first := page / span * span
  match f.tag? tagNo with
  | none => f
  | some t =>
    let f := f.bumpEpoch s tagNo
    let f := f.onTag tagNo (fun t =>
      { t with leaves := t.leaves.filter (fun l => decide (l.1 < first) || decide (first + span ≤ l.1)), lost := t.lost ++ [(first, span)] })
    let f := f.settleTables tagNo
    f.raise { source := srcTu, unit := centralUnit srcTu, cause := 0x0605, owners := [s], fns := [t.fn],
              syndrome := syn3 tagNo (first * 65536) (span * 65536) }

/-- The TU binds a descriptor; a table read on the way may fail, at the level of the table that holds a page of the tag. -/
def Fabric.bindNow (f : Fabric) (q : Nat) (n : BitVec 32) (tableError : Option (Nat × Nat)) : Fabric :=
  match f.sq? q, f.desc? q n with
  | some x, some d =>
    if d.stage != .unbound || d.belay != .bound || !f.reads x.slice then f
    else
      let v := d.view x
      let f := match tableError with
        | some e => f.loseTable x.slice v.tag e.1 e.2
        | none => f
      f.bindDesc q n
  | _, _ => f

def execDescriptorBind (q : Nat) (n : BitVec 32) (tableError : Option (Nat × Nat)) (s : State) : Host.Outcome State Fault Refusal :=
  s.run (fun f => ((f.bindNow q n tableError).injectSram 0 |>.injectSram 1).settle)

/-! ### Count read (R108 to R110) -/

/-- R110: the largest count of a conditional descriptor. -/
def View.countMax (v : View) : Nat := if v.kind = 1 then v.maxInst else v.maxInst * v.rowsPer
/-- R109: instances of a count. -/
def View.instances (v : View) (c : Nat) : Nat := if v.kind = 1 then c else ceilDiv c v.rowsPer

/-- The count record arrives: the word in device memory, or the given word where the record lies elsewhere. -/
def Fabric.takeCount (f : Fabric) (q : Nat) (n : BitVec 32) (data : Option (BitVec 32)) : Fabric :=
  match f.sq? q, f.desc? q n with
  | some x, some d =>
    let v := d.view x
    if !v.cond || d.stage != .bound || d.belay != .bound || d.readyAt.isNone || d.count.isSome || d.ending.isSome || !f.isActive x.slice then f
    else
      match data with
      | none => f.pass q n 3 0
      | some w =>
        let ext := d.extents.getD 3 []
        let c := if ext.all (fun e => e.target == 0) then leNat (f.extentBytes x.slice ext (4 * v.countIndex) 4) else w.toNat
        if c = 0 then (f.onDesc q n (fun d => { d with count := some 0 })).pass q n 0 0
        else if v.countMax < c then
          (f.raise (descRec q x d srcQm (centralUnit srcQm) 0x0711 (BitVec.ofNat 192 c))).pass q n 3 0
        else
          let k := v.instances c
          let f := f.onDesc q n (fun d => { d with count := some c, nInst := k, insts := (List.range k).map (fun i => (i, {})) })
          (f.runAhead q n).settleCond q n
  | _, _ => f

def execCountRead (q : Nat) (n : BitVec 32) (data : Option (BitVec 32)) (s : State) : Host.Outcome State Fault Refusal :=
  s.run (fun f => f.takeCount q n data)

/-! ### Ready tiles (R90) -/

/-- A ready tile of a queue: a plain descriptor, or an instance of a conditional one. -/
structure Ready where
  q : Nat
  seq : BitVec 32
  inst : Option Nat
deriving DecidableEq, Repr

/-- The ready tiles of a queue in descriptor order. -/
def readiesOf (q : Nat) (x : Sq) : List Ready :=
  if x.state == 3 then [] else x.descs.filterMap (fun d =>
    let v := d.view x
    if d.stage != .bound || d.belay != .bound || d.readyAt.isNone || d.stale || d.ending.isSome then none
    else if v.kind = 0 || v.kind = 3 then some { q := q, seq := d.seq, inst := none }
    else if v.cond && d.count.isSome && d.insts.all (fun i => i.2.failed.isNone) then
      (d.insts.find? (fun i => i.2.belay == .bound && i.2.parkedOn.isNone && (v.kind != 2 || i.2.rowsReady))).map
        (fun i => { q := q, seq := d.seq, inst := some i.1 })
    else none)
/-- Context of a ready tile. -/
def Ready.ctx (r : Ready) (x : Sq) : Nat := match x.desc? r.seq with | some d => (d.view x).ctx | none => 0
/-- The tile of a queue that is forming: the first ready one of its context that forms (R121). -/
def formingOf (q : Nat) (x : Sq) : Option Ready :=
  let l := readiesOf q x
  l.find? (fun r => (match x.desc? r.seq with | some d => (d.view x).form != 0 | none => false)
    && l.find? (fun y => y.ctx x == r.ctx x) == some r)

/-- The list rotated to begin behind the last one served. -/
def after (last : Option Nat) (l : List Nat) : List Nat :=
  match last with
  | some k => l.filter (fun c => decide (k < c)) ++ l.filter (fun c => decide (c ≤ k))
  | none => l

/-- Ready tiles of a slice in the order of service: contexts in turn, then queues in turn, then descriptors. -/
def Fabric.readyList (f : Fabric) (s : Nat) : List (Nat × Ready) :=
  let x := f.slice s
  let all := f.sqs.flatMap (fun e => if e.2.slice = s then (readiesOf e.1 e.2).map (fun r => (r.ctx e.2, r)) else [])
  let ctxs := sortBy id ((all.map (·.1)).eraseDups)
  (after x.lastCtx ctxs).flatMap (fun c =>
    let mine := all.filter (fun e => e.1 == c)
    (after (x.lastQueue.find c) (mine.map (fun e => e.2.q))).filterMap (fun q => mine.find? (fun e => e.2.q == q)))

/-! ### Forming (R120, R121) -/

/-- A descriptor may join a formed tile that begins with another (R120). -/
def mayJoin (x : Sq) (lead d : Desc) : Bool :=
  let a := lead.view x
  let b := d.view x
  a.form == b.form && a.formKey == b.formKey && a.ctx == b.ctx && !b.cond && b.kind != 4
    && (a.form != 1 || (b.kind == 0 && a.range 2 == b.range 2 && a.sparse == b.sparse))
/-- Ready to be a member. -/
def isMemberReady (d : Desc) : Bool := d.stage == .bound && d.belay == .bound && d.readyAt.isSome && !d.stale && d.ending.isNone
/-- What a member adds to its tile, and the tile's limit. -/
def formLoad (v : View) : Nat := if v.form = 1 then v.formRows else v.arrays
def formLimit (form : Nat) : Nat := if form = 1 then 128 else 4

/-- Members gathered behind a leader, and whether forming has ended by itself (R121, events 1 and 2). -/
def gather (x : Sq) (lead : Desc) : List Desc → Nat → Nat → List (BitVec 32) × Bool
  | [], load, _ => ([], decide (formLimit (lead.view x).form ≤ load))
  | d :: t, load, n =>
    if formLimit (lead.view x).form ≤ load then ([], true)
    else if d.stage == .accepted then ([], false)
    else if !mayJoin x lead d || decide (formLimit (lead.view x).form < load + formLoad (d.view x)) || decide (32 ≤ n) then ([], true)
    else if d.belay != .bound then ([], true)
    else if !isMemberReady d then ([], false)
    else
      let r := gather x lead t (load + formLoad (d.view x)) (n + 1)
      (d.seq :: r.1, r.2)

/-- The further members that a leader has gathered, and whether forming has ended by itself. -/
def gathered (x : Sq) (d : Desc) : List (BitVec 32) × Bool :=
  gather x d ((x.descs.dropWhile (fun e => e.seq != d.seq)).drop 1) (formLoad (d.view x)) 1
/-- Budget time of a tile, the largest of its descriptors, and whether it is non-pre-emptible (R122). -/
def Fabric.tileCost (f : Fabric) (x : Sq) (l : List (BitVec 32)) : Nat × Bool :=
  let vs := (l.filterMap x.desc?).map (fun e => e.view x)
  ((vs.map (fun v => budgetTime v.budget f.mhz)).foldl max 0, vs.any (·.fixed))
/-- The latest moment at which the tile that is forming still fits an engine that can take it now (R121 event 4); none while
no engine can. -/
def Fabric.fitDeadline (f : Fabric) (q : Nat) (x : Sq) (d : Desc) (l : List (BitVec 32)) : Option Nat :=
  let c := f.tileCost x l
  (((f.slice x.slice).engineSet.filter (fun k => f.usable x.slice k && f.runsOn q l k && decide ((f.engine k).queue.length < 8))).filterMap
    (fun k => f.lastFit x.slice k c.1 c.2 (d.view x).cond)).max?
/-- The formed tile that a ready descriptor leads: its further members, and whether it issues now: forming has ended by
itself, by FORM_WAIT_NS, or at the latest moment of fit (R121). -/
def Fabric.formed (f : Fabric) (q : Nat) (x : Sq) (d : Desc) (force : Bool) : List (BitVec 32) × Bool :=
  if (d.view x).form = 0 then ([], true)
  else
    let r := gathered x d
    (r.1, force || r.2 || decide ((d.readyAt.getD 0) + x.formWait ≤ f.now) || f.fitDeadline q x d (d.seq :: r.1) == some f.now)

/-! ### Placement (R91, R255) -/

/-- The run of a ready tile. -/
def Fabric.runOf (f : Fabric) (x : Sq) (d : Desc) (r : Ready) (members : List (BitVec 32)) : Run :=
  let v := d.view x
  let all := d :: members.filterMap x.desc?
  let c := f.tileCost x (r.seq :: members)
  { sq := r.q, seq := r.seq, inst := r.inst.getD 0, members := members, kind := .first, slice := x.slice,
    budgetNs := c.1, nonPreempt := c.2, nonReplay := all.any (fun e => (e.view x).nonReplay), cond := v.cond }

/-- Engines that qualify for a run, with the way it fits (R91, R118). -/
def Fabric.qualify (f : Fabric) (run : Run) : List (Nat × Fit) :=
  ((f.slice run.slice).engineSet).filterMap (fun k =>
    let e := f.engine k
    if f.usable run.slice k && f.runsOn run.sq run.seqs k && decide (e.queue.length < 8) then
      match f.fits run.slice k (f.work k) run.budgetNs run.nonPreempt run.cond with
      | .no => none
      | w => some (k, w)
    else none)

/-- The engine of R91: the lowest-numbered free one, else the one with the fewest queued tiles. -/
def Fabric.pickEngine (f : Fabric) (l : List (Nat × Fit)) : Option (Nat × Fit) :=
  let l := sortBy (fun e => e.1) l
  (l.find? (fun e => (f.engine e.1).running.isNone && (f.engine e.1).queue.isEmpty)).or (minBy (fun e => (f.engine e.1).queue.length) l)

/-- Issue a run on an engine (R22 step 4, R91). -/
def Fabric.issueOn (f : Fabric) (r : Ready) (ctx : Nat) (run : Run) (k : Nat) (w : Fit) : Fabric :=
  let run := run.against w
  let f := f.markRun run .issued
  let f := if run.cond then
      (f.instQuota run.slice true).onDesc r.q r.seq (fun d => { d with insts := d.insts.onKey run.inst (fun i => { i with started := true, engine := k }) })
    else
      let f := f.onDesc r.q r.seq (fun d => { d with members := run.members })
      f
  let f := f.onSlice run.slice (fun x => { x with lastCtx := some ctx, lastQueue := x.lastQueue.put ctx r.q })
  let f := (f.moveIssue r.q).enqueue k run false
  if run.cond then f.runAhead r.q r.seq else f

/-- Try to place one ready tile. -/
def Fabric.tryPlace (f : Fabric) (s : Nat) (c : Nat × Ready) (force : Bool) : Option Fabric :=
  match f.sq? c.2.q, f.desc? c.2.q c.2.seq with
  | some x, some d =>
    let fm := f.formed c.2.q x d force
    let sl := f.slice s
    if !fm.2 || (c.2.inst.isSome && decide (recTiles sl.record ≤ sl.uncommitted)) then none
    else
      let run := f.runOf x d c.2 fm.1
      let l := f.qualify run
      let calm := l.filter (fun e => !f.isWatched e.1)
      let l := if run.nonReplay && !calm.isEmpty then calm else l
      (f.pickEngine l).map (fun e => f.issueOn c.2 c.1 run e.1 e.2)
  | _, _ => none

/-- Place the next ready tile of a slice. -/
def Fabric.placeNext (f : Fabric) (s : Nat) : Fabric :=
  if !f.isActive s || f.rs.frozen then f else ((f.readyList s).findSome? (fun c => f.tryPlace s c false)).getD f

def execTilePlace (slice : Nat) (s : State) : Host.Outcome State Fault Refusal :=
  s.run (fun f => ((f.placeNext slice).injectSram 2).placeHangs.settleSlack)

/-- Forming of a queue's tile ends; it issues with the members it has. -/
def Fabric.formEnd (f : Fabric) (q : Nat) : Fabric :=
  match f.sq? q with
  | none => f
  | some x =>
    if !f.isActive x.slice || f.rs.frozen then f
    else
      match formingOf q x with
      | some r => (match x.desc? r.seq with
          | some d => if (d.view x).form = 0 then f else (f.tryPlace x.slice ((d.view x).ctx, r) true).getD f
          | none => f)
      | none => f
/-- Fabric time at which FORM_WAIT_NS of a queue's forming tile ends. -/
def Fabric.formDeadline (f : Fabric) (q : Nat) : Nat :=
  match f.sq? q with
  | some x => (match (formingOf q x).bind (fun r => x.desc? r.seq) with | some d => (d.readyAt.getD 0) + x.formWait | none => 0)
  | none => 0

def execFormWaitExpiry (q : Nat) (s : State) : Host.Outcome State Fault Refusal :=
  s.run (fun f => (f.advance (f.formDeadline q)).formEnd q)
/-- The latest moment at which the forming tile of a queue still fits (R121 event 4): fabric time reaches it, and the tile
issues. Without an engine that can take it there is no such moment. -/
def Fabric.fitEnd (f : Fabric) (q : Nat) : Fabric :=
  match f.sq? q with
  | none => f
  | some x =>
    match (formingOf q x).bind (fun r => x.desc? r.seq) with
    | none => f
    | some d =>
      match f.fitDeadline q x d (d.seq :: (gathered x d).1) with
      | some t => (f.advance t).formEnd q
      | none => f
def execFormingFitDeadline (q : Nat) (s : State) : Host.Outcome State Fault Refusal := s.run (fun f => f.fitEnd q)

/-! ### Ends of runs -/

/-- Add a run's times to the drag figures of its slice on an engine (R214), and to COND_NS (R116). -/
def Fabric.countRun (f : Fabric) (k : Nat) (r : Run) (m : Meter) (beats : List Beat) : Fabric :=
  let ns (c : Nat) : Nat := c * 1000 / f.mhz
  let sum (g : Beat → Nat) : Nat := ns ((beats.map g).sum)
  f.onSlice r.slice (fun x => { x with
    condNs := if r.cond then x.condNs + m.counted else x.condNs
    drags := x.drags.upd k {} (fun d => { d with
      act := d.act + sum (·.active), busy := d.busy + m.counted + m.stall + m.stretch, memNs := d.memNs + sum (·.memWait),
      linkNs := d.linkNs + sum (·.linkWait), stallNs := d.stallNs + m.stall, stretchNs := d.stretchNs + m.stretch }) })

/-- The engine is idle: fabric time stands at the run's end, and the run leaves it. -/
def Fabric.endRun (f : Fabric) (k : Nat) (r : Run) (m : Meter) (beats : List Beat) : Fabric :=
  let f := f.advance (r.startAt + m.counted + m.stall + m.stretch)
  let f := f.onEngine k (fun e => { e with running := none, aborting := false })
  (f.countRun k r m beats).settleLate k r.slice m

/-- A port protocol error of an engine (R456, R377): a CONTAINED record from its site, and L2. -/
def Fabric.portError (f : Fabric) (k : Nat) : Fabric :=
  (f.raise { source := k, unit := unitId 0 0 k, cause := 0x0104, owners := f.engineOwners k }).startL2 k false

/-- What has to follow every end: searches and extra runs that lost their engine, groups, idle engines. -/
def Fabric.afterEnd (f : Fabric) (k : Nat) : Fabric := (f.settleHangs.placeHangs.afterIdle k).settle

/-- A first run may keep its result: its slice is ACTIVE and nothing has ended it (R161, R317, R383). -/
def Fabric.keeps (f : Fabric) (r : Run) : Bool :=
  f.isActive r.slice && r.onEnd.isNone
    && !r.seqs.any (fun n => match f.desc? r.sq n with | some d => d.ending.isSome && (d.ending != some 2 || !r.nonPreempt) | none => true)

/-- R267: range 0 of a CHKROW tile is too short for its checksum row. -/
def Fabric.rowShort (f : Fabric) (r : Run) (beats : List Beat) : Bool :=
  match f.sq? r.sq, f.desc? r.sq r.seq with
  | some x, some d =>
    let v := d.view x
    v.chkrow && beats.any (fun b => shapeProj b.shape && decide (v.len 0 < elemBytes (shapeFmtC b.shape) ((shapeM b.shape + 1) * shapeN b.shape)))
  | _, _ => false

/-- END 0 beats of a run reach Belay (R249, R257, R375). A void extra run is placed again (R265). -/
def Fabric.takeDigest (f : Fabric) (k : Nat) (r : Run) (m : Meter) (beats : List Beat) : Fabric :=
  match r.kind with
  | .isolated => if (f.hangOf r).isSome && f.isActive r.slice then f.replayEnded k r m beats else f
  | .first =>
    if r.hang then f.hangSuspect k r
    else if !f.keeps r then f.cutRun r
    else if f.rowShort r beats then f.failRun r 3 8
    else f.firstDigest k r m beats
  | _ => if r.hang then f.hangSuspect k r else if r.void then f.backToReady r else if (f.checkOf r).isSome && f.isActive r.slice then f.extraDigest k r m beats else f

/-- A report that answers no command of the fabric (R463). -/
def Fabric.strayBeat (f : Fabric) (k : Nat) : Fabric := if (f.engine k).state == .inService then f.portError k else f
/-- A shape word without a reserved field or format (R231, R463). -/
def shapeOk (w : Word) : Bool := w.extractLsb' 0 8 == 0 && shapeFmtA w != 15 && shapeFmtB w != 15 && shapeFmtC w != 15

/-- A tile ends with END 0: one beat for each member, in member order. -/
def Fabric.completeTile (f : Fabric) (k : Nat) (m : Meter) (beats : List Beat) : Fabric :=
  match (f.engine k).running with
  | none => f.strayBeat k
  | some r =>
    let beats := sortBy (·.member) beats
    if (beats.map (·.member)) ≠ List.range r.seqs.length || !beats.all (fun b => shapeOk b.shape) then f.portError k
    else
      let f := f.endRun k r m beats
      let f := if beats.any (fun b => b.ce != 0) then
          f.raise (match f.sq? r.sq, f.desc? r.sq r.seq with
            | some x, some d => { descRec r.sq x d k (unitId 0 0 k) 0x0101 0 with fns := [] }
            | _, _ => { source := k, unit := unitId 0 0 k, cause := 0x0101, owners := [r.slice] }) else f
      (f.takeDigest k r m beats).afterEnd k

def execTileComplete (k : Nat) (m : Meter) (beats : List Beat) (s : State) : Host.Outcome State Fault Refusal :=
  s.run (fun f => f.completeTile k m beats)

/-- END 1: the run was cut off (R95, R96, R98, R374). -/
def Fabric.abortDone (f : Fabric) (k : Nat) (m : Meter) : Fabric :=
  match (f.engine k).running with
  | none => f.strayBeat k
  | some r =>
    if !(f.engine k).aborting then f.strayBeat k
    else
      let f := f.endRun k r m []
      let f := if r.kind == .isolated then
          (if r.hang then f.replayLimit k r
            else if (f.hangOf r).isSome && r.onEnd.isSome then
              ((f.dropHang r.sq r.seq).onEngine k (fun e => { e with noPlace := false })).failRun r (r.onEnd.getD 3) 0
            else f)
        else if r.hang then f.hangSuspect k r else f.cutRun r
      f.afterEnd k

def execEngineAbortDone (k : Nat) (m : Meter) (s : State) : Host.Outcome State Fault Refusal := s.run (fun f => f.abortDone k m)

/-- END 2 and END 3: the descriptor completes ABORTED_INPUT in whatever run it was (R265, R374, R229). -/
def Fabric.inputAbort (f : Fabric) (k : Nat) (m : Meter) (exact : Bool) : Fabric :=
  match (f.engine k).running with
  | none => f.strayBeat k
  | some r =>
    let f := f.endRun k r m []
    let f := match exact, f.sq? r.sq, f.desc? r.sq r.seq with
      | true, some x, some d => f.raise (descRec r.sq x d srcQm (centralUnit srcQm) 0x0715 0)
      | _, _, _ => f
    let f :=
      if r.kind == .isolated then (if (f.hangOf r).isSome then ((f.dropHang r.sq r.seq).onEngine k (fun e => { e with noPlace := false })).failRun r 3 0 else f)
      else if r.kind == .first then (if f.keeps r then f.failRun r 3 0 else f.cutRun r)
      else if (f.checkOf r).isSome && f.isActive r.slice then f.failRun r 3 0
      else f
    f.afterEnd k

def execOperandUnreadable (k : Nat) (m : Meter) (s : State) : Host.Outcome State Fault Refusal := s.run (fun f => f.inputAbort k m false)
def execExactRangeExceeded (k : Nat) (m : Meter) (s : State) : Host.Outcome State Fault Refusal := s.run (fun f => f.inputAbort k m true)

/-! ### Limits in counted time (R95, R98, R374)

`paused` is the stall and stretch time of the run so far, which moves the limit (R72). -/

/-- A pre-empted tile's counted time reaches its budget. -/
def Fabric.budgetEnd (f : Fabric) (k paused : Nat) : Fabric :=
  match (f.engine k).running with
  | some r => if r.preempt && !r.nonPreempt then (f.advance (r.startAt + r.budgetNs + paused)).abortRun k else f
  | none => f
def execBudgetExpiry (t : TileLimit) (s : State) : Host.Outcome State Fault Refusal := s.run (fun f => f.budgetEnd t.engine t.paused)

/-- Counted time reaches twice the budget: a hang suspect, unless an L2 already covers the engine (R98, R405). -/
def Fabric.hangEnd (f : Fabric) (k paused : Nat) : Fabric :=
  match (f.engine k).running with
  | some r =>
    if r.kind == .isolated then f
    else
      let f := f.advance (r.startAt + 2 * r.budgetNs + paused)
      let f := f.onEngine k (fun e => { e with running := some (if e.state == .resetting then { r with onEnd := if r.nonReplay then some 6 else r.onEnd } else { r with hang := true }) })
      f.abortRun k
  | none => f
def execHangLimit (t : TileLimit) (s : State) : Host.Outcome State Fault Refusal := s.run (fun f => f.hangEnd t.engine t.paused)

/-- An isolated replay reaches its limit. -/
def Fabric.isoEnd (f : Fabric) (k paused : Nat) : Fabric :=
  match (f.engine k).running with
  | some r =>
    if r.kind != .isolated then f
    else
      let f := f.advance (r.startAt + 2 * r.budgetNs + paused)
      (f.onEngine k (fun e => { e with running := some { r with hang := true } })).abortRun k
  | none => f
def execIsolatedReplayLimit (t : TileLimit) (s : State) : Host.Outcome State Fault Refusal := s.run (fun f => f.isoEnd t.engine t.paused)

/-! ### Extra runs and audit windows (R257, R252) -/

/-- Place the extra run that a descriptor's check waits for. -/
def Fabric.placeWanted (f : Fabric) (q : Nat) (n : BitVec 32) : Fabric :=
  match f.desc? q n with
  | some d =>
    let want (c : Option Check) : Bool := match c with | some c => c.wanted.isSome && !c.placed | none => false
    if want d.check then (f.skipThird q n none).placeExtra q n none
    else (match d.insts.find? (fun i => want i.2.check) with | some i => (f.skipThird q n (some i.1)).placeExtra q n (some i.1) | none => f)
  | none => f
def execExtraRunPlace (q : Nat) (n : BitVec 32) (s : State) : Host.Outcome State Fault Refusal := s.run (fun f => f.placeWanted q n)

/-- A full window draws its next position. -/
def Fabric.auditEnd (f : Fabric) (s k : Nat) : Fabric :=
  let x := f.slice s
  match x.audits.find k with
  | some a => if x.auditLog2 != 31 && decide (2 ^ x.auditLog2 ≤ a.n) then f.drawAudit s k else f
  | none => f
def execAuditWindowEnd (slice k : Nat) (s : State) : Host.Outcome State Fault Refusal := s.run (fun f => f.auditEnd slice k)

/-! ### Commit -/

/-- One commit of a queue (R246). -/
def execCommit (q : Nat) (s : State) : Host.Outcome State Fault Refusal := s.run (fun f => (f.commitHead q).settle)

/-- A coalescing interval ends (R155). -/
def Fabric.coalesceEnd (f : Fabric) (fn k : Nat) : Fabric :=
  match f.cq? fn k with
  | some c =>
    let f := f.advance c.quietUntil
    if c.owed then (f.irq fn c.vector).onCq fn k (fun c => { c with quietUntil := f.now + c.coalesceNs, owed := false }) else f
  | none => f
def execMsixCoalesceExpiry (fn k : Nat) (s : State) : Host.Outcome State Fault Refusal := s.run (fun f => f.coalesceEnd fn k)

/-- A fault's PARK_TIMEOUT_MS ends: what is parked on it completes FAULT_TRANSLATION (R189). -/
def Fabric.parkEnd (f : Fabric) (s k : Nat) : Fabric :=
  match (f.slice s).tu.faults.find k with
  | some o =>
    if o.cause = 3 then f
    else
      let ms := ((f.tag? o.tag).map (·.timeoutMs)).getD 0
      (f.advance (o.openedAt + ms * 1000000)).abortFault s k
  | none => f
def execParkTimeout (slice k : Nat) (s : State) : Host.Outcome State Fault Refusal := s.run (fun f => (f.parkEnd slice k).settle)

/-! ### Address resolution (R456) -/

/-- The chip-wide slot of an extent's key: a memory slot of the slice, or the link job key with its local index. -/
def Fabric.keySlotOf (f : Fabric) (s : Nat) (e : Extent) : Nat :=
  if e.target = 2 then ((f.keys.links.find? (fun k => k.2.slice == s && k.2.loc == e.keySel && k.2.state != 0)).map (·.1)).getD 0
  else (f.slice s).keyBase + e.keySel

/-- The response word of a resolved extent. -/
def Fabric.xrsp (f : Fabric) (s : Nat) (e : Extent) (off : Nat) (write : Bool) (place : Nat) : BitVec 128 :=
  BitVec.ofNat 128 (bf (b2n (e.target == 2)) 125 1 + bf (f.keySlotOf s e) 115 10 + bf s 109 6 + bf (b2n write) 106 3
    + bf (e.len - off) 74 32 + place)

/-- The engine asks for an address. -/
def Fabric.resolveX (f : Fabric) (k : Nat) (x : BitVec 48) : Fabric :=
  match (f.engine k).running with
  | none => f
  | some r =>
    let member := dbits48 x 43 5
    let range := dbits48 x 41 2
    let off := dbits48 x 0 36
    let bad (f : Fabric) : Fabric := (f.emit (.engineXrsp k (BitVec.ofNat 128 (2 ^ 126)))).portError k
    match f.sq? r.sq, (r.seqs[member]?).bind (fun n => f.desc? r.sq n) with
    | some q, some d =>
      let v := d.view q
      let inst := d.insts.getD r.inst {}
      let part := v.instPart range r.inst
      let hit :=
        if v.kind = 2 && range = 2 then walkExtents inst.rows off
        else if off < part.2 then walkExtents (d.extents.getD range []) (part.1 + off) else none
      if v.kind = 2 && range = 2 && !inst.rowsReady then f.emit (.engineXrsp k (BitVec.ofNat 128 (2 * 2 ^ 126)))
      else
        match hit with
        | none => bad f
        | some (e, o) =>
          let w := bitAt x 40
          match e.target with
          | 0 => f.emit (.engineXrsp k (f.xrsp r.slice e o w (bf e.stack 70 4 + bf (e.addr + o) 0 36)))
          | 1 => let p := f.drawWord; p.2.emit (.engineXrsp k (p.2.xrsp r.slice e o w p.1.toNat))
          | _ => f.emit (.engineXrsp k (f.xrsp r.slice e o w (bf e.port 69 5 + bf e.peer 53 16 + bf e.window 43 10 + bf (e.addr + o) 0 37)))
    | _, _ => bad f
where
  /-- Bits of a resolve request. -/
  dbits48 (x : BitVec 48) (lo w : Nat) : Nat := (x.extractLsb' lo w).toNat

def execAddressResolve (k : Nat) (x : BitVec 48) (s : State) : Host.Outcome State Fault Refusal := s.run (fun f => f.resolveX k x)

end Sys2Proof.Machine
end

