-- ==== Sys2Proof/Machine/Retirement.lean ====
section
/-! DEFINITION. Retirement of units (R52 to R54, R361), in-field tests (R362 to R364), the ends of reset and scrub, and
the dump reports of the engine port (R380, R381, R394, R455, R457). -/

namespace Sys2Proof.Machine

/-! ### The ledger's buffer (R366) -/

/-- A stress checkpoint. -/
def LedgerEntry.isStress : LedgerEntry → Bool
  | .stress _ _ => true
  | _ => false
/-- The entries without their stress checkpoints but the newest (R365, R366). -/
def liveEntries (l : List LedgerEntry) : List LedgerEntry :=
  let newest := l.reverse.find? (·.isStress)
  l.filter (fun e => !e.isStress || some e == newest)
/-- An entry waits in the TM buffer; when the buffer fills, only the newest stress checkpoint is kept, and nothing else is
dropped (R366). -/
def bufferPut (l : List LedgerEntry) (e : LedgerEntry) : List LedgerEntry :=
  if l.length < 256 then l ++ [e] else liveEntries (l ++ [e])
def Fabric.ledgerPut (f : Fabric) (e : LedgerEntry) : Fabric := f.onLedger (fun l => { l with buffer := bufferPut l.buffer e })

/-! ### Retirement (R53, R54, R361) -/

/-- A unit of the pool that is not retired yet. -/
def Fabric.canRetire (f : Fabric) (u : BitVec 32) : Bool :=
  let i := unitIdx u
  match unitType u with
  | 0 => decide (i < Config.engines) && f.engineIn i
  | 1 => decide (i < Config.dmaEngines) && f.dmaIn i
  | 2 => decide (i < Config.stackCount) && f.stackIn i && !bitAt f.units.degraded i
  | 4 => decide (i < Config.ports) && f.portIn i
  | _ => false

/-- Slices that own a unit. -/
def Fabric.unitOwners (f : Fabric) (u : BitVec 32) : List Nat :=
  let i := unitIdx u
  match unitType u with
  | 0 => f.engineOwners i
  | 1 => f.dmaOwners i
  | 2 => f.stackOwners i
  | 3 => f.stackOwners i
  | 4 => f.portOwners i
  | _ => []

/-- Steps 1 and 2 of R53: the unit takes no further work, and an engine's uncommitted tiles are rewound; the unit leaves
the pool at the next boundary. -/
def Fabric.startRetire (f : Fabric) (u : BitVec 32) (req : Option Req) : Fabric :=
  let f := { f with units := { f.units with retiring := f.units.retiring ++ [{ unit := u, req := req }] } }
  if unitType u = 0 then (((f.abandonTest (unitIdx u)).withdraw (unitIdx u) (fun _ => true)).settleHangs.voidExtra (unitIdx u)).preempt (unitIdx u) none else f

/-- A RETIRE action: at most 8 automatic retirements take effect in 24 h of ledger time, and a further trip leaves the
unit in service with LIFE RETIRE_PENDING (R361). -/
def Fabric.autoRetire (f : Fabric) (u : BitVec 32) : Fabric :=
  if !f.canRetire u || f.units.retiring.any (fun r => r.unit == u) then f
  else
    let now := f.ledgerNow
    let recent := f.fc.retiredAuto.filter (fun t => decide (now < t + 86400000000000))
    if 8 ≤ recent.length then
      f.raise { source := srcFc, unit := u, cause := 0x0B05, owners := f.unitOwners u }
    else (f.onFc (fun c => { c with retiredAuto := now :: recent })).startRetire u none

/-! ### In-field tests (R362 to R364) -/

/-- Slots of any slice that grant an engine in the pattern of the running frame, as start and end in absolute time. -/
def Fabric.grantTimes (f : Fabric) (k : Nat) : List (Nat × Nat) :=
  let l := (bankValid f.frame.bank).filter (fun e => entPattern e.2 == f.frame.pattern && f.grants e.2 (entSlice e.2) k)
  (List.range 12).flatMap (fun n => l.map (fun e =>
    let x := f.slotOf (f.frame.boundaryAt + n * f.frame.periodNs) e
    (x.start, x.stop)))
/-- From a moment on the longest test of R362 fits before the current pattern grants the engine. -/
def fitsBetween (l : List (Nat × Nat)) (t : Nat) : Bool := l.all (fun x => decide (x.2 ≤ t) || decide (t + 200000 ≤ x.1))
/-- The current pattern has an interval that is long enough for a test, now or behind a later grant (R362, placement 1). The
frames looked at hold more than the longest test. -/
def Fabric.hasTestGap (f : Fabric) (k : Nat) : Bool :=
  let l := f.grantTimes k
  fitsBetween l f.now || l.any (fun x => decide (f.now ≤ x.2) && decide (x.2 ≤ f.nextBoundary + f.frame.periodNs) && fitsBetween l x.2)
/-- The slice whose slot holds the engine now. -/
def Fabric.slotOwner (f : Fabric) (k : Nat) : Option Nat :=
  (f.slices.find? (fun e => (f.slotNow e.1 k).isSome)).map (·.1)

/-- The limits of R362 allow a test of the engine: 4 on the chip, 1 in any slice of the engine. -/
def Fabric.testRoom (f : Fabric) (k : Nat) : Bool :=
  let busy := f.engines.keysOf (fun j e => j != k && (e.testSeed.isSome || e.testOwner.isSome))
  decide (busy.length < 4) && (f.engineOwners k).all (fun s => busy.all (fun j => !(f.slice s).hasEngine j))

/-- Place a due test of one engine: in a gap of the pattern where it has one, else as a borrow from the owner of its slot
(R362, R363). -/
def Fabric.tryTest (f : Fabric) (k : Nat) : Fabric :=
  let e := f.engine k
  if !e.testDue || !f.tests.enable || !f.takesTiles k || f.isWatched k || f.rs.l4Stage != 0 || !f.testRoom k then f
  else if f.hasTestGap k then
    if fitsBetween (f.grantTimes k) f.now && e.running.isNone then (f.withdraw k (fun _ => true)).startTest k else f
  else if e.testHeld then f
  else
    match f.slotOwner k with
    | none => f
    | some s =>
      let f := f.onEngine k (fun e => { e with testOwner := some s, testFrom := f.now })
      if e.running.isNone then (f.withdraw k (fun _ => true)).startTest k else f.withdraw k (fun _ => true)
/-- Due tests of all engines, in ascending physical order. -/
def Fabric.tryTests (f : Fabric) : Fabric := (f.engines.keysOf (fun _ e => e.testDue)).foldl (fun f k => f.tryTest k) f

/-- The fabric time of a ledger time (R367). -/
def Fabric.atLedger (f : Fabric) (t : Nat) : Nat := (Int.ofNat t - f.ledger.offset).toNat
/-- The test interval of an engine elapses, in ledger time; a watched or retired engine is skipped (R362, R364). -/
def Fabric.fallDue (f : Fabric) (k : Nat) : Fabric :=
  let e := f.engine k
  if !f.tests.enable || e.state == .absent || e.state == .retired || f.isWatched k then f
  else
    let f := f.advance (f.atLedger (e.testAt + f.tests.intervalH * 3600000000000))
    (f.onEngine k (fun e => { e with testDue := e.testSeed.isNone, testAt := f.ledgerNow })).tryTest k
def execTestDue (k : Nat) (s : State) : Host.Outcome State Fault Refusal := s.run (fun f => f.fallDue k)

/-- No tile boundary came within one tile budget: the test is postponed to the next frame (R363). -/
def Fabric.postponeTest (f : Fabric) (k : Nat) : Fabric :=
  let e := f.engine k
  match e.testOwner, e.testSeed with
  | some s, none =>
    let budget := match e.running with | some r => r.budgetNs | none => 0
    let f := f.advance (e.testFrom + budget)
    let f := f.onEngine k (fun e => { e with testOwner := none, testDue := true, testHeld := true })
    let f := f.onSlice s (fun x => { x with testPostponed := satAdd 8 x.testPostponed 1 })
    (f.raise { source := srcTm, unit := unitId 0 0 k, cause := 0x0A03, owners := [s] }).startNext k 9
  | _, _ => f
def execTestBorrowTimeout (k : Nat) (s : State) : Host.Outcome State Fault Refusal := s.run (fun f => f.postponeTest k)

/-- END 4: the signature is compared, a second failure within 24 h retires the engine (R362 to R364). -/
def Fabric.endTest (f : Fabric) (k : Nat) (sig : Word) : Fabric :=
  let e := f.engine k
  match e.testSeed with
  | none => f.strayBeat k
  | some seed =>
    let ok := sig == Config.testSignature seed
    let owners := f.engineOwners k
    let f := f.onEngine k (fun e => { e with testSeed := none, testOwner := none, testComp := e.testOwner.map (fun s => (s, f.now - e.testFrom)) })
    let f := owners.foldl (fun f s => f.onSlice s (fun x => { x with
      testsRun := (x.testsRun + 1) % 65536, testFails := if ok then x.testFails else satAdd 8 x.testFails 1 })) f
    let f := f.raise { source := srcTm, unit := unitId 0 0 k, cause := if ok then 0x0A01 else 0x0A02, owners := owners }
    let again : Bool := match e.testFailAt with | some t => decide (f.ledgerNow < t + 86400000000000) | none => false
    let f := if ok then f.onEngine k (fun e => { e with testFailAt := none })
      else
        let f := f.onEngine k (fun e => { e with testFailAt := some f.ledgerNow, testDue := !again })
        if again then f.autoRetire (unitId 0 0 k) else f
    (f.startNext k 9).tryTests
def execTestDone (k : Nat) (sig : Word) (s : State) : Host.Outcome State Fault Refusal := s.run (fun f => f.endTest k sig)

/-! ### Reset and scrub of an engine (R380, R381, R336) -/

/-- END 6: the engine returns to service (R380); the ENGINE_RESET packet is answered (R406). -/
def Fabric.endReset (f : Fabric) (k : Nat) : Fabric :=
  let e := f.engine k
  if e.state != .resetting || e.resetWait || e.running.isSome then f.strayBeat k
  else
    let f := f.onEngine k (fun e => { e with state := .inService, queue := [], resetReq := none })
    ((f.replyOpt e.resetReq (repOk)).placeHangs).startNext k 9
def execEngineResetDone (k : Nat) (s : State) : Host.Outcome State Fault Refusal := s.run (fun f => f.endReset k)

/-- The engine port broke its protocol and stays out of service until L4 (R381, R457); its run is lost. -/
def Fabric.losePort (f : Fabric) (k : Nat) : Fabric :=
  let e := f.engine k
  let f := f.raise { source := k, unit := unitId 0 0 k, cause := 0x0104, owners := f.engineOwners k }
  let f := f.onEngine k (fun e => { e with state := .outOfService, running := none, aborting := false, resetWait := false, resetReq := none,
                                           testSeed := none, testOwner := none, scrubbing := false, noPlace := false })
  let f := f.withdraw k (fun _ => true)
  let f : Fabric := match e.running with
    | some r => if r.kind == .isolated then f else f.cutRun r
    | none => f
  let f := f.slices.foldl (fun f x => f.onSlice x.1 (fun y => { y with l3Engines := y.l3Engines.filter (· != k), scrubs := y.scrubs.filter (· != k) })) f
  (f.settleHangs.placeHangs.replyOpt e.resetReq (rep stTimeout)).settle

/-- RESET was not acknowledged in 40 µs (R381). -/
def Fabric.resetLate (f : Fabric) (k : Nat) : Fabric :=
  let e := f.engine k
  if e.state == .resetting && !e.resetWait && e.running.isNone then (f.advance (e.resetFrom + 40000)).losePort k else f
def execResetAckTimeout (k : Nat) (s : State) : Host.Outcome State Fault Refusal := s.run (fun f => f.resetLate k)

/-- When a bound of R457 that an engine port still owes ends. -/
def Fabric.owedAt (f : Fabric) (k : Nat) (b : PortBound) : Option Nat :=
  let e := f.engine k
  match b with
  | .issueReady => e.running.map (fun r => r.startAt + ceilDiv 8000 f.mhz)
  | .abort => if e.running.isSome && e.aborting then some (e.abortFrom + 500) else none
  | .scrub => if e.scrubbing then some (e.scrubFrom + 150000) else none
  | .test => if e.testSeed.isSome then some (e.testFrom + 200000) else none
/-- A bound of R457 is missed. -/
def Fabric.portLate (f : Fabric) (k : Nat) (b : PortBound) : Fabric :=
  match f.owedAt k b with
  | some t => (f.advance t).losePort k
  | none => f
def execEnginePortTimeout (k : Nat) (b : PortBound) (s : State) : Host.Outcome State Fault Refusal := s.run (fun f => f.portLate k b)

/-! ### Dump reports (R394, R455) -/

/-- The circular regions of R394 as base, length, head and tail. -/
def regionOf (r : BitVec 512) (i : Nat) : Nat × Nat × Nat × Nat :=
  (field r (16 * i) 4, field r (16 * i + 4) 4, field r (16 * i + 8) 4, field r (16 * i + 12) 4)

/-- The scratchpad spans that Fid samples: half of each share ends at HEAD and half starts at TAIL, each wrapping in its
region; a region no longer than its share is sampled whole. -/
def sampleSpans (r : BitVec 512) (n : Nat) : List (Nat × Nat) :=
  let share := 65536 / n
  let ring (base len from_ k : Nat) : List (Nat × Nat) :=
    if from_ + k ≤ len then [(base + from_, k)] else [(base + from_, len - from_), (base, k - (len - from_))]
  (List.range n).flatMap (fun i =>
    let g := regionOf r i
    let base := g.1
    let len := g.2.1
    if len ≤ share then (if len = 0 then [] else [(base, len)])
    else
      let h := share / 2
      let head := (g.2.2.1 - base) % len
      let tail := (g.2.2.2 - base) % len
      ring base len ((head + len - h) % len) h ++ ring base len tail (share - h))

/-- END 8: regions and status words; the samples are asked for, but not for DUMP_TAKE (R392, R394). -/
def Fabric.takeRegions (f : Fabric) (k count : Nat) (regions : BitVec 512) (status : BitVec 768) : Fabric :=
  if !(f.engine k).regionsDue then f.strayBeat k
  else
    let n := min count 4
    let spans := if n = 0 || f.rs.dump.taking == some 2 then [] else sampleSpans regions n
    let beats := (spans.map (fun s => ceilDiv s.2 32)).sum
    let f := f.onEngine k (fun e => { e with regionsDue := false, regions := regions, regionCount := n, status := status, spPending := beats, spData := [] })
    spans.foldl (fun f s => f.emit (.engine k (.spRead s.1 s.2))) f
def execRegionsReport (k count : Nat) (regions : BitVec 512) (status : BitVec 768) (s : State) : Host.Outcome State Fault Refusal :=
  s.run (fun f => f.takeRegions k count regions status)

/-- END 9: one beat of the sample. -/
def Fabric.takeSp (f : Fabric) (k : Nat) (beat : BitVec 256) : Fabric :=
  if (f.engine k).spPending = 0 then f.strayBeat k
  else f.onEngine k (fun e => { e with spPending := e.spPending - 1, spData := e.spData ++ [beat] })
def execSpData (k : Nat) (beat : BitVec 256) (s : State) : Host.Outcome State Fault Refusal := s.run (fun f => f.takeSp k beat)

end Sys2Proof.Machine
end

