-- ==== Sys2Proof/Machine/Queues.lean ====
section
/-! DEFINITION. Functions, queues, contexts and handles: the packets of R136 and R427, the doorbells (R142, R143), the
completion queue head (R154) and fence writes (R157). -/

namespace Sys2Proof.Machine

/-! ### Doorbells (R140, R142, R143) -/

/-- The queue takes doorbells: OPEN, in an ACTIVE or RESETTING slice, and no drain for a
power cycle has shut every doorbell (R401). -/
def Fabric.queueOpen (f : Fabric) (x : Sq) : Bool :=
  x.state == 1 && f.rs.l5Drain.isNone && ((f.slice x.slice).state == .active || (f.slice x.slice).state == .resetting)

/-- Descriptors from a sequence number on, in order of acceptance at a fabric time. -/
def newDescs (first : BitVec 32) (order now n : Nat) : List Desc :=
  (List.range n).map (fun i => { seq := first + BitVec.ofNat 32 i, order := order + i, acceptedAt := now })

/-- A doorbell value checked as a doorbell written now (R142). -/
def Fabric.doorbell (f : Fabric) (q : Nat) (v : BitVec 32) : Fabric :=
  match f.sq? q with
  | none => f
  | some x =>
    let f := f.onSq q (fun x => { x with tail := v })
    if !f.queueOpen x then f.onSq q (fun x => { x with dbShut := satAdd 16 x.dbShut 1 })
    else
      let adv := v - x.accepted
      let occ := v - x.commit
      if adv = 0 then f
      else if occ < adv || 2 ^ x.ringLog2 < occ.toNat then
        (f.onSq q (fun x => { x with dbErr := satAdd 16 x.dbErr 1 })).raise
          { source := srcQm, unit := centralUnit srcQm, cause := 0x0710, owners := [x.slice], fns := [x.fn], sq := q,
            syndrome := BitVec.ofNat 192 v.toNat }
      else
        { f.onSq q (fun x => { x with accepted := v, shAccepted := v, descs := x.descs ++ newDescs x.accepted f.accepts f.now adv.toNat }) with
          accepts := f.accepts + adv.toNat }

/-- The TAIL of a queue that opens is checked (R142, R384): the latched value where the chip was frozen. -/
def Fabric.recheckTail (f : Fabric) (q : Nat) : Fabric :=
  match f.sq? q with
  | some x =>
    let f := f.onSq q (fun x => { x with latched := none })
    if x.latched.isSome || x.tail != x.accepted then f.doorbell q (x.latched.getD x.tail) else f
  | none => f

/-- The PF, or a VF that is enabled in a slice; writes to the BARs of any other are discarded (R433). -/
def Fabric.fnLive (f : Fabric) (n : Nat) : Bool := n == 0 || (decide (n < 256) && (f.fn n).slice.isSome)

/-- A doorbell write arrives; while the chip is frozen its value is latched (R384). -/
def Fabric.ringSq (f : Fabric) (fn j : Nat) (v : BitVec 32) : Fabric :=
  if !f.fnLive fn || decide (64 ≤ j) then f
  else match (f.fn fn).sqs.find j with
  | some q =>
    if f.rs.frozen then f.onSq q (fun x => { x with tail := v, latched := some v }) else f.doorbell q v
  | none =>
    match (f.fn fn).sqs.find 0 with
    | some q => f.onSq q (fun x => { x with dbShut := satAdd 16 x.dbShut 1 })
    | none => f.onFn fn (fun x => { x with dbShut0 := satAdd 16 x.dbShut0 1 })

def execSqDoorbell (fn j : Nat) (tail : BitVec 32) (s : State) : Host.Outcome State Fault Refusal :=
  s.run (fun f => f.ringSq fn j tail)

/-- A head write that moves back or past the tail is ignored (R154). -/
def headOk (head tail v : BitVec 32) : Bool := decide ((v - head).toNat ≤ (tail - head).toNat)

/-- A completion queue head write (R154). -/
def Fabric.cqHead (f : Fabric) (fn k : Nat) (v : BitVec 32) : Fabric :=
  if f.rs.frozen then f
  else f.onCq fn k (fun c => if headOk c.head c.tail v then { c with head := v } else { c with headErr := true })
def execCqDoorbell (fn k : Nat) (head : BitVec 32) (s : State) : Host.Outcome State Fault Refusal :=
  s.run (fun f => f.cqHead fn k head)

/-- A host write of a fence word: shadowed first, then stored, and waiting descriptors look again (R157, R165, R388). -/
def Fabric.writeFence (f : Fabric) (fn n : Nat) (w : Word) : Fabric :=
  if f.rs.frozen || !f.fnLive fn || decide (1024 ≤ n) then f
  else
    let v := w.extractLsb' 0 32
    let clear := bitAt w 63
    (f.onFence fn n (fun x =>
      { x with value := v, shValue := v, irqEn := bitAt w 62, vector := (w.extractLsb' 56 6).toNat,
               error := x.error && !clear, shError := x.error && !clear })).settleFn fn
def execFenceWrite (fn n : Nat) (v : Word) (s : State) : Host.Outcome State Fault Refusal :=
  s.run (fun f => (f.writeFence fn n v).settle)

/-! ### Functions (R48, R136) -/

/-- A slice that takes new objects: it holds resources and is not being removed (R339). -/
def Fabric.sliceTakes (f : Fabric) (s : Nat) : Bool := holds (f.slice s).state && !leaving (f.slice s).state

def rowVfEnable : Row :=
  { op := false, pf := true, slice := true, params := [(0x18, 1)], range := fun _ p => decide (1 ≤ pfield p 0x18 1),
    body := fun p _ f =>
      let s := pslice p
      let n := pfield p 0x18 1
      if !f.sliceTakes s || (f.fn n).slice.isSome then (f, some (rep stState))
      else if recVfs (f.slice s).record ≤ (f.vfsOf s).length then (f, some (rep stFull))
      else (f.onFn n (fun x => { x with slice := some s, resetState := 0 }), some (repOk)) }

/-- Queues of a function, and its handles that are LIVE. -/
def Fabric.fnBusy (f : Fabric) (n : Nat) : Bool :=
  !(f.fn n).sqs.isEmpty || !(f.fn n).cqs.isEmpty
    || f.slices.any (fun e => e.2.handles.any (fun h => h.2.fn == n && h.2.state == 1))

/-- VF_DISABLE; IRX_VF_RESET returns to its reset value (R448). -/
def rowVfDisable : Row :=
  { op := false, pf := true, params := [(0x18, 1)], range := fun _ p => decide (1 ≤ pfield p 0x18 1),
    body := fun p _ f =>
      let n := pfield p 0x18 1
      if (f.fn n).slice.isNone || f.fnBusy n then (f, some (rep stState))
      else (f.onFn n (fun x => { x with slice := none, discarded := 0, resetState := 0 }), some (repOk)) }

/-! ### Completion queues (R138, R139) -/

/-- A function that may hold queues of a slice: the PF of any, a VF of the slice it is enabled in. -/
def Fabric.fnIn (f : Fabric) (n s : Nat) : Bool := n == 0 || (f.fn n).slice == some s

def rowCqCreate : Row :=
  { op := false, pf := true, slice := true, params := [(0x18, 1), (0x19, 1), (0x1A, 1), (0x1C, 2), (0x20, 8)],
    range := fun _ p => decide (6 ≤ pfield p 0x19 1) && decide (pfield p 0x19 1 ≤ 16) && decide (pfield p 0x1A 1 < 64)
      && decide (pfield p 0x20 8 % 4096 = 0),
    body := fun p _ f =>
      let n := pfield p 0x18 1
      if !f.sliceTakes (pslice p) || !f.fnIn n (pslice p) then (f, some (rep stState))
      else
        match (f.fn n).cqs.lowestFree 0 64 with
        | none => (f, some (rep stFull))
        | some k =>
          let c : Cq := { log2 := pfield p 0x19 1, addr := pfield p 0x20 8, vector := pfield p 0x1A 1, coalesceNs := pfield p 0x1C 2 }
          (f.onFn n (fun x => { x with cqs := x.cqs.put k c }), some (repOk [(0x20, 1, k)])) }

def rowCqDestroy : Row :=
  { op := false, pf := true, params := [(0x18, 1), (0x19, 1)],
    body := fun p _ f =>
      let n := pfield p 0x18 1
      let k := pfield p 0x19 1
      if (f.cq? n k).isNone || f.sqs.any (fun e => e.2.fn == n && e.2.cq == k) then (f, some (rep stState))
      else (f.onFn n (fun x => { x with cqs := x.cqs.del k }), some (repOk)) }

/-! ### Submission queues (R136, R137) -/

/-- Parameters of SQ_CREATE in their ranges. -/
def sqParamsOk (f : Fabric) (p : Packet) : Bool :=
  let gen := pfield p 0x1B 1
  let flags := pfield p 0x1F 1
  let budget := pfield p 0x24 2
  decide (pfield p 0x18 2 < 4096) && decide (1 ≤ gen) && decide (gen ≤ 3)
    && decide (4 ≤ pfield p 0x1C 1) && decide (pfield p 0x1C 1 ≤ 12) && decide (pfield p 0x1E 1 < 64)
    && decide (flags ≤ (if gen = 1 then 3 else if gen = 2 then 1 else 0))
    && (if gen = 3 then budget == 0 else budgetOk budget f.mhz) && decide (pfield p 0x26 2 ≤ 20000)

/-- Stack and byte offset of a ring that lies in one extent of its slice and outside its pool. -/
def ringPlace (x : Slice) (p : Packet) : Option (Nat × Nat) :=
  match x.stackList[pfield p 0x1D 1]? with
  | none => none
  | some k =>
    let base := gib (recBase x.record k) + pfield p 0x20 4 * 4096
    let len := 2 ^ pfield p 0x1C 1 * descBytes (pfield p 0x1B 1)
    if inExtent x.record k base len && !inPool x.record k base len then some (k, base) else none

def rowSqCreate : Row :=
  { op := false, pf := true, slice := true,
    params := [(0x18, 2), (0x1A, 1), (0x1B, 1), (0x1C, 1), (0x1D, 1), (0x1E, 1), (0x1F, 1), (0x20, 4), (0x24, 2), (0x26, 2)],
    range := sqParamsOk,
    body := fun p _ f =>
      let n := pfield p 0x1A 1
      let q := pfield p 0x18 2
      let s := if n = 0 then pslice p else ((f.fn n).slice).getD 64
      let x := f.slice s
      if !f.sliceTakes s then (f, some (rep stState))
      else
        match ringPlace x p with
        | none => (f, some (rep stForm))
        | some place =>
          if (f.sq? q).isSome || (f.cq? n (pfield p 0x1E 1)).isNone then (f, some (rep stState))
          else if recQueues x.record ≤ (f.queuesOf (fun y => y.slice == s)).length then (f, some (rep stFull))
          else
            match (f.fn n).sqs.lowestFree 0 64 with
            | none => (f, some (rep stFull))
            | some j =>
              let sq : Sq :=
                { fn := n, loc := j, slice := s, gen := pfield p 0x1B 1, ringLog2 := pfield p 0x1C 1, ringStack := place.1,
                  ringBase := place.2, cq := pfield p 0x1E 1, defBudget := pfield p 0x24 2,
                  defFlags := BitVec.ofNat 8 (pfield p 0x1F 1), formWait := pfield p 0x26 2 }
              let f := { f with sqs := f.sqs.put q sq }
              (f.onFn n (fun y => { y with sqs := y.sqs.put j q }), some (repOk [(0x20, 1, j)])) }

/-- SQ_DESTROY: the doorbell shuts; MODE 0 drains the queue, MODE 1 cancels what it holds (R136, R161). -/
def rowSqDestroy : Row :=
  { op := false, pf := true, params := [(0x18, 1), (0x19, 1), (0x1A, 1)], range := fun _ p => decide (pfield p 0x1A 1 ≤ 1),
    body := fun p r f =>
      match (f.fn (pfield p 0x18 1)).sqs.find (pfield p 0x19 1) with
      | none => (f, some (rep stState))
      | some q =>
        match f.sq? q with
        | none => (f, some (rep stState))
        | some x =>
          let cancel := pfield p 0x1A 1 == 1
          if x.destroy.isSome || leaving (f.slice x.slice).state || (x.state == 3 && !cancel) then (f, some (rep stState))
          else
            let f := f.onSq q (fun x => { x with state := 2, destroy := some r })
            let f := if cancel then x.descs.foldl (fun f d => f.endDesc q d.seq 2 false) f else f
            ((f.settleDestroy q).settle, none) }

/-- CTX_CANCEL (R161, R379): the scope is what the named queues had accepted at its receipt, now where that is not given. -/
def rowCtxCancelAt (receipt : Option Nat) : Row :=
  { op := false, pf := true, vf := true, params := [(0x18, 1), (0x1A, 2), (0x20, 8)],
    own := fun _ n p => pfield p 0x18 1 == n,
    body := fun p r f =>
      let n := pfield p 0x18 1
      let qs := ((f.fn n).sqs.filter (fun e => bitAt (BitVec.ofNat 64 (pfield p 0x20 8)) e.1)).map (·.2)
      let ss := (qs.filterMap (fun q => (f.sq? q).map (·.slice))).eraseDups
      if ss.any (fun s => leaving (f.slice s).state) then (f, some (rep stState))
      else
        let f := qs.foldl (fun f q => f.onSq q (fun x => { x with cancels := x.cancels ++ [(r, pfield p 0x1A 2, x.scopeEnd receipt)] })) f
        let f := ss.foldl (fun f s => f.cancelCtx s (pfield p 0x1A 2) (qs.filter (fun q => ((f.sq? q).map (·.slice)) == some s)) none receipt) f
        if qs.isEmpty then (f, some (repOk)) else ((qs.foldl (fun f q => f.settleCancels q) f).settle, none) }
/-- CTX_CANCEL accepted as it is received. -/
def rowCtxCancel : Row := rowCtxCancelAt none

/-! ### Handles (R160) -/

def rowObjRegister : Row :=
  { op := false, pf := true, params := [(0x18, 1), (0x1A, 2), (0x20, 8), (0x28, 8)],
    range := fun _ p => decide (pfield p 0x1A 2 < 4096) && decide (pfield p 0x28 8 ≠ 0) && decide (pfield p 0x20 8 + pfield p 0x28 8 ≤ 2 ^ 48),
    body := fun p _ f =>
      let n := pfield p 0x18 1
      let tag := pfield p 0x1A 2
      let va := pfield p 0x20 8
      let len := pfield p 0x28 8
      match f.tag? tag with
      | none => (f, some (rep stState))
      | some t =>
        let x := f.slice t.slice
        if t.fn != n || t.destroying || !f.sliceTakes t.slice
            || x.handles.any (fun h => h.2.state != 0 && h.2.tag == tag && decide (h.2.va < va + len) && decide (va < h.2.va + h.2.len)) then
          (f, some (rep stState))
        else
          match x.handles.lowestFree 0 16384 with
          | none => (f, some (rep stFull))
          | some h =>
            (f.onSlice t.slice (fun x => { x with handles := x.handles.put h { state := 1, fn := n, tag := tag, va := va, len := len } }),
              some (repOk [(0x20, 2, h)])) }

/-- The handle that a packet names in its slice. -/
def Fabric.handle? (f : Fabric) (p : Packet) : Option Handle := (f.slice (pslice p)).handles.find (pfield p 0x18 2)

/-- OBJ_RELEASE (R160): a LIVE handle is doomed, and unmapped at once where nothing can refer to it. -/
def rowObjRelease : Row :=
  { op := false, pf := true, vf := true, slice := true, params := [(0x18, 2)],
    own := fun f n p => match f.handle? p with | some h => h.fn == n | none => false,
    range := fun _ p => decide (pfield p 0x18 2 < 16384),
    body := fun p _ f =>
      let s := pslice p
      let k := pfield p 0x18 2
      match f.handle? p with
      | none => (f, some (rep stState))
      | some h =>
        let f := if h.state = 1 then
            ((f.onSlice s (fun x => { x with handles := x.handles.onKey k (fun h => { h with state := 2, releasedAt := f.accepts }) })).settleHandle s k).settle
          else f
        (f, some (repOk [(0x20, 1, (((f.slice s).handles.find k).map (·.state)).getD 0)])) }

def rowObjQuery : Row :=
  { op := false, pf := true, vf := true, slice := true, params := [(0x18, 2)],
    own := fun f n p => match f.handle? p with | some h => h.fn == n | none => false,
    range := fun _ p => decide (pfield p 0x18 2 < 16384),
    body := fun p _ f =>
      match f.handle? p with
      | none => (f, some (repOk))
      | some h => (f, some (repOk [(0x20, 1, h.state), (0x22, 2, h.tag), (0x24, 4, f.handleRefs (pslice p) h), (0x28, 8, h.va), (0x30, 8, h.len)])) }

/-- VF_ENABLE. -/
def execVfEnable (p : Packet) (s : State) : Host.Outcome State Fault Refusal := s.run (control rowVfEnable p)
/-- VF_DISABLE. -/
def execVfDisable (p : Packet) (s : State) : Host.Outcome State Fault Refusal := s.run (control rowVfDisable p)
/-- CQ_CREATE. -/
def execCqCreate (p : Packet) (s : State) : Host.Outcome State Fault Refusal := s.run (control rowCqCreate p)
/-- CQ_DESTROY. -/
def execCqDestroy (p : Packet) (s : State) : Host.Outcome State Fault Refusal := s.run (control rowCqDestroy p)
/-- SQ_CREATE. -/
def execSqCreate (p : Packet) (s : State) : Host.Outcome State Fault Refusal := s.run (control rowSqCreate p)
/-- SQ_DESTROY. -/
def execSqDestroy (p : Packet) (s : State) : Host.Outcome State Fault Refusal := s.run (control rowSqDestroy p)
/-- CTX_CANCEL. -/
def execCtxCancel (p : Packet) (s : State) : Host.Outcome State Fault Refusal := s.run (control rowCtxCancel p)
/-- OBJ_REGISTER. -/
def execObjRegister (p : Packet) (s : State) : Host.Outcome State Fault Refusal := s.run (control rowObjRegister p)
/-- OBJ_RELEASE. -/
def execObjRelease (p : Packet) (s : State) : Host.Outcome State Fault Refusal := s.run (control rowObjRelease p)
/-- OBJ_QUERY. -/
def execObjQuery (p : Packet) (s : State) : Host.Outcome State Fault Refusal := s.run (control rowObjQuery p)

end Sys2Proof.Machine
end

