-- ==== Sys2Proof/Machine/Tables.lean ====
section
/-! DEFINITION. The host's side of translation: map queues and map records (R174 to R177), the census of unmaps (R185),
and the packets for tags, windows and access counters (R166 to R168, R195, R196). -/

namespace Sys2Proof.Machine

/-! ### The map queue (R174, R177) -/

def mapqEnable (b : Word) : Bool := bitAt b 0
def mapqVector (b : Word) : Nat := (b.extractLsb' 2 6).toNat
def mapqLog2 (b : Word) : Nat := (b.extractLsb' 8 4).toNat
def mapqAddr (b : Word) : Nat := (b.extractLsb' 12 52).toNat * 4096

/-- The map queue doorbell: R142 with APPLIED for ACCEPTED and RETIRED for COMMIT. -/
def Fabric.ringMapq (f : Fabric) (s : Nat) (v : BitVec 32) : Fabric :=
  let u := (f.slice s).tu
  let bad (f : Fabric) : Fabric := f.onTu s (fun u => { u with dbErr := satAdd 16 u.dbErr 1 })
  if f.rs.frozen then f
  else if !mapqEnable u.base then bad f
  else
    let adv := v - u.applied
    let occ := v - u.retired
    if adv = 0 then f.onTu s (fun u => { u with tail := v })
    else if occ < adv || 2 ^ mapqLog2 u.base < occ.toNat then bad f
    else f.onTu s (fun u => { u with tail := v })
def execMapqDoorbell (slice : Nat) (tail : BitVec 32) (s : State) : Host.Outcome State Fault Refusal :=
  s.run (fun f => f.ringMapq slice tail)

/-- Retire records in order; the vector follows an acknowledgement, a status other than DONE, or the last record
(R177). -/
def Fabric.retireMaps (f : Fabric) (s : Nat) (ring : Bool) : Fabric :=
  let u := (f.slice s).tu
  let done := (u.unretired.takeWhile (fun e => e.2)).length
  let f := f.onTu s (fun u => { u with unretired := u.unretired.drop done, retired := u.retired + BitVec.ofNat 32 done })
  let u := (f.slice s).tu
  if ring || (done != 0 && u.retired == u.tail) then f.irq 0 (mapqVector u.base) else f

/-- Host address of a record. -/
def SliceTu.recordAddr (u : SliceTu) (index : Nat) : Nat := mapqAddr u.base + index % 2 ^ mapqLog2 u.base * 32

/-- Write the STATUS of a record; `ack` says that it is an acknowledgement. -/
def Fabric.mapStatus (f : Fabric) (s index : Nat) (st : Byte) (ack : Bool) : Fabric :=
  let f := f.hostWrite (some s) 1 (.mapStatus s ((f.slice s).tu.recordAddr index + 1) st)
  let f := f.onTu s (fun u => { u with unretired := u.unretired.map (fun e => if e.1 = index then (e.1, true) else e) })
  f.retireMaps s (ack || st != 1)

/-! ### Map records (R174, R175) -/

/-- A map record, 32 bytes, byte 0 in bits [7:0]. -/
abbrev MapRec := BitVec 256
def mrOp (r : MapRec) : Nat := field r 0 1
def mrTag (r : MapRec) : Nat := field r 2 2
def mrSize (r : MapRec) : Nat := (r.extractLsb' 32 2).toNat
def mrTarget (r : MapRec) : Nat := (r.extractLsb' 34 2).toNat
def mrWrite (r : MapRec) : Bool := bitAt r 36
def mrAction (r : MapRec) : Nat := field r 5 1
def mrKeySel (r : MapRec) : Nat := field r 6 2
def mrVa (r : MapRec) : Nat := field r 8 8
def mrCount (r : MapRec) : Nat := field r 0x10 4
def mrAddr (r : MapRec) : Nat := field r 0x18 8

/-- Bits of a record that an operation uses. -/
def mrMask (op : Nat) : MapRec :=
  let at_ (off n : Nat) : MapRec := setField 0 off n (2 ^ (8 * n) - 1)
  let base := at_ 0 1 ||| at_ 2 2 ||| at_ 8 8
  let attr (w : Nat) : MapRec := BitVec.ofNat 256 (w * 2 ^ 32)
  match op with
  | 0 => base ||| attr 0x1F ||| at_ 6 2 ||| at_ 0x10 4 ||| at_ 0x18 8
  | 1 => base ||| attr 0x03 ||| at_ 0x10 4
  | 2 => base ||| attr 0x13 ||| at_ 6 2 ||| at_ 0x10 4
  | _ => base ||| at_ 5 1

/-- Pages of 64 KiB of a record's size, its first page and its span. -/
def mrPages (r : MapRec) : Nat := sizePages (mrSize r)
def mrFirst (r : MapRec) : Nat := mrVa r / 65536
def mrSpan (r : MapRec) : Nat := mrCount r * mrPages r

/-- The target address is aligned, its unused bits are 0, and its last page fits the entry (R171, R174). -/
def mrAddrOk (r : MapRec) : Bool :=
  let size := mrPages r * 65536
  let last := (mrCount r) * size
  match mrTarget r with
  | 0 => decide (mrAddr r < 2 ^ 40) && decide (mrAddr r % 2 ^ 36 % size = 0)
  | 1 => decide (mrAddr r % size = 0) && decide (mrAddr r + last ≤ 2 ^ 63)
  | _ => !bitAt (BitVec.ofNat 64 (mrAddr r)) 37 && decide (mrAddr r % 2 ^ 37 % size = 0) && decide (mrAddr r % 2 ^ 37 + last ≤ 2 ^ 37)

/-- The FORM check of a record for an operation. -/
def Fabric.mapForm (f : Fabric) (s op : Nat) (r : MapRec) : Bool :=
  decide (r &&& ~~~mrMask op = 0) && decide (mrOp r = op)
    && (match f.tag? (mrTag r) with | some t => t.slice == s && !t.destroying | none => false)
    && decide (mrSize r < 3) && decide (mrVa r < 2 ^ 48) && decide (mrVa r % (mrPages r * 65536) = 0)
    && (op == 3 || (decide (1 ≤ mrCount r) && decide (mrCount r < 2 ^ 24)))
    && (if op = 0 then decide (mrTarget r < 3) && mrAddrOk r else true)
    && decide (mrKeySel r < 512)
    && (if op = 3 then decide (mrAction r ≤ 1) else true)

/-- The leaf of page `i` of a MAP. -/
def mrLeaf (r : MapRec) (i : Nat) : Leaf :=
  let off := i * mrPages r * 65536
  let a := mrAddr r
  let phys := match mrTarget r with | 0 => a % 2 ^ 36 | 1 => a | _ => a % 2 ^ 37
  let first := mrVa r / (mrPages r * 65536)
  let unit := mrPages r * 65536
  let runOk (k : Nat) : Bool :=
    let b := 2 ^ k
    let lo := (first + i) / b * b
    decide (first ≤ lo) && decide (lo + b ≤ first + mrCount r) && decide ((phys / unit) % b = first % b)
  let run := ((List.range 7).reverse.find? runOk).getD 0
  { size := mrSize r, target := mrTarget r, write := mrWrite r, runLog2 := run, keySel := mrKeySel r,
    stack := if mrTarget r = 0 then a / 2 ^ 36 else 0, addr := phys + off,
    peer := if mrTarget r = 2 then a / 2 ^ 48 else 0, window := if mrTarget r = 2 then a / 2 ^ 38 % 1024 else 0 }

/-- A leaf meets a span of pages. -/
def leafMeets (page n : Nat) (l : Nat × Leaf) : Bool := decide (l.1 < page + n) && decide (page < l.1 + sizePages l.2.size)

/-- Remove a span from the lost spans of a tag. -/
def cutSpans (l : List (Nat × Nat)) (page n : Nat) : List (Nat × Nat) :=
  l.flatMap (fun e =>
    let lo := min (e.1 + e.2) page
    let hi := max e.1 (page + n)
    ((if e.1 < lo then [(e.1, lo - e.1)] else []) ++ (if hi < e.1 + e.2 then [(hi, e.1 + e.2 - hi)] else [])))

/-- MAP: the status, and the fabric with the record applied (R175). -/
def Fabric.applyMap (f : Fabric) (s : Nat) (r : MapRec) : Byte × Fabric :=
  match f.tag? (mrTag r) with
  | none => (0x0A, f)
  | some t =>
    let x := f.slice s
    let page := mrFirst r
    let n := mrSpan r
    let len := n * 65536
    let off := mrAddr r % 2 ^ 36
    if !f.mapForm s 0 r then (0x0A, f)
    else if Config.apertureBase < mrVa r + len then (0x07, f)
    else if t.leaves.any (leafMeets page n) then (0x02, f)
    else if mrTarget r = 0 && !inExtent x.record (mrAddr r / 2 ^ 36) off len then (0x04, f)
    else if mrTarget r = 0 && inPool x.record (mrAddr r / 2 ^ 36) off len then (0x05, f)
    else if !keySelOk x.record (mrTarget r) (mrKeySel r) then (0x06, f)
    else
      let new := (List.range (mrCount r)).map (fun i => (page + i * mrPages r, mrLeaf r i))
      let g := (f.onTag (mrTag r) (fun t =>
        { t with leaves := new.foldl (fun l e => l.put e.1 e.2) t.leaves, lost := cutSpans t.lost page n })).settleTables (mrTag r)
      if 16384 < g.tableFrames s then (0x09, f)
      else (0x01, g.retrySpan s (mrTag r) page n)

/-- The entries of a record's span, or none where one is not a valid leaf of its size. -/
def Tag.spanLeaves (t : Tag) (r : MapRec) : Option (List (Nat × Leaf)) :=
  (List.range (mrCount r)).foldr (fun i acc =>
    let p := mrFirst r + i * mrPages r
    match acc, t.leaves.find p with
    | some l, some x => if x.size = mrSize r then some ((p, x) :: l) else none
    | _, _ => none) (some [])

/-- A handle that is not FREE meets a span of a tag. -/
def Slice.handleMeets (x : Slice) (tag va len : Nat) : Bool :=
  x.handles.any (fun h => h.2.state != 0 && h.2.tag == tag && decide (h.2.va < va + len) && decide (va < h.2.va + h.2.len))

/-- RUN_LOG2 becomes 0 in the pages of every block that a span touches (R175). -/
def clearRuns (page n : Nat) (l : Tab Leaf) : Tab Leaf :=
  l.each (fun p x =>
    let b := sizePages x.size * 2 ^ x.runLog2
    let lo := p / b * b
    if decide (lo < page + n) && decide (page < lo + b) then { x with runLog2 := 0 } else x)

/-- The check that UNMAP and PROTECT share: a status, or the entries. -/
def Fabric.unmapCheck (f : Fabric) (s op : Nat) (r : MapRec) : Byte × List (Nat × Leaf) :=
  match f.tag? (mrTag r) with
  | none => (0x0A, [])
  | some t =>
    if !f.mapForm s op r then (0x0A, [])
    else
      match t.spanLeaves r with
      | none => (0x03, [])
      | some l =>
        if (f.slice s).handleMeets (mrTag r) (mrVa r) (mrSpan r * 65536) then (0x08, [])
        else if op = 2 && l.any (fun e => !keySelOk (f.slice s).record e.2.target (mrKeySel r)) then (0x06, [])
        else (0x00, l)

/-- UNMAP (R175): an error status, or the record applied and awaiting its acknowledgement. -/
def Fabric.applyUnmapRec (f : Fabric) (s index : Nat) (r : MapRec) : Byte × Fabric :=
  let c := f.unmapCheck s 1 r
  if c.1 ≠ 0 then (c.1, f)
  else
    let phys := f.spanPhys (mrTag r) (mrFirst r) (mrSpan r)
    let f := f.onTag (mrTag r) (fun t => { t with
      leaves := clearRuns (mrFirst r) (mrSpan r) (t.leaves.filter (fun l => !leafMeets (mrFirst r) (mrSpan r) l)) })
    (0, (f.settleTables (mrTag r)).applyUnmap s (mrTag r) (mrVa r) (mrSpan r * 65536) (.record index ((f.slice s).tu.recordAddr index)) phys)

/-- PROTECT (R175). -/
def Fabric.applyProtect (f : Fabric) (s index : Nat) (r : MapRec) : Byte × Fabric :=
  let c := f.unmapCheck s 2 r
  if c.1 ≠ 0 then (c.1, f)
  else
    let phys := f.spanPhys (mrTag r) (mrFirst r) (mrSpan r)
    let f := f.onTag (mrTag r) (fun t => { t with
      leaves := clearRuns (mrFirst r) (mrSpan r) (c.2.foldl (fun l e => l.put e.1 { e.2 with write := mrWrite r, keySel := mrKeySel r }) t.leaves) })
    (0, f.applyUnmap s (mrTag r) (mrVa r) (mrSpan r * 65536) (.record index ((f.slice s).tu.recordAddr index)) phys)

/-- RESOLVE (R189). -/
def Fabric.applyResolve (f : Fabric) (s : Nat) (r : MapRec) : Byte × Fabric :=
  if !f.mapForm s 3 r then (0x0A, f)
  else
    match (f.slice s).tu.faults.find? (fun e => e.2.tag == mrTag r && e.2.page == mrFirst r) with
    | none => (0x0B, f)
    | some e => (0x01, if mrAction r = 0 then f.retryFault s e.1 else f.abortFault s e.1)

/-- UNMAP and PROTECT records of a slice that await acknowledgement. -/
def SliceTu.pendingAcks (u : SliceTu) : Nat :=
  (u.unmaps.filter (fun m => match m.kind with | .record _ _ => true | _ => false)).length

/-- The TU takes the next record of a slice's map queue. A record whose OP is another operation's is not this
command's; an OP above 3 is taken as a malformed record. -/
def Fabric.takeMap (f : Fabric) (s op : Nat) (r : MapRec) : Fabric :=
  let u := (f.slice s).tu
  if !mapqEnable u.base || u.applied == u.tail || leaving (f.slice s).state || f.rs.frozen || (mrOp r < 4 && mrOp r != op) then f
  else if mrOp r < 4 && (op == 1 || op == 2) && decide (16 ≤ u.pendingAcks) then f.onTu s (fun u => { u with stalled := true })
  else
    let index := u.applied.toNat
    let f := f.onTu s (fun u => { u with applied := u.applied + 1, unretired := u.unretired ++ [(index, false)], stalled := false })
    let a : Byte × Fabric :=
      if 4 ≤ mrOp r then (0x0A, f)
      else match op with
        | 0 => f.applyMap s r
        | 1 => f.applyUnmapRec s index r
        | 2 => f.applyProtect s index r
        | _ => f.applyResolve s r
    (if a.1 = 0 then a.2 else a.2.mapStatus s index a.1 false).settle

def execMap (slice : Nat) (record : BitVec 256) (s : State) : Host.Outcome State Fault Refusal := s.run (fun f => f.takeMap slice 0 record)
def execUnmap (slice : Nat) (record : BitVec 256) (s : State) : Host.Outcome State Fault Refusal := s.run (fun f => f.takeMap slice 1 record)
def execProtect (slice : Nat) (record : BitVec 256) (s : State) : Host.Outcome State Fault Refusal := s.run (fun f => f.takeMap slice 2 record)
def execResolve (slice : Nat) (record : BitVec 256) (s : State) : Host.Outcome State Fault Refusal := s.run (fun f => f.takeMap slice 3 record)

/-! ### The census (R185) -/

/-- A descriptor still runs or awaits Belay under a stale binding. -/
def Fabric.stillHolds (f : Fabric) (h : Nat × BitVec 32) : Bool :=
  match f.desc? h.1 h.2 with
  | some d => d.stale && (!(f.runningOn h.1 h.2).isEmpty || d.belay == .checking || d.insts.any (fun i => i.2.belay == .checking))
  | none => false
/-- A span of bytes meets an extent. -/
def Extent.meets (e : Extent) (addr n : Nat) : Bool := decide (addr < e.addr + e.len) && decide (e.addr < addr + n)
/-- A transfer of the slice that was on its way when an unmap was applied reaches what the span of the unmap reached (R185). -/
def Fabric.transferHolds (f : Fabric) (s : Nat) (m : Unmap) : Bool :=
  f.remotes.any (fun r => r.2.slice == s && decide (r.2.sentAt ≤ m.since)
      && m.phys.any (fun e => e.target == 2 && e.peer == r.2.peer && e.window == r.2.window && e.meets r.2.offset r.2.length))
    || f.cleat.regs.any (fun r => (r.2.waiting ++ r.2.out).any (fun u =>
        u.slice == some s && decide (u.since ≤ m.since) && (u.mi || u.window.isSome)
          && m.phys.any (fun e => (if r.1 = 48 then e.target == 1 else e.target == 0 && e.stack == r.1) && e.meets u.line 256)))
/-- An import that an unmap of its tags met. -/
def Fabric.importHolds (f : Fabric) (m : Unmap) : Bool :=
  match f.keys.imports with
  | i :: _ => i.unmapped.contains (m.tag, m.va, m.len)
  | [] => false

/-- An unmap is acknowledged: a record is DONE, a handle is FREE with its NOTE, a tag is destroyed. -/
def Fabric.ackUnmap (f : Fabric) (s : Nat) (m : Unmap) : Fabric :=
  match m.kind with
  | .record index _ =>
    (f.mapStatus s index 1 true).onTu s (fun u => { u with stalled := false })
  | .handle h =>
    let fn := (((f.slice s).handles.find h).map (·.fn)).getD 0
    let f := f.onSlice s (fun x => { x with handles := x.handles.del h })
    if (f.fn fn).silent then f
    else f.raise { source := srcTu, unit := centralUnit srcTu, cause := 0x0610, owners := [s], fns := [fn], syndrome := BitVec.ofNat 192 h }
  | .tag t req =>
    let f := { f with tags := f.tags.del t }
    let f := f.onTu s (fun u => { u with
      tcache := u.tcache.filter (fun e => e.1 != t), dcache := u.dcache.filter (fun e => e.1 != t)
      frames := u.frames.filter (fun e => e.2.tag != t) })
    f.replyOpt req (repOk)

/-- Pending unmaps in order, up to the first that a holding keeps back. `fuel` bounds them. -/
def Fabric.census (f : Fabric) (s : Nat) : Nat → Fabric
  | 0 => f
  | n + 1 =>
    match (f.slice s).tu.unmaps with
    | [] => f
    | m :: rest =>
      if m.holders.any f.stillHolds || f.transferHolds s m || f.importHolds m then f
      else Fabric.census ((f.onTu s (fun u => { u with unmaps := rest })).ackUnmap s m) s n
/-- Every slice takes its census. -/
def Fabric.censusAll (f : Fabric) : Fabric :=
  (f.slices.map (·.1)).foldl (fun f s => f.census s ((f.slice s).tu.unmaps.length + 1)) f

/-! ### Tags (R166 to R168) -/

def rowAstagCreate : Row :=
  { op := false, pf := true, slice := true, params := [(0x18, 2), (0x1A, 1), (0x1B, 1), (0x1C, 2)],
    range := fun _ p => decide (pfield p 0x18 2 < 4096) && decide (pfield p 0x1B 1 < 4) && decide (1 ≤ pfield p 0x1C 2) && decide (pfield p 0x1C 2 ≤ 1000),
    body := fun p _ f =>
      let n := pfield p 0x1A 1
      let s := if n = 0 then pslice p else ((f.fn n).slice).getD 64
      let t := pfield p 0x18 2
      if !f.sliceTakes s || (f.tag? t).isSome then (f, some (rep stState))
      else if recTags (f.slice s).record ≤ (f.tags.filter (fun e => e.2.slice == s)).length || 16384 ≤ f.tableFrames s then (f, some (rep stFull))
      else
        let tag : Tag := { fn := n, slice := s, parkEn := bitAt p.params 24, accEn := bitAt p.params 25, timeoutMs := pfield p 0x1C 2 }
        ({ f with tags := f.tags.put t tag }, some (repOk)) }

/-- What keeps a tag from being destroyed (R168). -/
def Fabric.tagBusy (f : Fabric) (n : Nat) (t : Tag) : Bool :=
  let x := f.slice t.slice
  x.handles.any (fun h => h.2.state != 0 && h.2.tag == n) || f.windows.any (fun w => w.2.state != 0 && w.2.tag == n)
    || x.pool.seqs.any (fun e => e.2.tag == n)

/-- The whole tag is unmapped; what was accepted and is not yet bound completes FAULT_TRANSLATION, and what is accepted from
now on fails its form check (R168). Its tables keep their frames until the acknowledgement. -/
def Fabric.destroyTag (f : Fabric) (n : Nat) (t : Tag) (req : Option Req) : Fabric :=
  let phys := t.spanPhys 0 (2 ^ 32)
  let f := f.onTag n (fun t => { t with destroying := true, destroyFrom := f.accepts })
  let waits := (f.descsOf t.slice).filter (fun e => e.2.stage != .accepted && e.2.stage != .bound
    && (match f.sq? e.1 with | some q => (e.2.view q).tag == n && ((e.2.view q).kind != 4) | none => false))
  let f := waits.foldl (fun f e => f.endWaiting e.1 e.2.seq 4) f
  let f := f.onTag n (fun t => { t with lost := [] })
  f.applyUnmap t.slice n 0 (2 ^ 48) (.tag n req) phys

def rowAstagDestroy : Row :=
  { op := false, pf := true, params := [(0x18, 2)], range := fun _ p => decide (pfield p 0x18 2 < 4096),
    body := fun p r f =>
      let n := pfield p 0x18 2
      match f.tag? n with
      | none => (f, some (rep stState))
      | some t =>
        if t.destroying || f.tagBusy n t || leaving (f.slice t.slice).state then (f, some (rep stState))
        else ((f.destroyTag n t (some r)).settle, none) }

/-! ### Windows (R196) -/

/-- The extents of a window over a range of a tag, or the binding cause that refuses it. -/
def Fabric.bindWindow (f : Fabric) (s n : Nat) (t : Tag) (va len : Nat) (writes : Bool) : List Extent ⊕ Nat :=
  let v : View := view3 0
  match f.bindRange s n t v f.accepts writes (va, len) with
  | .ok e => if 4096 < e.length then .inr 11 else .inl e
  | .fail c _ => .inr c
  | .park c _ => .inr c

/-- Extents held by all windows: a table of 65,536. -/
def Fabric.windowExtents (f : Fabric) : Nat := (f.windows.map (fun w => w.2.extents.length)).sum

def rowWinOpen : Row :=
  { op := false, pf := true,
    params := [(0x18, 2), (0x1A, 2), (0x1C, 1), (0x1D, 1), (0x1E, 2), (0x20, 8), (0x28, 4), (0x2C, 1), (0x30, 16)],
    range := fun f p =>
      let scratch := pfield p 0x1C 1 == 1
      let va := pfield p 0x20 8
      let len := pfield p 0x28 4
      decide (pfield p 0x18 2 < 1024) && decide (pfield p 0x1A 2 < 4096) && decide (pfield p 0x1C 1 ≤ 1) && decide (pfield p 0x1D 1 < 4)
        && decide (1 ≤ len) && decide (len ≤ 2 ^ 21)
        && (if scratch then decide (va < 2 ^ 32) else decide (va % 65536 = 0) && decide (va + len * 65536 ≤ 2 ^ 48) && pfield p 0x2C 1 == 0)
        && (match f.tag? (pfield p 0x1A 2) with | some t => decide (pfield p 0x1E 2 < recLinkKeys (f.slice t.slice).record) | none => true),
    body := fun p _ f =>
      let w := pfield p 0x18 2
      let n := pfield p 0x1A 2
      match f.tag? n with
      | none => (f, some (rep stState))
      | some t =>
        if (f.window w).state != 0 || (f.window w).closing.isSome || t.destroying || !f.sliceTakes t.slice then (f, some (rep stState))
        else
          let scratch := pfield p 0x1C 1 == 1
          let perm := pfield p 0x1D 1
          let va := pfield p 0x20 8
          let len := pfield p 0x28 4 * 65536
          let win : Window :=
            { state := 1, slice := t.slice, tag := n, va := if scratch then 0 else va, len := len, scratch := scratch, perm := perm,
              jobKey := pfield p 0x1E 2, sources := ((List.range 8).map (fun i => pfield p (0x30 + 2 * i) 2)).filter (· != 0xFFFF),
              spOffset := if scratch then va else 0 }
          if scratch then
            match (f.slice t.slice).engines[pfield p 0x2C 1]? with
            | none => (f, some (rep stForm))
            | some k => ({ f with windows := f.windows.put w { win with engine := k } }, some (repOk))
          else
            let f := f.walkRange t.slice n true (len / 65536 + 2) va len
            match f.bindWindow t.slice n t va len (perm / 2 % 2 == 1) with
            | .inr c => (f, some (repCheck c))
            | .inl e =>
              if 65536 < f.windowExtents + e.length then (f, some (rep stFull))
              else ({ f with windows := f.windows.put w { win with extents := e } }, some (repOk [(0x20, 2, e.length)])) }

/-- A closing window whose accepted requests are complete is CLOSED and answered (R196). What IRX_WINDOW shows of a closed
window besides its state is open; the model clears it all to 0 (DESIGN CHOICE). -/
def Fabric.settleWindow (f : Fabric) (w : Nat) : Fabric :=
  let x := f.window w
  match x.closing with
  | some r =>
    if x.inFlight = 0 then (({ f with windows := f.windows.put w {} }).reply r (repOk)).settleHandles x.slice else f
  | none => f

def rowWinClose : Row :=
  { op := false, pf := true, params := [(0x18, 2)], range := fun _ p => decide (pfield p 0x18 2 < 1024),
    body := fun p r f =>
      let w := pfield p 0x18 2
      let x := f.window w
      if x.state = 0 || x.closing.isSome || leaving (f.slice x.slice).state then (f, some (rep stState))
      else ((f.onWindow w (fun y => { y with closing := some r })).settleWindow w, none) }

/-! ### Access counters (R195) -/

/-- The word of a 2 MiB region: WRITE_UNITS and READ_UNITS where it is mapped, else 0. -/
def Tag.accessWord (t : Tag) (region : Nat) : BitVec 32 :=
  if !t.destroying && t.leaves.any (leafMeets (region * 32) 32) then
    let c := t.access.getD region (0, 0)
    BitVec.ofNat 32 (c.1 * 65536 + c.2)
  else 0

/-- ACC_SNAPSHOT: the reply follows the last write (R195). -/
def rowAccSnapshot : Row :=
  { op := false, pf := true, params := [(0x18, 2), (0x1A, 1), (0x1C, 4), (0x20, 8), (0x28, 8)],
    range := fun _ p => decide (pfield p 0x18 2 < 4096) && decide (pfield p 0x1A 1 ≤ 1) && decide (1 ≤ pfield p 0x1C 4)
      && decide (pfield p 0x1C 4 ≤ 524288) && decide (pfield p 0x20 8 % 2 ^ 21 = 0) && decide (pfield p 0x20 8 + pfield p 0x1C 4 * 2 ^ 21 ≤ 2 ^ 48)
      && decide (pfield p 0x28 8 % 4096 = 0),
    body := fun p q f =>
      let n := pfield p 0x18 2
      match f.tag? n with
      | none => (f, some (rep stState))
      | some t =>
        if leaving (f.slice t.slice).state then (f, some (rep stState))
        else
          let first := pfield p 0x20 8 / 2 ^ 21
          let k := pfield p 0x1C 4
          let words := (List.range k).map (fun i => t.accessWord (first + i))
          let f := if pfield p 0x1A 1 = 1 then
              f.onTag n (fun t => { t with access := t.access.filter (fun a => decide (a.1 < first) || decide (first + k ≤ a.1)) })
            else f
          (f.hostAnswer (some t.slice) (4 * k) (.accessCopy (pfield p 0x28 8) words) q, none) }

/-- ASTAG_CREATE. -/
def execAstagCreate (p : Packet) (s : State) : Host.Outcome State Fault Refusal := s.run (control rowAstagCreate p)
/-- ASTAG_DESTROY. -/
def execAstagDestroy (p : Packet) (s : State) : Host.Outcome State Fault Refusal := s.run (control rowAstagDestroy p)
/-- WIN_OPEN. -/
def execWinOpen (p : Packet) (s : State) : Host.Outcome State Fault Refusal := s.run (control rowWinOpen p)
/-- WIN_CLOSE. -/
def execWinClose (p : Packet) (s : State) : Host.Outcome State Fault Refusal := s.run (control rowWinClose p)
/-- ACC_SNAPSHOT. -/
def execAccSnapshot (p : Packet) (s : State) : Host.Outcome State Fault Refusal := s.run (control rowAccSnapshot p)

end Sys2Proof.Machine
end

