-- ==== Sys2Proof/Machine/Cau.lean ====
section
/-! DEFINITION. The Check Arithmetic Unit's jobs (R232 to R237, R261, R268) and the packets of Belay and of replica sets
(R269 to R276). -/

namespace Sys2Proof.Machine

/-! ### What a lane reads -/

/-- The first `n` bytes of extents of a slice, through their key selectors (R237, R309). Bytes outside device memory come
with the job, listed under their virtual address. -/
def Fabric.laneRead (f : Fabric) (remote : List Host.Cell) (s : Nat) (ext : List Extent) (n : Nat) : List Byte :=
  (List.range n).map (fun i =>
    match walkExtents ext i with
    | some (e, o) =>
      if e.target = 0 then f.keyedByte (f.slotOfSel s e.keySel) (devKey e.stack (e.addr + o))
      else ((remote.find? (fun c => c.1 == e.va + o)).map (·.2)).getD (Config.freeByte (e.va + o))
    | none => Config.freeByte i)

/-- Outcomes in rising order of harm: PASS, UNCHECKED, MISMATCH, result unreadable, operand unreadable (R266). -/
def harm (o : Nat) : Nat := match o with | 0 => 0 | 2 => 1 | 1 => 2 | n => n
def worse (a b : Nat) : Nat := if harm a < harm b then b else a

/-- One CRC for the members of a tile: that of the only one, or one over theirs. -/
def joinCrc (l : List (BitVec 32)) : BitVec 32 := match l with | [c] => c | l => crc32c (l.flatMap (fun c => leBytes 4 c.toNat))

/-- Project every member of a tile with its result in memory (R235, R236, R266): the outcome, the CRC of v, and what the
lane's accumulator files are left with (R233). -/
def Fabric.projectRun (f : Fabric) (remote : List Host.Cell) (q : Nat) (x : Sq) (n : BitVec 32) (d : Desc) (inst : Nat) (r : RunResult) :
    Nat × BitVec 32 × List (BitVec 576) × List (BitVec 576) :=
  let l := (n :: d.members).zipIdx.filterMap (fun m => (x.desc? m.1).map (fun e =>
    let v := e.view x
    let s := shapeOf (r.shapeAt m.2)
    let parts := (projParts v e s inst).map (fun p => f.laneRead remote x.slice p ((p.map (·.len)).sum))
    let c := parts.getD 0 []
    let a := parts.getD 1 []
    let b := parts.getD 2 []
    let md := parts.getD 3 []
    let signs := projSigns f.cau.projKey inst q m.1 s.m
    (project s v.sparse a b c md signs, accFiles s v.sparse a b md signs)))
  (l.foldl (fun o e => worse o e.1.1) 0, joinCrc (l.map (·.1.2)), ((l.getLast?).map (·.2)).getD ([], []))

/-- Check the checksum row of every member (R268). -/
def Fabric.rowRun (f : Fabric) (remote : List Host.Cell) (x : Sq) (n : BitVec 32) (d : Desc) (inst : Nat) (r : RunResult) : Nat :=
  ((n :: d.members).zipIdx.filterMap (fun m => (x.desc? m.1).map (fun e =>
    let s := shapeOf (r.shapeAt m.2)
    checkRow s (f.laneRead remote x.slice (rowPart (e.view x) e s inst) (elemBytes s.fc ((s.m + 1) * s.n)))))).foldl worse 0

/-- What reading made of an outcome: range 0 unreadable is UNREADABLE on the result, any other on an operand. -/
def readOutcome (unreadable : List Nat) (o : Nat) : Nat :=
  if unreadable.any (· != 0) then 4 else if unreadable.contains 0 then 3 else o

/-! ### Counting and the lane rule (R243, R261) -/

/-- A projection ended with an outcome. -/
def Fabric.countProjection (f : Fabric) (o : Nat) : Fabric :=
  f.onCau (fun c => { c with
    projCnt := (c.projCnt + 1) % 2 ^ 32
    mismatchCnt := if o = 1 then satAdd 16 c.mismatchCnt 1 else c.mismatchCnt
    uncheckedCnt := if 2 ≤ o then satAdd 16 c.uncheckedCnt 1 else c.uncheckedCnt })
def Fabric.countArbitration (f : Fabric) : Fabric := f.onCau (fun c => { c with arbCnt := satAdd 16 c.arbCnt 1 })

/-- A lane that was outvoted leaves service; the FC receives a CORRECTED record. -/
def Fabric.dropLane (f : Fabric) (lane : Nat) : Fabric :=
  (f.onCau (fun c => { c with lanesOut := if c.lanesOut.contains lane then c.lanesOut else c.lanesOut ++ [lane] })).raiseCentral
    srcCau 0x0405 [] (BitVec.ofNat 192 lane)

/-- The check's next computation of v. -/
def Fabric.askAgain (f : Fabric) (q : Nat) (n : BitVec 32) (i : Option Nat) (avoid : List Nat) : Fabric :=
  match f.sq? q with
  | none => f
  | some x =>
    let r := f.addJob (.arbitrate q n (i.getD 0)) x.slice avoid
    (r.2.onCheck q n i (fun c => { c with job := some r.1 })).assignLanes 12

/-- A computation of v on the projection path: two that differ are settled by a third lane before the verdict. -/
def Fabric.laneRule (f : Fabric) (q : Nat) (n : BitVec 32) (i : Option Nat) (lane : Nat) (crc : BitVec 32) (outcome : Nat) : Fabric :=
  match f.getCheck q n i with
  | none => f
  | some c =>
    let keep (f : Fabric) : Fabric := f.onCheck q n i (fun c => { c with lastLane := some lane, lastCrc := some crc, altCrc := none })
    match c.lastLane, c.lastCrc, c.altCrc with
    | some l1, some c1, none =>
      if c1 = crc || l1 = lane then (keep f).projectionVerdict q n i outcome
      else (f.onCheck q n i (fun c => { c with altCrc := some (lane, crc) })).askAgain q n i [l1, lane]
    | some l1, some c1, some (l2, c2) =>
      let f := (if crc = c1 then f.dropLane l2 else if crc = c2 then f.dropLane l1
        else f.raiseCentral srcCau 0x0405 [] (syn3 c1.toNat c2.toNat crc.toNat) (some 3))
      (keep f).askAgain q n i [lane]
    | _, _, _ => (keep f).projectionVerdict q n i outcome

/-! ### Ends of jobs -/

/-- A projection or an arbitration recomputation ends. -/
def Fabric.checkDone (f : Fabric) (j : Job) (arbitrate : Bool) (q : Nat) (n : BitVec 32) (inst : Nat) (unreadable : List Nat) (remote : List Host.Cell) : Fabric :=
  match f.sq? q, f.desc? q n with
  | some x, some d =>
    let i := if (d.view x).cond then some inst else none
    match f.getCheck q n i with
    | none => f
    | some c =>
      if c.job != some j.id then f
      else
        let f := f.onCheck q n i (fun c => { c with job := none })
        let p := f.projectRun remote q x n d inst c.inMemory
        let o := readOutcome unreadable p.1
        let f := if 3 ≤ o then f else f.onCau (fun y => { y with files := y.files.put (j.lane.getD 0) p.2.2, served := y.served.put (j.lane.getD 0) x.slice })
        let f := if arbitrate then f.countArbitration else f.countProjection o
        if !c.projection then f.arbitrationVerdict q n i o
        else if 3 ≤ o then f.projectionVerdict q n i o
        else f.laneRule q n i (j.lane.getD 0) p.2.1 o
  | _, _ => f

/-- A checksum row's job ends: MISMATCH and UNREADABLE are the trigger CHECKSUM_ROW, and the verdict follows (R268). -/
def Fabric.rowDone (f : Fabric) (j : Job) (q : Nat) (n : BitVec 32) (inst : Nat) (unreadable : List Nat) (remote : List Host.Cell) : Fabric :=
  match f.sq? q, f.desc? q n with
  | some x, some d =>
    let v := d.view x
    let i := if v.cond then some inst else none
    match f.getCheck q n i with
    | none => f
    | some c =>
      if c.job != some j.id then f
      else
        let o := if unreadable.isEmpty then f.rowRun remote x n d inst c.run1 else 3
        let f := f.countProjection o
        let trig : BitVec 6 := if o = 1 || o = 3 then c.triggers ||| 1 else c.triggers
        let nr := (n :: d.members).any (fun m => match x.desc? m with | some e => (e.view x).nonReplay | none => false)
        f.judge q n i x.slice nr trig c.run1
  | _, _ => f

/-- A digest job ends (R237, R270). -/
def Fabric.digestDone (f : Fabric) (set m : Nat) (j : Job) (unreadable : List Nat) (remote : List Host.Cell) : Fabric :=
  let x := (f.replica set).members.getD m {}
  if x.job != some j.id then f
  else
    let data := if unreadable.isEmpty then (f.memberExtents set m).map (fun e => f.laneRead remote x.slice e x.len) else none
    match data with
    | none => f.onMember set m (fun y => { y with state := 5, job := none })
    | some l =>
      (f.onCau (fun c => { c with digestBytes := c.digestBytes + x.len })).onMember set m
        (fun y => { y with digest := ofBytes 384 (sha384 l), job := none })

/-- A CAU job ends on its lane. A job that was discarded, or that holds no lane, has no effect (R232). -/
def Fabric.cauDone (f : Fabric) (id : Nat) (unreadable : List Nat) (remote : List Host.Cell) : Fabric :=
  match f.cau.jobs.find? (fun j => j.id == id && j.lane.isSome) with
  | none => f
  | some j =>
    let f := f.dropCau (fun k => k.id == id)
    let f := match j.kind with
      | .arbitrate q n i => f.checkDone j true q n i unreadable remote
      | .project q n i => f.checkDone j false q n i unreadable remote
      | .checkRow q n i => f.rowDone j q n i unreadable remote
      | .digest set m => f.digestDone set m j unreadable remote
    f.settle
def execCauJobDone (job : Nat) (unreadable : List Nat) (remote : List Host.Cell) (s : State) : Host.Outcome State Fault Refusal :=
  s.run (fun f => f.cauDone job unreadable remote)

/-! ### Belay packets (R276, R428) -/

def rowBelayAuditSet : Row :=
  { slice := true, params := [(0x18, 1)], range := fun _ p => decide (pfield p 0x18 1 ≤ 16) || pfield p 0x18 1 == 31,
    body := fun p r f =>
      let st := (f.slice (pslice p)).state
      if st == .created || st == .active || st == .resetting then
        (f.onSlice (pslice p) (fun x => { x with auditNext := x.auditNext ++ [(pfield p 0x18 1, r)] }), none)
      else (f, some (rep stState)) }

def rowBelayWatch : Row :=
  { params := [(0x18, 1), (0x19, 1)], range := fun _ p => decide (pfield p 0x19 1 ≤ 1),
    body := fun p _ f =>
      let k := pfield p 0x18 1
      if pfield p 0x19 1 = 1 then (f.unwatch k, some (repOk))
      else if !f.engineIn k then (f, some (rep stState))
      else (f.watchEngine k 4, some (repOk)) }

/-- Held descriptors of a slice in acceptance order, until they complete (R264). -/
def Fabric.heldOf (f : Fabric) (s : Nat) : List (Nat × Desc) := sortBy (fun e => e.2.order) ((f.descsOf s).filter (fun e => e.2.belay == .held))

def rowBelayHeldQuery : Row :=
  { pf := true, slice := true, params := [(0x18, 2)],
    body := fun p _ f =>
      let l := f.heldOf (pslice p)
      let n := (l.length, l[pfield p 0x18 2]?)
      (f, some (repOk (match n.2 with
        | some e => [(0x20, 2, n.1), (0x22, 2, e.1), (0x24, 4, e.2.seq.toNat)]
        | none => [(0x20, 2, n.1), (0x22, 2, 0xFFFF)]))) }

/-! ### Replica packets (R269 to R273, R428) -/

def setOk (p : Packet) : Bool := decide (pfield p 0x18 1 < 16)
def memberOk (p : Packet) : Bool := setOk p && decide (pfield p 0x19 1 < 8)

def rowReplicaDefine : Row :=
  { slice := true, params := [(0x18, 1), (0x19, 1), (0x1A, 2), (0x20, 8), (0x28, 8)],
    range := fun _ p => memberOk p && decide (pfield p 0x1A 2 < 4096) && decide (pfield p 0x20 8 % 65536 = 0)
      && decide (pfield p 0x28 8 % 65536 = 0) && decide (pfield p 0x28 8 ≤ 2 ^ 40) && decide (pfield p 0x20 8 + pfield p 0x28 8 ≤ 2 ^ 48),
    body := fun p _ f =>
      let set := pfield p 0x18 1
      let m := pfield p 0x19 1
      let len := pfield p 0x28 8
      if (f.replica set).result = 1 then (f, some (rep stState))
      else if len = 0 then (f.onReplica set (fun r => { r with members := r.members.del m }), some (repOk))
      else
        match f.tag? (pfield p 0x1A 2) with
        | some t =>
          if t.slice != pslice p then (f, some (rep stState))
          else
            let new : Member := { state := 1, slice := pslice p, tag := pfield p 0x1A 2, va := pfield p 0x20 8, len := len }
            (f.onReplica set (fun r => { r with members := r.members.put m new }), some (repOk))
        | none => (f, some (rep stState)) }

/-- Start the digest job of each member that is checked, in member order (R270). -/
def Fabric.startCheck (f : Fabric) (set : Nat) : Fabric :=
  (f.replica set).members.foldl (fun f m =>
    if m.2.state = 1 || m.2.state = 3 || m.2.state = 4 || m.2.state = 5 then
      let j := f.addJob (.digest set m.1) m.2.slice []
      (j.2.onMember set m.1 (fun x => { x with state := 2, job := some j.1 })).assignLanes 12
    else f) f

def rowReplicaCheck : Row :=
  { pf := true, params := [(0x18, 1), (0x19, 1)], range := fun _ p => setOk p && decide (pfield p 0x19 1 ≤ 1),
    body := fun p r f =>
      let set := pfield p 0x18 1
      let x := f.replica set
      if x.result = 1 || x.members.length < 2 || (x.members.map (·.2.len)).eraseDups.length != 1 then (f, some (rep stState))
      else
        let oper := match p.path with | .mailbox _ => true | .fn _ => false
        let f := f.onReplica set (fun y => { y with result := 1, req := some r, autoExpel := oper && pfield p 0x19 1 == 1 })
        ((f.startCheck set).settle, none) }

def rowReplicaExpel : Row :=
  { params := [(0x18, 1), (0x19, 1)], range := fun _ p => memberOk p,
    body := fun p _ f =>
      let set := pfield p 0x18 1
      let m := pfield p 0x19 1
      if ((f.replica set).members.find m).isNone then (f, some (rep stState))
      else ((f.expel set m).settle, some (repOk)) }

/-- BELAY_AUDIT_SET. -/
def execBelayAuditSet (p : Packet) (s : State) : Host.Outcome State Fault Refusal := s.run (control rowBelayAuditSet p)
/-- BELAY_WATCH. -/
def execBelayWatch (p : Packet) (s : State) : Host.Outcome State Fault Refusal := s.run (control rowBelayWatch p)
/-- BELAY_HELD_QUERY. -/
def execBelayHeldQuery (p : Packet) (s : State) : Host.Outcome State Fault Refusal := s.run (control rowBelayHeldQuery p)
/-- REPLICA_DEFINE. -/
def execReplicaDefine (p : Packet) (s : State) : Host.Outcome State Fault Refusal := s.run (control rowReplicaDefine p)
/-- REPLICA_CHECK. -/
def execReplicaCheck (p : Packet) (s : State) : Host.Outcome State Fault Refusal := s.run (control rowReplicaCheck p)
/-- REPLICA_EXPEL. -/
def execReplicaExpel (p : Packet) (s : State) : Host.Outcome State Fault Refusal := s.run (control rowReplicaExpel p)

end Sys2Proof.Machine
end

