-- ==== Sys2Proof/Machine/Windows.lean ====
section
/-! DEFINITION. Link ingress (R313 to R315), the Window Gate (R196 to R198) and remote requests (R199). -/

namespace Sys2Proof.Machine

/-! ### Link ingress (R315) -/

def Fabric.onDrop (f : Fabric) (p : Nat) (g : LinkDrop → LinkDrop) : Fabric :=
  f.onKeys (fun k => { k with drops := k.drops.upd p {} g })

/-- A slice holds a port, which is in the pool (R52), and a virtual lane of it. -/
def Fabric.holdsVl (f : Fabric) (s p vl : Nat) : Bool :=
  let x := f.slice s
  holds x.state && f.portIn p && bitAt (recPorts x.record) p && bitAt (BitVec.ofNat 8 (recVl x.record p)) vl

/-- Why a tag does not match: its slice is being removed or its key revoked, or it is unknown. -/
inductive Match where
  | key (k : Nat)
  | removed (slice : Nat)
  | unknown
deriving DecidableEq, Repr

/-- Check 3 of R315. A tag of a slice in removal stays one after its keys are EMPTY. -/
def Fabric.matchKey (f : Fabric) (u : LinkUnit) : Match :=
  if u.vl = 7 then
    (if u.keyTag ≠ 0xFFFF then .unknown
     else match f.keys.cluster with
      | 1 => .key wireCluster
      | 2 => if f.keyZeroed 4 0 then .unknown else .removed 64
      | _ => .unknown)
  else if u.keyTag = 0 then
    (match f.keys.hop.getD u.port 0 with
      | 1 => .key wireHop
      | 2 => if f.keyZeroed 3 u.port then .unknown else .removed 64
      | _ => .unknown)
  else
    match f.keys.links.find? (fun k => k.2.tag == u.keyTag && k.2.state != 0
        && f.holdsVl k.2.slice u.port u.vl) with
    | none =>
      (match f.keys.links.find? (fun k => k.2.tag == u.keyTag && !f.keyZeroed 2 k.1 && (k.2.state == 2 || leaving (f.slice k.2.slice).state)) with
        | some k => .removed k.2.slice
        | none =>
          match f.slices.find? (fun e => leaving e.2.state && e.2.oldTags.contains u.keyTag) with
          | some e => .removed e.1
          | none => .unknown)
    | some k =>
      if f.keyZeroed 2 k.1 then .unknown else if k.2.state = 2 ∨ leaving (f.slice k.2.slice).state = true then .removed k.2.slice else .key k.1

/-- Where the last accepted counter of a port, key and VL is kept. -/
def rxKey (u : LinkUnit) (k : Nat) : Nat := ctrKey u.port k u.vl

/-- A received unit passes the checks in order, or is dropped and counted; the key that it matched. -/
def Fabric.ingress (f : Fabric) (u : LinkUnit) : Option Nat × Fabric :=
  if u.length ≠ 24 + u.payload ∨ u.payload < 16 ∨ 256 < u.payload ∨ u.payload % 16 ≠ 0 then
    (none, f.onDrop u.port (fun d => { d with len := satAdd 10 d.len 1 }))
  else if !u.crcOk then (none, f.onDrop u.port (fun d => { d with crc := satAdd 10 d.crc 1 }))
  else
    match f.matchKey u with
    | .unknown => (none, f.onDrop u.port (fun d => { d with unknown := satAdd 10 d.unknown 1 }))
    | .removed s =>
      let g := f.onDrop u.port (fun d => { d with removed := satAdd 10 d.removed 1 })
      (none, if leaving (f.slice s).state then g.onSlice s (fun x => { x with peerDrops := satAdd 16 x.peerDrops 1 }) else g)
    | .key k =>
      let last := f.keys.rxLast.getD (rxKey u k) 0
      let d := (u.ctrLo - BitVec.ofNat 40 last).toNat
      if d = 0 ∨ 2 ^ 39 < d then (none, f.onDrop u.port (fun d => { d with replay := satAdd 10 d.replay 1, seen := true }))
      else if !u.authOk then (none, f.onDrop u.port (fun d => { d with auth := satAdd 10 d.auth 1, seen := true }))
      else (some k, f.onKeys (fun x => { x with rxLast := x.rxLast.put (rxKey u k) (last + d) }))

/-- What a message of VL 7 does that passes the checks, under the cluster key (R313, R315). -/
def Fabric.fromPeer (f : Fabric) (u : LinkUnit) (g : Fabric → Fabric) : Fabric :=
  let r := f.ingress u
  if r.1 = some wireCluster then g r.2 else r.2

/-! ### Traffic on a slice's lanes -/

/-- A transfer of a slice under a key and a VL waits at a link port; its message leaves with the last unit. A chip without a
number sends nothing (R280), nothing is sent for a slice that is being removed (R333) or on a retired port (R52), and a port
without the key sends no unit that needs it (R313). -/
def Fabric.sendSlice (f : Fabric) (s cls p n key vl : Nat) (m : LinkMsg) : Fabric :=
  if f.splice.chip = 0 || leaving (f.slice s).state || !f.portIn p || !f.wireReady p key then f
  else
    let l := splitUnits (max n 1)
    l.zipIdx.foldl (fun f u => f.offer (16 + p)
      { slice := some s, cls := cls, charge := chargeOf u.1.2, wire := some (key, vl, payloadOf u.1.2),
        msg := if u.2 + 1 = l.length then some m else none }) f
/-- The VL that a slice's requests use on a port: the lowest that it holds there (DESIGN CHOICE: R313 says the slice's VL). -/
def Fabric.vlOn (f : Fabric) (s p : Nat) : Nat := ((List.range 7).find? (fun v => bitAt (BitVec.ofNat 7 (recVl (f.slice s).record p)) v)).getD 0

/-! ### The Window Gate (R197, R198) -/

/-- The code with which the WG answers a request. -/
def Fabric.windowCode (f : Fabric) (u : LinkUnit) (key : Nat) (src offset len : Nat) (write : Bool) (w : Window) : Nat :=
  let k := f.keys.links.getD key {}
  if w.state = 0 || w.closing.isSome || !f.holdsVl w.slice u.port u.vl then 1
  else if w.state = 2 then 7
  else if key ≥ 1024 || k.slice != w.slice || k.loc != w.jobKey then 2
  else if !w.sources.contains src then 3
  else if (w.scratch && !write) || !bitAt (BitVec.ofNat 2 w.perm) (if write then 1 else 0) then 4
  else if w.len < offset + len || len < 64 || 4096 < len || len % 64 ≠ 0 || offset / 4096 ≠ (offset + len - 1) / 4096 then 5
  else if w.scratch && !(match (f.engine w.engine).running with | some r => r.nonReplay && r.slice == w.slice | none => false) then 6
  else 0

/-- IRX_WG_REFUSED counts a refusal in the slice of the arrival lane. -/
def Fabric.countRefusal (f : Fabric) (s code : Nat) : Fabric :=
  let i := match code with | 1 => 0 | 2 => 1 | 3 => 2 | 6 => 4 | _ => 3
  f.onTu s (fun t => { t with windowCnt := t.windowCnt.zipIdx.map (fun e => if e.2 = i then satAdd 12 e.1 1 else e.1) })

/-- The slice that holds a virtual lane of a port. -/
def Fabric.laneOwner (f : Fabric) (p vl : Nat) : Option Nat := ((f.slices.find? (fun e => f.holdsVl e.1 p vl)).map (·.1))

/-- An accepted request of a memory window passes the regulators in units of at most 256 bytes; written bytes reach memory as
their units are granted (R205). -/
def Fabric.windowAccess (f : Fabric) (u : LinkUnit) (n : Nat) (w : Window) (offset len : Nat) (write : Bool) (data : List Byte) : Fabric :=
  (splitUnits len).foldl (fun f p =>
    match walkExtents w.extents (offset + p.1) with
    | none => f
    | some (e, o) =>
      let a := e.addr + o
      let f := f.onWindow n (fun w => { w with inFlight := w.inFlight + 1 })
      let part := if write then (data.drop p.1).take p.2 else []
      f.offer (if e.target = 0 then e.stack else 48)
        { slice := some w.slice, cls := 3, charge := if e.target = 0 then 256 else chargeOf p.2, write := write, line := a,
          chan := a / 256 % Config.channels, keySlot := f.slotOfSel w.slice e.keySel,
          window := some (n, devKey e.stack a), port := u.port, request := u.ctrLo.toNat, data := part,
          wire := some (f.jobKeyNo w.slice w.jobKey, u.vl, payloadOf p.2),
          store := if write && e.target == 0 then some (devKey e.stack a, part) else none,
          send := if write && e.target == 1 then [.hostCopy a 1 (part.map (fun b => b.setWidth 64))] else [] }) f

/-- A peer's request reaches the Window Gate. An accepted write of a scratchpad window goes to its engine (R196, R198). -/
def Fabric.takeWindow (f : Fabric) (u : LinkUnit) (src n offset len : Nat) (write : Bool) (data : List Byte) : Fabric :=
  let a := f.ingress u
  match a.1 with
  | none => a.2
  | some key =>
    let f := a.2
    let w := f.window n
    let code := f.windowCode u key src offset len write w
    let s := (f.laneOwner u.port u.vl).getD 64
    let f := f.sendSlice s 3 u.port 64 key u.vl (.windowReply u.ctrLo.toNat code)
    if code ≠ 0 then f.countRefusal s code
    else
      let f := f.onWindow n (fun w => { w with reqCnt := (w.reqCnt + 1) % 2 ^ 32 })
      if w.scratch then f.emit (.scratchWrite w.engine (w.spOffset + offset) data)
      else
        let f := f.onTag w.tag (fun t =>
          if !t.accEn then t
          else { t with access := t.access.upd ((w.va + offset) / 2 ^ 21) (0, 0) (fun c => if write then (satAdd 16 c.1 1, c.2) else (c.1, satAdd 16 c.2 1)) })
        f.windowAccess u n w offset len write data
def execWindowRequest (u : LinkUnit) (src window offset len : Nat) (write : Bool) (data : List Byte) (s : State) : Host.Outcome State Fault Refusal :=
  s.run (fun f => f.takeWindow u src window offset len write data)

/-! ### Remote requests of this chip (R199) -/

/-- An engine or a DMA engine puts a remote request on a link port of its slice. -/
def Fabric.sendRemote (f : Fabric) (p k : Nat) (dma : Bool) (s jobKey peer window offset len : Nat) (write : Bool) : Fabric :=
  let x := f.slice s
  let mine := if dma then f.hasDma x k && !f.goingOut 1 k else x.hasEngine k
  if !(x.state == .active || x.state == .resetting) || !mine || !x.ports.contains p || !(f.portsTo x peer).contains p || f.splice.chip = 0 then f
  else
    let n := f.nextRemote
    let r : RemoteReq := { port := p, engine := k, dma := dma, slice := s, peer := peer, window := window, offset := offset, length := len, sentAt := f.now }
    let f := { f with remotes := f.remotes.put n r, nextRemote := n + 1 }
    f.sendSlice s (if dma then 2 else if write then 1 else 0) p (if write then len else 64) (f.jobKeyNo s jobKey) (f.vlOn s p)
      (.remote peer window offset len write)
def execLinkRemoteRequest (port engine : Nat) (dma : Bool) (key : SliceKey) (peer window offset length : Nat) (write : Bool) (s : State) :
    Host.Outcome State Fault Refusal :=
  s.run (fun f => f.sendRemote port engine dma key.slice key.jobKey peer window offset length write)

/-- The tile that a request belongs to is cut off and completes with a status. -/
def Fabric.failRemote (f : Fabric) (r : RemoteReq) (status : Nat) : Fabric :=
  if r.dma then f
  else
    match (f.engine r.engine).running with
    | some t =>
      if t.slice = r.slice ∧ t.startAt ≤ r.sentAt then
        (f.onEngine r.engine (fun e => { e with running := some { t with onEnd := t.onEnd.or (some status) } })).abortRun r.engine
      else f
    | none => f

/-- The NOTE about a refused request (R199). -/
def Fabric.refusedNote (f : Fabric) (r : RemoteReq) (code : Nat) : Fabric :=
  let syn := syn3 code r.peer r.port
  let plain : FRec := { source := srcPort r.port, unit := unitId 4 0 r.port, cause := 0x0803, owners := [r.slice], syndrome := syn }
  if r.dma then f.raise plain
  else
    match (f.engine r.engine).running with
    | some t =>
      (match f.sq? t.sq, f.desc? t.sq t.seq with
        | some x, some d => f.raise (descRec t.sq x d (srcPort r.port) (unitId 4 0 r.port) 0x0803 syn)
        | _, _ => f.raise plain)
    | none => f.raise plain

/-- A peer's reply arrives. -/
def Fabric.takeReply (f : Fabric) (u : LinkUnit) (n code : Nat) : Fabric :=
  let a := f.ingress u
  match a.1, a.2.remotes.find n with
  | some _, some r =>
    let f := { a.2 with remotes := a.2.remotes.del n }
    if code = 0 then f else (f.refusedNote r code).failRemote r 3
  | _, _ => a.2
def execWindowReply (u : LinkUnit) (request code : Nat) (s : State) : Host.Outcome State Fault Refusal :=
  s.run (fun f => f.takeReply u request code)

/-- No reply came in 20 µs. -/
def Fabric.remoteLate (f : Fabric) (n : Nat) : Fabric :=
  match f.remotes.find n with
  | some r => (({ f with remotes := f.remotes.del n } : Fabric).advance (r.sentAt + 20000)).failRemote r 8
  | none => f
def execWindowRequestTimeout (request : Nat) (s : State) : Host.Outcome State Fault Refusal := s.run (fun f => f.remoteLate request)

end Sys2Proof.Machine
end

