-- ==== Sys2Proof/Machine/Cleat.lean ====
section
/-! DEFINITION. Cleat: minimums, meters and credits (R201 to R206), the regulator cycle (R205) and what a grant lets happen,
responses (R206 to R208), the droop throttle (R213, R461), and the stack agent's checks (R309, R311, R458). -/

namespace Sys2Proof.Machine

/-! ### Constants of a regulator (R201) -/

/-- Kind of a resource index: 0 stack, 1 link port, 2 host port, 3 none. -/
def regKind (r : Nat) : Nat := if r < 16 then 0 else if r < 48 then 1 else if r = 48 then 2 else 3
/-- One of three figures by kind. -/
def byKind (r a b c : Nat) : Nat := match regKind r with | 0 => a | 1 => b | 2 => c | _ => 0
def regLat (r : Nat) : Nat := byKind r Config.latStack Config.latLink Config.latHost
def regPool (r : Nat) : Nat := byKind r Config.poolStack Config.poolLink Config.poolHost
def regFabCred (r : Nat) : Nat := byKind r Config.fabCredStack Config.fabCredLink Config.fabCredHost
def regFabRate (r : Nat) : Nat := byKind r Config.fabRateStack Config.fabRateLink Config.fabRateHost
def regGrants (r : Nat) : Nat := byKind r Config.grantsStack Config.grantsOther Config.grantsOther
def regMhz (r : Nat) : Nat := byKind r Config.mhzStack Config.mhzLink Config.mhzHost
/-- Active lanes of a port. -/
def Fabric.lanesOf (f : Fabric) (p : Nat) : Nat := f.cleat.lanes.getD p 0
/-- Rated bandwidth now, in GB/s: of a port by its active lanes, and by all 8 until the link layer has reported (R212, R216). -/
def Fabric.ratedOf (f : Fabric) (r : Nat) : Nat :=
  byKind r Config.ratedStack (Config.ratedLane * ((f.cleat.lanes.find (r - 16)).getD 8)) Config.ratedHost
/-- The resource is present and grants. -/
def Fabric.regUp (f : Fabric) (r : Nat) : Bool :=
  match regKind r with | 0 => f.stackIn r | 1 => decide (f.lanesOf (r - 16) ≠ 0) && f.portIn (r - 16) | 2 => true | _ => false

/-! ### What a slice holds (R203, R204) -/

/-- Installed minimum in GB/s. -/
def minOf (x : Slice) (r : Nat) : Nat :=
  match regKind r with | 0 => recMinBw x.record r | 1 => recPortMin x.record (r - 16) | 2 => recHostMin x.record | _ => 0
/-- The slice holds the resource: memory on a stack, lanes on a port, or the host port. -/
def heldBy (x : Slice) (r : Nat) : Bool :=
  holds x.state && (match regKind r with
    | 0 => recSize x.record r != 0
    | 1 => bitAt (recPorts x.record) (r - 16) && recVl x.record (r - 16) != 0
    | 2 => true
    | _ => false)
/-- MIN_CREDITS. -/
def minCredits (x : Slice) (r : Nat) : Nat := ceilDiv (minOf x r * regLat r) 256
/-- GB/s as bytes with 16 fractional bits in one cycle of the regulator's clock. A meter holds no finer part than that: what a
cycle fills beyond is cut off (DESIGN CHOICE: R204 gives the meter's width and no rounding of a fill). -/
def perCycle (gbps mhz : Nat) : Nat := gbps * 65536 * 1000 / mhz
/-- The share at which minimum meters fill: on a port that has lost lanes (28 × n − 4) / 220 (R212). -/
def Fabric.minShare (f : Fabric) (r : Nat) : Nat × Nat :=
  if regKind r = 1 then (f.ratedOf r - Config.fabRateLink, Config.ratedLane * 8 - Config.fabRateLink) else (1, 1)
/-- Fill of a minimum meter in one cycle, scaled on a port that has lost lanes (R212), and cut off as `perCycle` is. -/
def Fabric.minFill (f : Fabric) (x : Slice) (r : Nat) : Nat :=
  let k := f.minShare r
  minOf x r * k.1 * 65536 * 1000 / (k.2 * regMhz r)
/-- Depth of a minimum meter: one µs of the minimum, at least 256 bytes. -/
def minDepth (x : Slice) (r : Nat) : Nat := max 256 (minOf x r * 1000) * 65536
/-- Slices that hold a resource. -/
def Fabric.holdersOf (f : Fabric) (r : Nat) : List (Nat × Slice) := f.slices.filter (fun e => heldBy e.2 r)
/-- What the remainder is computed from: the slices that hold the resource, and until the next boundary those freed since the
last one, at the state and record that they had (R211). -/
def Fabric.reservedBy (f : Fabric) (r : Nat) : List Slice :=
  (f.holdersOf r).map (·.2) ++ (f.cleat.freed.map (fun v => { state := .active, record := v : Slice })).filter (fun x => heldBy x r)
/-- The droop throttle is in force (R213). -/
def Fabric.throttled (f : Fabric) : Bool := f.cleat.droopLow || f.cleat.droopHold.isSome
/-- REM_RATE in GB/s, as a quotient: rated bandwidth less the minimums at their share (R204, R212). -/
def Fabric.remRate (f : Fabric) (r : Nat) : Nat × Nat :=
  let k := f.minShare r
  (f.ratedOf r * k.2 - ((f.reservedBy r).map (fun x => minOf x r * k.1)).sum, k.2)
/-- Fill of the remainder meter in one cycle, cut off as `perCycle` is. -/
def Fabric.remFill (f : Fabric) (r : Nat) : Nat :=
  let k := f.remRate r
  let pct := if f.throttled && regKind r != 2 then Config.remPct else 100
  k.1 * pct * 65536 * 1000 / (100 * k.2 * regMhz r)
/-- Depth of the remainder meter: REM_RATE × 1 µs (R204). -/
def Fabric.remDepth (f : Fabric) (r : Nat) : Nat :=
  let k := f.remRate r
  k.1 * 1000 * 65536 / k.2
/-- Depth of the fabric meter. -/
def fabDepth (r : Nat) : Nat := regFabRate r * 1000 * 65536
/-- REM_CREDITS. -/
def Fabric.remCredits (f : Fabric) (r : Nat) : Nat :=
  regPool r - regFabCred r - ((f.reservedBy r).map (fun x => minCredits x r)).sum
/-- Remainder weight; 0 for a sealed slice. -/
def weightOf (x : Slice) : Nat := if recSealed x.record then 0 else recWeight x.record

/-- The meters of a resource, full. -/
def Fabric.fullMeters (f : Fabric) (r : Nat) : Meters :=
  { min := (f.holdersOf r).map (fun e => (e.1, minDepth e.2 r)), rem := f.remDepth r, fab := fabDepth r }
/-- Every meter of every regulator is full (R204, R211). -/
def Fabric.fillMeters (f : Fabric) : Fabric :=
  (List.range 49).foldl (fun f r => f.onReg r (fun g => { g with
    meters := f.fullMeters r, toHost := if regKind r = 2 then f.fullMeters r else {} })) f

/-! ### Directions (R201) -/

/-- A unit of the host port that goes to the host: its meters and credits are those of that direction. -/
def CUnit.up (u : CUnit) (r : Nat) : Bool := regKind r == 2 && u.write
/-- The directions of a resource that are regulated. -/
def dirsOf (r : Nat) : List Bool := if regKind r = 2 then [false, true] else [false]
def Reg.dir (g : Reg) (up : Bool) : Meters := if up then g.toHost else g.meters
def Reg.onDir (g : Reg) (up : Bool) (h : Meters → Meters) : Reg :=
  if up then { g with toHost := h g.toHost } else { g with meters := h g.meters }

/-! ### Granting (R205, R206) -/

/-- Units of a direction that hold a credit. -/
def Reg.holding (g : Reg) (r : Nat) (up : Bool) : List CUnit := (g.out ++ g.back).filter (fun u => u.up r == up)
/-- Credits held: of a slice's minimum, of the remainder, and of the fabric. -/
def Reg.heldMin (g : Reg) (r : Nat) (up : Bool) (s : Nat) : Nat := ((g.holding r up).filter (fun u => u.fromMin && u.slice == some s)).length
def Reg.heldRem (g : Reg) (r : Nat) (up : Bool) : Nat := ((g.holding r up).filter (·.fromRem)).length
def Reg.heldFab (g : Reg) (r : Nat) (up : Bool) : Nat := ((g.holding r up).filter (fun u => u.slice.isNone)).length

/-- Refill in one cycle. A slice that begins to use the resource finds its meter full, and bytes above a new depth are
discarded (R204, R211). -/
def Fabric.refillDir (f : Fabric) (r : Nat) (m : Meters) : Meters :=
  { m with
    min := (f.holdersOf r).map (fun e => (e.1, min (minDepth e.2 r) (m.min.getD e.1 (minDepth e.2 r) + f.minFill e.2 r)))
    rem := min (f.remDepth r) (m.rem + f.remFill r)
    fab := min (fabDepth r) (m.fab + perCycle (regFabRate r) (regMhz r)) }
def Fabric.refill (f : Fabric) (r : Nat) : Fabric :=
  f.onReg r (fun g => { (dirsOf r).foldl (fun g up => g.onDir up (f.refillDir r)) g with back := [] })

/-- REALTIME carries class 7 on stacks and link ports (R45); Whipping's writes keep class 6 (R209, R337). -/
def Fabric.isReal (f : Fabric) (r : Nat) (u : CUnit) : Bool :=
  regKind r != 2 && u.zeros.isNone && (match u.slice with | some s => recRealtime (f.slice s).record | none => false)
def Fabric.minPath (f : Fabric) (r : Nat) (u : CUnit) : Bool :=
  match u.slice with
  | some s =>
    let g := f.reg r
    let x := f.slice s
    let up := u.up r
    heldBy x r && decide (g.heldMin r up s < minCredits x r) && decide (u.charge * 65536 ≤ (g.dir up).min.getD s 0)
  | none => false
/-- A table read may go: a slice has 3 demand reads in flight on a stack, and a prefetch read gives way to every waiting
demand read (R182). -/
def Reg.walkFree (g : Reg) (u : CUnit) : Bool :=
  match u.walk with
  | none => true
  | some w =>
    if u.demand then decide ((g.out.filter (fun v => v.demand && v.walk.any (fun y => y.1 == w.1))).length < 3)
    else !g.waiting.any (·.demand)
def Fabric.fabPath (f : Fabric) (r : Nat) (u : CUnit) : Bool :=
  let g := f.reg r
  let up := u.up r
  let m := g.dir up
  u.slice.isNone && g.walkFree u && decide (g.heldFab r up < regFabCred r) && decide (u.charge * 65536 ≤ m.fab) && decide (u.charge * 65536 ≤ m.rem)
def Fabric.remPath (f : Fabric) (r : Nat) (u : CUnit) : Bool :=
  let g := f.reg r
  let up := u.up r
  match u.slice with
  | some s =>
    let x := f.slice s
    heldBy x r && u.zeros.isNone && decide (weightOf x ≠ 0) && decide (g.heldRem r up < f.remCredits r) && decide (u.charge * 65536 ≤ (g.dir up).rem)
  | none => false

/-- Waiting units oldest first; at equal age the fabric, then lower slice numbers. -/
def Reg.inAge (g : Reg) : List CUnit := sortBy (fun u => u.since * 128 + (match u.slice with | some s => s + 1 | none => 0)) g.waiting

/-- The paths of a grant. -/
inductive GPath where
  | min | fab | rem
deriving DecidableEq, Repr

/-- Add a charge to a slice's counters (R209, R210). -/
def Fabric.countBytes (f : Fabric) (r : Nat) (u : CUnit) : Fabric :=
  match u.slice with
  | none => f
  | some s =>
    let bump (l : List Nat) : List Nat := l.zipIdx.map (fun e => if e.2 = u.cls then (e.1 + u.charge) % 2 ^ 64 else e.1)
    f.onLive s (fun c =>
      let c := { c with bytes := c.bytes.upd (r * 8 + u.cls) 0 (fun n => (n + u.charge) % 2 ^ 64) }
      match regKind r with
      | 0 => { c with bwMem := bump c.bwMem }
      | 1 => { c with bwLink := bump c.bwLink }
      | _ => { c with bwHost := bump c.bwHost })

/-- The request that a stack's controller sees (R454). -/
def mcWord (u : CUnit) : Word :=
  BitVec.ofNat 64 (bf u.injectBits 51 2 + bf u.tag 38 13 + bf (b2n (u.cls == 7)) 37 1 + bf (b2n u.write) 36 1 + bf (u.line / 64) 6 30)

/-- What a stack's controller sees of a granted unit (R454): the data of a write under its key, and the zeros of Whipping as
they are (R309, R337). -/
def Fabric.mcOut (f : Fabric) (r : Nat) (u : CUnit) : Out :=
  let a := devKey r (u.line / 256 * 256)
  .mcRequest r u.chan (mcWord u)
    (if !u.write then [] else if u.zeros.isSome then List.replicate 256 0
     else match u.store with | some (k, d) => f.cipher u.keySlot k d | none => f.cipher u.keySlot a u.data)

/-- What a granted unit does (R205): its message leaves on its port, its host writes leave, its bytes reach memory under its
key, a record or its journal shadow arrives (R247), and the next zero write of Whipping takes its place (R337). -/
def Fabric.unitActs (f : Fabric) (r : Nat) (u : CUnit) : Fabric :=
  let f := if regKind r = 1 then (match u.wire with | some w => f.sendUnit (r - 16) w u.msg | none => f) else f
  let f := u.send.foldl (fun f o => f.emit o) f
  let f := match u.store with | some (k, d) => f.writeKeyed u.keySlot k d | none => f
  let f := if u.mi && u.write then f.writeKeyed u.keySlot (devKey r (u.line / 256 * 256)) u.data else f
  let f := match u.shadow with
    | some w => if regKind r = 0 then f.applyShadow w else f.recordArrives w
    | none => f
  let f := match u.step with
    | some (g, k) => f.onGroup g (fun x => if x.running.isSome && x.stepNow == k then { x with writesOut := x.writesOut - 1 } else x)
    | none => f
  let f := f.replyOpt u.done (repOk)
  let f := if u.imported then f.onKeys (fun k => { k with imports := match k.imports with | i :: l => { i with left := i.left - 1 } :: l | [] => [] }) else f
  match u.zeros with
  | some left =>
    let f := f.zeroKeyed (devKey r u.line) 256
    if left = 0 then f
    else f.offer r { u with line := u.line + 256, chan := (u.line + 256) / 256 % Config.channels, zeros := some (left - 256), fromMin := false, fromRem := false }
  | none => f

/-- Grant one unit on a path. -/
def Fabric.grantUnit (f : Fabric) (r : Nat) (u0 : CUnit) (p : GPath) : Fabric :=
  let u := { u0 with cls := if p = .min ∧ f.isReal r u0 = true then 7 else u0.cls, fromMin := p == .min, fromRem := p == .rem, grantedAt := f.now }
  let c := u.charge * 65536
  let f := f.onReg r (fun g => { g with
    waiting := g.waiting.filter (fun w => w.tag != u.tag || w.arrived != u.arrived)
    out := g.out ++ [u] })
  let f := f.onReg r (fun g => g.onDir (u.up r) (fun m => { m with
    min := match p, u.slice with | .min, some s => m.min.put s (m.min.getD s 0 - c) | _, _ => m.min
    rem := if p = .min then m.rem else m.rem - c
    fab := if p = .fab then m.fab - c else m.fab }))
  let f := (f.countBytes r u).unitActs r u
  let f := if u.injectBits ≠ 0 then f.consume else f
  match f.fc.inject with
  | some i => if regKind r = 1 ∧ i.target = 4 ∧ unitIdx i.unit = r - 16 then f.consume else f
  | none => f

/-- The slices with a grantable remainder unit of a direction, in the turn of the round: the last served goes on until its
weight is used up. -/
def Fabric.remTurn (f : Fabric) (r : Nat) (up : Bool) : Option CUnit :=
  let g := f.reg r
  let m := g.dir up
  let l := g.inAge.filter (fun u => u.up r == up && f.remPath r u)
  let ss := sortBy id ((l.filterMap (·.slice)).eraseDups)
  let more := match m.rrLast with
    | some s => if ss.contains s && decide (m.rrCount < weightOf (f.slice s)) then some s else none
    | none => none
  let next := match m.rrLast with
    | some s => (ss.find? (fun k => decide (s < k))).or ss.head?
    | none => ss.head?
  match more.or next with
  | some s => l.find? (fun u => u.slice == some s)
  | none => none

/-- The next grant of a cycle in one direction, by the passes of R205. -/
def Fabric.nextGrant (f : Fabric) (r : Nat) (up : Bool) : Option (CUnit × GPath) :=
  let l := (f.reg r).inAge.filter (fun u => u.up r == up)
  match l.find? (fun u => f.isReal r u && f.minPath r u) with
  | some u => some (u, .min)
  | none =>
    match l.find? (fun u => f.fabPath r u || f.minPath r u) with
    | some u => some (u, if u.slice.isNone then .fab else .min)
    | none => (f.remTurn r up).map (fun u => (u, .rem))

/-- Grants of one cycle in one direction. -/
def Fabric.grantUnits (f : Fabric) (r : Nat) (up : Bool) : Nat → Fabric
  | 0 => f
  | n + 1 =>
    match f.nextGrant r up with
    | none => f
    | some (u, p) =>
      let f := f.grantUnit r u p
      let f := match p, u.slice with
        | .rem, some s => f.onReg r (fun g => g.onDir up (fun m => { m with
            rrCount := if m.rrLast = some s then (if m.rrCount < weightOf (f.slice s) then m.rrCount + 1 else 1) else 1, rrLast := some s }))
        | _, _ => f
      Fabric.grantUnits f r up n

/-- The memory-side port presents what a cycle granted: class 7 ahead of all others, and the rest oldest first (R205).
`before` is how many units held a credit at its start. -/
def Fabric.present (f : Fabric) (r before : Nat) : Fabric :=
  if regKind r != 0 then f
  else
    let l := (f.reg r).out.drop before
    let rank (u : CUnit) : Nat := u.since * 128 + (match u.slice with | some s => s + 1 | none => 0)
    ((l.filter (fun u => u.cls == 7)) ++ sortBy rank (l.filter (fun u => u.cls != 7))).foldl (fun f u => f.emit (f.mcOut r u)) f

/-- SHORTFALL of a port that has lost lanes: what its minimum meters miss in a cycle in which a unit of the slice waits,
in the class of the oldest such unit (R212). -/
def Fabric.shortfalls (f : Fabric) (r : Nat) : Fabric :=
  if regKind r != 1 then f
  else (f.holdersOf r).foldl (fun f e =>
    match (f.reg r).inAge.find? (fun u => u.slice == some e.1) with
    | some u =>
      let c := if f.isReal r u then 7 else u.cls
      f.onLive e.1 (fun l => { l with shortfall := l.shortfall.upd (r * 8 + c) 0 (· + (perCycle (minOf e.2 r) (regMhz r) - f.minFill e.2 r)) })
    | none => f) f

/-- One cycle of a regulator, with its grants in each direction; a frozen chip grants nothing (R384). -/
def Fabric.regCycle (f : Fabric) (r : Nat) : Fabric :=
  if !f.regUp r || f.rs.frozen then f
  else
    let n := (f.reg r).out.length
    let f := (f.refill r).shortfalls r
    ((dirsOf r).foldl (fun f up => f.grantUnits r up (regGrants r)) f).present r n

/-- A cycle, and the steps and imports that its grants complete. -/
def execCleatCycle (r : Nat) (s : State) : Host.Outcome State Fault Refusal := s.run (fun f => (f.regCycle r).settle)

/-! ### Responses (R206 to R208, R458) -/

/-- Reporting site and unit of a resource. -/
def regSite (r : Nat) : Nat := match regKind r with | 0 => srcStack r | 1 => srcPort (r - 16) | _ => srcHost
def regUnitId (r : Nat) : BitVec 32 := match regKind r with | 0 => unitId 3 0 r | 1 => unitId 4 0 (r - 16) | _ => unitId 5 0 0
/-- A record of a stack about the line of a unit. The fault is confined to that address, whose owner it belongs to, whoever
asked; the fabric owns what no slice holds (R50). A table that cannot be read is lost, which is CORRECTED (R173). -/
def Fabric.raiseLine (f : Fabric) (r : Nat) (u : CUnit) (cause : BitVec 16) : Fabric :=
  let o := f.ownerOf r u.line
  f.raise { source := regSite r, unit := unitId 2 u.chan r, cause := cause, owners := o.toList, fabric := o.isNone, syndrome := BitVec.ofNat 192 u.line,
            base := if u.walk.isSome then some 1 else none }
/-- The owners of a whole resource (R50). -/
def Fabric.regOwners (f : Fabric) (r : Nat) : List Nat :=
  match regKind r with | 0 => f.stackOwners r | 1 => f.portOwners (r - 16) | _ => f.holders.map (·.1)
/-- A record that concerns a whole resource. The fabric is among the owners of a stack with reserved memory, of a link port
through VL 7, and of the host port, a central unit (R50). -/
def Fabric.raiseReg (f : Fabric) (r : Nat) (cause : BitVec 16) (syn : Nat) : Fabric :=
  f.raise { source := regSite r, unit := regUnitId r, cause := cause, owners := f.regOwners r, syndrome := BitVec.ofNat 192 syn,
            fabric := regKind r != 0 || Config.reservedStacks.contains r }

/-- The bytes that a unit reads when its response is formed, under its key slot; those of host memory are an open value
(R207, R309). -/
def Fabric.unitData (f : Fabric) (r : Nat) (u : CUnit) : List Byte × Fabric :=
  if u.write then ([], f)
  else if u.mi then (f.readKeyed u.keySlot (devKey r (u.line / 256 * 256)) 256, f)
  else match u.window with
    | some (_, key) =>
      let n := min 256 u.charge
      if regKind r = 0 then (f.readKeyed u.keySlot key n, f) else f.drawBytes n
    | none => ([], f)

/-- A response reaches the requester, and the unit's credit comes back. -/
def Fabric.deliverUnit (f : Fabric) (r : Nat) (u : CUnit) (status : Nat) (data : List Byte) : Fabric :=
  let f := f.onReg r (fun g => { g with out := g.out.filter (fun w => w.tag != u.tag || w.arrived != u.arrived), back := g.back ++ [u] })
  let f := if !u.mi then f
    else if status = 2 then f.emit (.miResponse r u.chan u.tag 1 [])
    else f.emit (.miResponse r u.chan u.tag 0 data)
  match u.window with
  | some (w, _) =>
    let f := match u.write, u.wire with
      | false, some k => f.sendSlice (f.window w).slice 3 u.port (min 256 u.charge) k.1 k.2.1 (.windowData u.request data)
      | _, _ => f
    (f.onWindow w (fun x => { x with inFlight := x.inFlight - 1 })).settleWindow w
  | none => f

/-- A late response is counted, with one record for the resource in a frame (R208). -/
def Fabric.lateResponse (f : Fabric) (r : Nat) (u : CUnit) : Fabric :=
  let first := !(f.reg r).lateFrame
  let f := f.onReg r (fun g => { g with late := satAdd 16 g.late 1, lateFrame := true })
  if first then f.raiseReg r 0x0106 u.line else f

/-- A response or acknowledgement of a granted unit. -/
def Fabric.takeResponse (f : Fabric) (r tag status : Nat) : Fabric :=
  match (f.reg r).out.find? (fun u => u.tag == tag && u.answered.isNone) with
  | none => f.raiseReg r 0x0104 tag
  | some u =>
    let f := if regKind r = 0 ∧ status = 1 then f.raiseLine r u 0x0101
      else if regKind r = 0 ∧ status = 2 then f.raiseLine r u 0x0102 else f
    let f := match u.group with | some g => if status = 2 then f.raiseAbort g .unreadable 0 else f | none => f
    let f := match u.walk with | some (s, tag, page, level) => if status = 2 then f.loseTable s tag page level else f | none => f
    let d := f.unitData r u
    let f := d.2
    if u.grantedAt + regLat r < f.now then (f.lateResponse r u).deliverUnit r u status d.1
    else
      let hushed := match u.slice with | some s => recSealed (f.slice s).record && regKind r != 1 | none => false
      if hushed && decide (f.now < u.grantedAt + regLat r) then
        f.onReg r (fun g => { g with out := g.out.map (fun w => if w.tag == tag && w.arrived == u.arrived then
          { w with answered := some status, data := if w.write then w.data else d.1 } else w) })
      else f.deliverUnit r u status d.1
def execUnitResponse (r tag status : Nat) (s : State) : Host.Outcome State Fault Refusal := s.run (fun f => f.takeResponse r tag status)

/-- A response that the equalisation buffer held is delivered LAT after its grant (R207). -/
def Fabric.equalise (f : Fabric) (r tag : Nat) : Fabric :=
  match (f.reg r).out.find? (fun u => u.tag == tag && u.answered.isSome) with
  | some u => (f.advance (u.grantedAt + regLat r)).deliverUnit r u (u.answered.getD 0) (if u.write then [] else u.data)
  | none => f
def execEqualisedDelivery (r tag : Nat) (s : State) : Host.Outcome State Fault Refusal := s.run (fun f => f.equalise r tag)

/-! ### The stack agent (R309, R311, R458) -/

/-- Fields of MI_REQ. -/
def miField (q : Word) (lo w : Nat) : Nat := (q.extractLsb' lo w).toNat

/-- A refused request. -/
def Fabric.refuseMi (f : Fabric) (stack chan : Nat) (s : Option Nat) (base : Option Nat) : Fabric :=
  (f.raise { source := srcStack stack, unit := unitId 3 0 stack, cause := 0x0104, owners := s.toList, fabric := s.isNone, base := base }).emit
    (.miResponse stack chan 0 2 [])

/-- A request of the interconnect at a stack agent. -/
def Fabric.takeMi (f : Fabric) (stack chan : Nat) (q : Word) (wdata : List Byte) : Fabric :=
  let fab := bitAt q 55
  let s := miField q 46 6
  let line := miField q 6 30 * 64
  let src := miField q 56 8
  let write := bitAt q 36
  let x := f.slice s
  let slotNo := miField q 37 9
  let data := (wdata ++ List.replicate 256 0).take 256
  if !f.stackIn stack then f
  else if fab then
    if 8 ≤ slotNo then f.refuseMi stack chan none (some 3)
    else
      f.offer stack { cls := 6, charge := 256, write := write, line := line, chan := chan, keySlot := slotNo, data := data, mi := true, src := src }
  else
    let okState := x.state == .active || x.state == .resetting || x.state == .removing
    let okSrc := if bitAt q 0 then f.hasDma x src && decide (src < 64) else x.hasEngine src
    let okLine := inExtent x.record stack (line / 256 * 256) 256
    if !okState || !okSrc || !okLine then f.refuseMi stack chan (some s) none
    else if slotNo < x.keyBase || x.keyBase + recMemKeys x.record ≤ slotNo then f.refuseMi stack chan (some s) (some 3)
    else
      f.offer stack { slice := some s, cls := miField q 52 3, charge := 256, write := write, line := line, chan := chan, keySlot := slotNo,
                      data := data, mi := true, src := src }
def execMiRequest (stack chan : Nat) (req : Word) (wdata : List Byte) (s : State) : Host.Outcome State Fault Refusal :=
  s.run (fun f => f.takeMi stack chan req wdata)

/-! ### Droop (R213, R461) -/

/-- A filtered assertion of DROOP_ALARM_N. -/
def Fabric.droopOn (f : Fabric) : Fabric :=
  if f.cleat.droopLow then f
  else
    let from_ := if f.cleat.droopHold.isSome then f.cleat.droopFrom else f.now
    let noted := f.cleat.droopNoted
    let f := f.onCleat (fun c => { c with
      droopLow := true, droopHold := none, droopFrom := from_, droopEvents := satAdd 16 c.droopEvents 1
      droopEventsAll := (c.droopEventsAll + 1) % 2 ^ 32, droopNoted := true })
    let f := { f with engines := f.engines.each (fun _ e => { e with running := e.running.map (fun r => { r with excursion := true }) }) }
    if noted then f else f.raise { source := srcTm, unit := unitId 7 0 0, cause := 0x0304, fabric := true }
def execDroopAssert (s : State) : Host.Outcome State Fault Refusal := s.run (fun f => f.droopOn)

/-- A filtered release: the hold of 10 µs begins. -/
def Fabric.droopOff (f : Fabric) : Fabric :=
  if f.cleat.droopLow then f.onCleat (fun c => { c with droopLow := false, droopHold := some (f.now + 10000) }) else f
def execDroopRelease (s : State) : Host.Outcome State Fault Refusal := s.run (fun f => f.droopOff)

/-- The hold ends: the throttled span is added up. -/
def Fabric.droopEnd (f : Fabric) : Fabric :=
  match f.cleat.droopHold with
  | some t =>
    let f := f.advance t
    f.onCleat (fun c => { c with droopHold := none, throttleNs := c.throttleNs + (f.now - c.droopFrom) })
  | none => f
def execDroopHoldEnd (s : State) : Host.Outcome State Fault Refusal := s.run (fun f => f.droopEnd)

end Sys2Proof.Machine
end

