-- ==== Sys2Proof/Machine/Slices.lean ====
section
/-! DEFINITION. Slice lifecycle packets (chapter 2, R424). SLICE_DESTROY stands in Removal.lean. -/

namespace Sys2Proof.Machine

/-- R56: the code of a slice state. -/
def sliceCode : SliceState → Nat
  | .free => 0 | .defining => 1 | .created => 2 | .active => 3 | .resetting => 4 | .removing => 5 | .whipping => 6

/-- R59, R423: one part of the shadow record or of the amendment shadow. -/
def rowSliceDefine : Row :=
  { slice := true, params := [(0x18, 1), (0x20, 32)], range := fun _ p => decide (pfield p 0x18 1 < 16),
    body := fun p _ f =>
      let s := pslice p
      let k := pfield p 0x18 1
      let x := f.slice s
      match x.state with
      | .free => (f.onSlice s (fun x => { x with state := .defining, shadow := recSetPart 0 k (pdata p), parts := ofBits 16 [k] }),
          some (repOk))
      | .defining => (f.onSlice s (fun x => { x with shadow := recSetPart x.shadow k (pdata p), parts := x.parts ||| ofBits 16 [k] }),
          some (repOk))
      | .created | .active =>
        if x.amend.isSome then (f, some (rep stState))
        else (f.onSlice s (fun x => { x with amendShadow := some (recSetPart (x.amendShadow.getD x.record) k (pdata p)) }), some (repOk))
      | _ => (f, some (rep stState)) }

/-- What a slice holds when it enters CREATED (R62, R67, R252, R448). -/
def freshSlice (r : Rec) (keyBase : Nat) : Slice :=
  let es := bitsOf (recEngines r)
  { state := .created, record := r, keyBase := keyBase, engines := es, ports := bitsOf (recPorts r), stackList := recStacks r,
    clusters := (es.map (· / 4)).eraseDups, pool := { size := recKvGib r * 16384 } }

/-- R61, R62: the admission checks, and the switch to CREATED. -/
def rowSliceCreate : Row :=
  { slice := true,
    body := fun p _ f =>
      let s := pslice p
      let x := f.slice s
      if x.state != .defining then (f, some (rep stState))
      else
        match f.admitCreate s with
        | some n => (f, some (repCheck n))
        | none =>
          let base := (f.keyBaseFor (recMemKeys x.shadow)).getD 8
          let g := ((f.onSlice s (fun _ => freshSlice x.shadow base)).fillCaps s).onCleat (fun c => { c with freed := [] })
          (g, some (repOk [(0x20, 1, 2), (0x22, 2, base)])) }

/-- R63: the request waits for at most 64 frames. -/
def rowSliceActivate : Row :=
  { slice := true,
    body := fun p q f =>
      let s := pslice p
      let x := f.slice s
      if x.state != .created || x.activate.isSome then (f, some (rep stState))
      else (f.onSlice s (fun x => { x with activate := some (q, 64) }), none) }

/-- R64, R65: the replacement record is checked now and applied at the next boundary. -/
def rowSliceAmend : Row :=
  { slice := true,
    body := fun p q f =>
      let s := pslice p
      let x := f.slice s
      if !(x.state == .created || x.state == .active) || x.amend.isSome then (f, some (rep stState))
      else
        let new := x.amendShadow.getD x.record
        match f.admitAmend s new with
        | some n => (f, some (repCheck n))
        | none => (f.onSlice s (fun x => { x with amend := some q, amendRec := f.amendTo x.record new, amendShadow := none }), none) }

/-- R424: PART 0 of SLICE_QUERY. -/
def queryPart0 (f : Fabric) (s : Nat) : Reply :=
  let x := f.slice s
  repOk [(0x20, 1, sliceCode x.state), (0x21, 1, if holds x.state then recFlags x.record else 0), (0x22, 2, f.freeEngines.length),
    (0x24, 2, f.retiredEngines.length), (0x26, 1, f.freeDma.length), (0x27, 1, f.freePorts.length), (0x28, 2, f.freeKeys)]

/-- R424: the 32 bytes of parts 1 to 35. -/
def queryPart (f : Fabric) (s k : Nat) : BitVec 256 :=
  let x := f.slice s
  if k ≤ 16 then (if holds x.state then recPart x.record (k - 1) else 0)
  else if k ≤ 32 then
    match x.state with
    | .free => 0
    | .defining => recPart x.shadow (k - 17)
    | _ => recPart (x.amendShadow.getD x.record) (k - 17)
  else if k = 33 then ofBits 256 f.freeEngines
  else if k = 34 then ofBits 256 f.retiredEngines
  else result [(0x20, 8, (ofBits 64 f.freeDma).toNat), (0x28, 8, f.units.dmaRetired.toNat), (0x30, 4, (ofBits 32 f.freePorts).toNat),
    (0x34, 4, f.units.portRetired.toNat)]

/-- R424: the slice state, record parts and pool masks. -/
def rowSliceQuery : Row :=
  { slice := true, params := [(0x18, 1)], range := fun _ p => decide (pfield p 0x18 1 ≤ 35),
    body := fun p _ f =>
      let k := pfield p 0x18 1
      if k = 0 then (f, some (queryPart0 f (pslice p)))
      else (f, some { status := stOk, result := queryPart f (pslice p) k }) }

/-- SLICE_DEFINE. -/
def execSliceDefine (p : Packet) (s : State) : Host.Outcome State Fault Refusal := s.run (control rowSliceDefine p)
/-- SLICE_CREATE. -/
def execSliceCreate (p : Packet) (s : State) : Host.Outcome State Fault Refusal := s.run (control rowSliceCreate p)
/-- SLICE_ACTIVATE. -/
def execSliceActivate (p : Packet) (s : State) : Host.Outcome State Fault Refusal := s.run (control rowSliceActivate p)
/-- SLICE_AMEND. -/
def execSliceAmend (p : Packet) (s : State) : Host.Outcome State Fault Refusal := s.run (control rowSliceAmend p)
/-- SLICE_QUERY. -/
def execSliceQuery (p : Packet) (s : State) : Host.Outcome State Fault Refusal := s.run (control rowSliceQuery p)

end Sys2Proof.Machine
end

