-- ==== Sys2Proof/Machine/Splice.lean ====
section
/-! DEFINITION. The Splice sequencer: group packets (R279 to R282, R431), joins (R283), steps and tokens (R286 to R289,
R296 to R298), chunks (R290 to R295), aborts (R287), and switch leases (R288, R301). -/

namespace Sys2Proof.Machine

/-! ### Register words of a group (R302) -/

/-- The masks in which the switch may be used (R301). -/
def Fabric.switchMasks (f : Fabric) (x : Group) : BitVec 16 × BitVec 3 :=
  if !gEndToEnd x.record then (x.fmtMask, x.opMask)
  else
    match f.splice.attest.find? (fun e => bitAt e.2 0 && (e.2.extractLsb' 23 6).toNat == gSlice x.record
        && (e.2.extractLsb' 13 10).toNat == gJobKey x.record && (e.2.extractLsb' 48 16).toNat == gSwitch x.record) with
    | some e => (x.fmtMask &&& e.2.extractLsb' 32 16, x.opMask &&& e.2.extractLsb' 29 3)
    | none => (0, 0)
def Fabric.switchUsable (f : Fabric) (x : Group) : Bool :=
  x.resv == 2 && (f.switchMasks x).1 != 0 && (f.switchMasks x).2 != 0

def Fabric.spliceGrp (f : Fabric) (g : Nat) : Word :=
  let x := f.group g
  let r := x.record
  if x.state = 0 then 0
  else BitVec.ofNat 64 (bf (gJob r).toNat 32 32 + bf (gSlice r) 26 6 + bf (gRank r) 20 6 + bf (gN r) 13 7 + bf (b2n (gEndToEnd r)) 12 1
    + bf (b2n (f.switchUsable x)) 11 1 + bf x.resv 9 2 + x.state)
def Fabric.spliceStep (f : Fabric) (g : Nat) : Word :=
  let x := f.group g
  BitVec.ofNat 64 (bf x.stepNum 48 16 + bf x.abortCnt 32 16 + bf x.retryCnt 16 16 + bf x.nanCnt 8 8 + bf x.timeoutRun 0 2)
def Fabric.spliceLag (f : Fabric) (g : Nat) : Word :=
  let x := f.group g
  BitVec.ofNat 64 (bf x.slowRank 58 6 + bf x.slowDrag 32 16 + min 0xFFFFFFFF x.lagAvg)
def Fabric.spliceWait (f : Fabric) (g : Nat) : Word :=
  let x := f.group g
  BitVec.ofNat 64 (bf (x.waitNs / 1000) 32 32 + bf x.unlocked 16 16)

/-! ### Group checks (R282) -/

/-- Check 2: reserved fields and ranges. -/
def grpForm (r : GRec) : Bool :=
  decide (field r 0 1 < 4) && decide (2 ≤ gN r) && decide (gN r ≤ 64) && decide (gRank r < gN r) && decide (gVl r ≤ 6)
    && gJob r != 0 && decide (gJobKey r < 1024) && decide (10 ≤ gChunkLog2 r) && decide (gChunkLog2 r ≤ 16)
    && decide (1 ≤ gWindow r) && decide (gWindow r ≤ 16) && decide (gSq r < 64) && decide (10 ≤ gTimeoutUs r) && decide (gTimeoutUs r ≤ 10000)
    && decide (field r 0x13 1 < 64) && zeroAt r 0x14 12 && zeroAt r 0xA0 96
    && ((List.range 64).drop (gN r)).all (fun i => gMember r i == 0)
/-- The step queue that a record names. -/
def Fabric.grpQueue (f : Fabric) (r : GRec) : Option Nat := (f.fn (gFn r)).sqs.find (gSq r)
/-- Check 3. -/
def Fabric.grpQueueOk (f : Fabric) (r : GRec) : Bool :=
  f.sliceTakes (gSlice r) && f.fnIn (gFn r) (gSlice r) && (match (f.grpQueue r).bind f.sq? with
    | some x => x.state == 1 && x.gen == 3 && x.slice == gSlice r && x.accepted == x.commit && x.group.isNone
    | none => false)
/-- Check 4. -/
def Fabric.grpKeyOk (f : Fabric) (r : GRec) : Bool :=
  decide (gJobKey r < recLinkKeys (f.slice (gSlice r)).record)
    && f.keys.links.any (fun k => k.2.slice == gSlice r && k.2.loc == gJobKey r && k.2.state == 1)
/-- Check 5. -/
def Fabric.grpMembersOk (f : Fabric) (r : GRec) : Bool :=
  let l := (List.range (gN r)).map (gMember r)
  l.all (· != 0) && decide (l.eraseDups.length = l.length) && gMember r (gRank r) == f.splice.chip && f.splice.chip != 0
/-- Check 6. -/
def Fabric.grpPortsOk (f : Fabric) (x : Group) : Bool :=
  f.reachesRing x && (!gSwitchAllowed x.record || !(f.portsVl (gSlice x.record) (gSwitch x.record) (gVl x.record)).isEmpty)
/-- The first check that fails. -/
def Fabric.grpCheck (f : Fabric) (x : Group) : Option Nat :=
  firstFail [(1, x.state == 1 && x.parts == 0xFF), (2, grpForm x.record), (3, f.grpQueueOk x.record), (4, f.grpKeyOk x.record),
    (5, f.grpMembersOk x.record), (6, f.grpPortsOk x)]

/-! ### Joining (R283) -/

/-- The CRC that JOIN carries. -/
def joinCrcOf (r : GRec) : BitVec 32 :=
  crc32c (leBytes 1 (gN r) ++ (List.range (gN r)).flatMap (fun i => leBytes 2 (gMember r i)) ++ leBytes 1 (gChunkLog2 r)
    ++ leBytes 1 (gWindow r) ++ leBytes 1 (gGang r) ++ leBytes 2 (gSwitch r) ++ leBytes 1 (field r 0 1) ++ leBytes 2 (gTimeoutUs r))

/-- Rank 0 asks the switch for its memory (R288). -/
def Fabric.askReserve (f : Fabric) (g : Nat) : Fabric :=
  let x := f.group g
  let r := x.record
  if !x.leads || !gSwitchAllowed r then f
  else
    let acc := match f.stepDesc g x.stepNum with | some (_, d) => if d.stage = .accepted then 36 else accBytes (stepFmt d.raw) | none => 36
    let size := gWindow r * gN r * 2 ^ gChunkLog2 r * acc
    (f.onGroup g (fun y => { y with resv := 1, reservedAt := f.now })).sendChip (gSlice r) (gSwitch r) (.reserve (gJob r) size)

/-- The group becomes READY, and rank 0 asks the switch for its memory. -/
def Fabric.groupReady (f : Fabric) (g : Nat) : Fabric := (f.onGroup g (fun x => { x with state := 3 })).askReserve g

/-- Groups of a job in a state. -/
def Fabric.groupsOf (f : Fabric) (job : BitVec 32) (p : Group → Bool) : List Nat :=
  f.splice.groups.keysOf (fun _ x => p x && gJob x.record == job)

/-- JOIN reaches a joining group of its job. -/
def Fabric.joinAt (f : Fabric) (g : Nat) (crc : BitVec 32) : Fabric :=
  let x := f.group g
  if crc != joinCrcOf x.record then f.breakGroup g
  else if x.leads then f.sendSucc g (.joinDone (gJob x.record))
  else f.sendSucc g (.join (gJob x.record) crc)

/-- A JOIN arrives; for a job that no group of this chip states it is held. -/
def Fabric.takeJoin (f : Fabric) (port : Nat) (job crc : BitVec 32) : Fabric :=
  match f.groupsOf job (fun x => x.state == 2) with
  | g :: _ => (f.joinAt g crc).settle
  | [] =>
    if (f.groupsOf job (fun x => x.state == 3 || x.state == 4)).isEmpty then
      { f with splice := { f.splice with joins := f.splice.joins ++ [(port, job, crc, f.now)] } }
    else f
def execJoinMessage (u : LinkUnit) (job crc : BitVec 32) (s : State) : Host.Outcome State Fault Refusal :=
  s.run (fun f => f.fromPeer u (·.takeJoin u.port job crc))

/-- JOINED arrives: the group is READY and, unless it leads, passes it on. -/
def Fabric.takeJoined (f : Fabric) (job : BitVec 32) : Fabric :=
  match f.groupsOf job (fun x => x.state == 2) with
  | g :: _ =>
    let f := f.groupReady g
    if (f.group g).leads then f else f.sendSucc g (.joinDone job)
  | [] => f
def execJoined (m : Arrival (BitVec 32)) (s : State) : Host.Outcome State Fault Refusal :=
  s.run (fun f => f.fromPeer m.unit (fun f => (f.takeJoined m.body).settle))

/-- A group is still JOINING after 100 ms. -/
def Fabric.joinLate (f : Fabric) (g : Nat) : Fabric :=
  let x := f.group g
  if x.state = 2 then ((f.advance (x.joinFrom + 100000000)).breakGroup g).settle else f
def execJoinTimeout (g : Nat) (s : State) : Host.Outcome State Fault Refusal := s.run (fun f => f.joinLate g)

/-- The JOIN of a job that has been held longest is discarded after 100 ms. -/
def Fabric.joinDrop (f : Fabric) (job : BitVec 32) : Fabric :=
  match f.splice.joins.find? (fun j => j.2.1 == job) with
  | some j =>
    let f := f.advance (j.2.2.2 + 100000000)
    { f with splice := { f.splice with joins := f.splice.joins.erase j } }
  | none => f
def execJoinHoldExpiry (job : BitVec 32) (s : State) : Host.Outcome State Fault Refusal := s.run (fun f => f.joinDrop job)

/-- GROUP_BROKEN arrives (R299). -/
def Fabric.takeBroken (f : Fabric) (job : BitVec 32) : Fabric := (f.breakGroups (fun x => gJob x.record == job)).settle
def execGroupBroken (m : Arrival (BitVec 32)) (s : State) : Host.Outcome State Fault Refusal :=
  s.run (fun f => f.fromPeer m.unit (·.takeBroken m.body))

/-! ### Switch leases (R288) -/

/-- GRANT arrives. -/
def Fabric.takeGrant (f : Fabric) (g lease : Nat) (fmt : BitVec 16) (op : BitVec 3) : Fabric :=
  if (f.group g).resv = 1 then f.onGroup g (fun x => { x with resv := 2, lease := lease, fmtMask := fmt, opMask := op }) else f
def execGrant (m : Arrival Nat) (lease : Nat) (fmtMask : BitVec 16) (opMask : BitVec 3) (s : State) : Host.Outcome State Fault Refusal :=
  s.run (fun f => f.fromPeer m.unit (·.takeGrant m.body lease fmtMask opMask))
/-- DENY arrives. -/
def Fabric.takeDeny (f : Fabric) (g : Nat) : Fabric :=
  if (f.group g).resv = 1 then f.onGroup g (fun x => { x with resv := 3, denyFrame := f.frame.frameNum }) else f
def execDeny (m : Arrival Nat) (s : State) : Host.Outcome State Fault Refusal := s.run (fun f => f.fromPeer m.unit (·.takeDeny m.body))
/-- No reply came in 20 µs: it counts as DENY. -/
def execReserveTimeout (g : Nat) (s : State) : Host.Outcome State Fault Refusal :=
  s.run (fun f => if (f.group g).resv = 1 then (f.advance ((f.group g).reservedAt + 20000)).takeDeny g else f)

/-! ### Reading and writing ranges (R285, R290, R292) -/

/-- Element codes of a range of a slice. -/
def Fabric.readElems (f : Fabric) (s : Nat) (ext : List Extent) (first n bits : Nat) : List Nat :=
  let lo := first * bits
  let l := f.extentBytes s ext (lo / 8) (ceilDiv (lo % 8 + n * bits) 8)
  (List.range n).map (fun i => bitsAt l (lo % 8 + i * bits) bits)

/-- A write of a part of a range waits at its regulator in units of at most 256 bytes: of a stack, of the host port, or of the
link port of a peer's window (R203, R294). The bytes move when it is granted (R205); the units of the step in progress count
as its writes until then (R286). -/
def Fabric.offerWrite (f : Fabric) (g s : Nat) (e : Extent) (part : List Byte) : Fabric :=
  let k := part.length
  let mine := some (g, (f.group g).stepNow)
  match e.target with
  | 0 =>
    (splitUnits k).foldl (fun f u =>
      let a := e.addr + u.1
      (f.offer e.stack { slice := some s, cls := 4, charge := 256, write := true, line := a, chan := a / 256 % Config.channels,
                         keySlot := f.slotOfSel s e.keySel, store := some (devKey e.stack a, (part.drop u.1).take u.2), step := mine }).onGroup g
        (fun x => { x with writesOut := x.writesOut + 1 })) f
  | 1 =>
    (splitUnits k).foldl (fun f u =>
      (f.offer 48 { slice := some s, cls := 4, charge := chargeOf u.2, write := true, step := mine,
                    send := [.hostCopy (e.addr + u.1) 1 (((part.drop u.1).take u.2).map (fun b => b.setWidth 64))] }).onGroup g
        (fun x => { x with writesOut := x.writesOut + 1 })) f
  | _ => f.sendSlice s 4 e.port k (f.jobKeyNo s e.keySel) (f.vlOn s e.port) (.remote e.peer e.window e.addr k true)

/-- Write bytes of a range, extent by extent. -/
def Fabric.writeRange (f : Fabric) (g s : Nat) (ext : List Extent) : Nat → List Byte → Nat → Fabric
  | _, _, 0 => f
  | off, data, n + 1 =>
    if data.isEmpty then f
    else
      match walkExtents ext off with
      | none => f
      | some (e, o) =>
        let k := min data.length (e.len - o)
        Fabric.writeRange (f.offerWrite g s { e with addr := e.addr + o } (data.take k)) g s ext (off + k) (data.drop k) n

/-- A byte of a range as it will stand once the writes that wait are made. -/
def Fabric.byteSoon (f : Fabric) (s : Nat) (ext : List Extent) (off : Nat) : Byte :=
  let now := ((f.extentBytes s ext off 1).head?).getD 0
  match walkExtents ext off with
  | some (e, o) =>
    let key := devKey e.stack (e.addr + o)
    if e.target ≠ 0 then now
    else
      ((f.reg e.stack).waiting.filterMap (·.store)).foldl (fun b w =>
        if w.1 ≤ key ∧ key < w.1 + w.2.length then w.2.getD (key - w.1) 0 else b) now
  | none => now
/-- Write element codes of a range; bits of other elements in the first and last byte stay. -/
def Fabric.writeElems (f : Fabric) (g s : Nat) (ext : List Extent) (first : Nat) (codes : List Nat) (bits : Nat) : Fabric :=
  let lo := first * bits
  let k := lo % 8
  let w := codes.length * bits
  let n := ceilDiv (k + w) 8
  let head := if k = 0 then 0 else (f.byteSoon s ext (lo / 8)).toNat % 2 ^ k
  let tail := if (k + w) % 8 = 0 then 0 else (f.byteSoon s ext (lo / 8 + n - 1)).toNat / 2 ^ ((k + w) % 8)
  let v := codes.foldr (fun c acc => c % 2 ^ bits + acc * 2 ^ bits) 0
  f.writeRange g s ext (lo / 8) (leBytes n (head + v * 2 ^ k + tail * 2 ^ (k + w))) (ext.length + 1)

/-- The step is in place: it has no send range. -/
def stepInPlace (d : Desc) : Bool := dbits d.raw (8 * 0x28 + 42) 22 == 0 && dbits d.raw 232 8 == 0
/-- The member's own contribution: from the send range, or from range 0 in place. -/
def Fabric.ownElems (f : Fabric) (s : Nat) (d : Desc) (p : Plan) (seg c : Nat) : List Nat :=
  let inPlace := stepInPlace d
  let ext := if inPlace then d.extents.getD 0 [] else d.extents.getD 1 []
  let first := if p.op = 3 ∧ inPlace = false then c * p.chunk else seg * p.seg + c * p.chunk
  f.readElems s ext first (p.count c) p.bits
/-- The extents of the member's send data (R285): the send range; in place all of range 0, or for a gather its own segment; of
a broadcast range 0 of the root. -/
def sendExtents (d : Desc) (p : Plan) : List Extent :=
  let bytes (n : Nat) : Nat := n * p.bits / 8
  if p.op = 4 ∧ p.rank ≠ p.root then []
  else if !stepInPlace d then d.extents.getD 1 []
  else if p.op = 3 then cutExtents (d.extents.getD 0 []) (bytes (p.rank * p.seg)) (bytes p.seg)
  else cutExtents (d.extents.getD 0 []) 0 (bytes (p.seg * p.segs))
/-- Where a segment lies in range 0. -/
def Plan.place (p : Plan) (seg c : Nat) : Nat := (if p.op = 2 then 0 else seg * p.seg) + c * p.chunk

/-- The header of a chunk. Its index counts chunks through the segments in order. -/
def chunkHdr (x : Group) (p : Plan) (phase src seg c : Nat) (part nan : Bool) : ChunkHdr :=
  { job := gJob x.record, step := x.stepNow, phase := phase, src := src, index := seg * p.chunks + c, count := p.count c,
    partialSum := part, nan := nan, last := c + 1 == p.chunks }
/-- Bytes of a header, its CRC taken as 0, and the CRC of a chunk. -/
def hdrBytes (h : ChunkHdr) : List Byte :=
  leBytes 4 h.job.toNat ++ leBytes 2 h.step ++ leBytes 1 h.phase ++ leBytes 1 h.src ++ leBytes 4 h.index ++ leBytes 4 h.count
    ++ leBytes 1 (b2n h.partialSum + 2 * b2n h.nan + 4 * b2n h.last) ++ leBytes 15 0
def chunkCrc (h : ChunkHdr) (payload : List Byte) : BitVec 32 := crc32c (hdrBytes h ++ payload)
/-- The identity of a chunk. -/
def sameChunk (a b : ChunkHdr) : Bool := a.step == b.step && a.phase == b.phase && a.src == b.src && a.index == b.index

/-! ### Sending (R291, R293 to R295) -/

/-- A chunk is made and waits for its turn. -/
def Fabric.makeChunk (f : Fabric) (g : Nat) (h : ChunkHdr) (payload : List Byte) : Fabric :=
  f.onGroup g (fun x => { x with toSend := x.toSend ++ [(h, payload)], made := x.made + 1 })

/-- R295: chunks may start now. -/
def Fabric.gateOpen (f : Fabric) (x : Group) : Bool :=
  let s := gSlice x.record
  gGang x.record == 0 || ((f.slice s).engineSet).any (fun k =>
    match f.slotNow s k with
    | some y =>
      let e := bankEntry f.frame.bank y.idx
      entGang e && entGangId e == gGang x.record && decide (f.now < f.windowEnd y (f.engine k).applied)
    | none => false)

/-- The format of a group's step in progress. -/
def Fabric.stepFormat (f : Fabric) (g : Nat) : Nat := match f.runningStep g with | some (_, d) => stepFmt d.raw | none => 0
/-- Storage of a chunk in flight, the share of a slice in a pair's accumulator storage, and what it has in use there
(R293). -/
def Fabric.storeOf (f : Fabric) (g : Nat) : Nat := 2 ^ gChunkLog2 (f.group g).record * accBytes (f.stepFormat g)
def Fabric.pairShare (f : Fabric) (pair : Nat) : Nat :=
  let l := f.holders.filter (fun e => [2 * pair, 2 * pair + 1].any (fun p => bitAt (recPorts e.2.record) p && recVl e.2.record p != 0))
  2 ^ 21 / max 1 l.length
def Fabric.pairUsed (f : Fabric) (pair s : Nat) : Nat :=
  (f.splice.groups.map (fun e => if gSlice e.2.record = s then (e.2.sent.filter (fun c => c.port / 2 == pair)).length * f.storeOf e.1 else 0)).sum

/-- Where a chunk goes: to the switch on its way up, else to the successor. -/
def chunkDest (x : Group) (h : ChunkHdr) : Nat := if h.phase = 3 then gSwitch x.record else x.succ
/-- The key of a chunk: the group's job key, and to the switch of a job that is not END_TO_END the hop key (R313). -/
def Fabric.chunkKey (f : Fabric) (x : Group) (h : ChunkHdr) : Nat :=
  if h.phase = 3 && !gEndToEnd x.record then wireHop else f.jobKeyNo (gSlice x.record) (gJobKey x.record)
/-- The ports that a chunk may take: those of the slice that reach its chip, carry the VL and have its key. -/
def Fabric.chunkPorts (f : Fabric) (x : Group) (h : ChunkHdr) : List Nat :=
  (f.portsVl (gSlice x.record) (chunkDest x h) (gVl x.record)).filter (fun p => f.wireReady p (f.chunkKey x h))
/-- The port of a chunk: the one with the fewest of the slice's units waiting (R294). -/
def Fabric.chunkPort (f : Fabric) (x : Group) (h : ChunkHdr) : Option Nat :=
  let s := gSlice x.record
  minBy (fun p => ((f.reg (16 + p)).waiting.filter (fun u => u.slice == some s)).length) (f.chunkPorts x h)

/-- Put a chunk on a port. -/
def Fabric.putChunk (f : Fabric) (g p : Nat) (h : ChunkHdr) (payload : List Byte) : Fabric :=
  let x := f.group g
  f.sendSlice (gSlice x.record) 4 p (32 + payload.length) (f.chunkKey x h) (gVl x.record) (.chunk h payload (chunkCrc h payload))

/-- A pair has no room for one more chunk of the group: the chunk waits, and is counted once (R293). -/
def Fabric.noRoom (f : Fabric) (g p : Nat) : Bool :=
  decide (f.pairShare (p / 2) < f.pairUsed (p / 2) (gSlice (f.group g).record) + f.storeOf g)
def Fabric.countWait (f : Fabric) (g p : Nat) : Fabric :=
  if (f.group g).blocked then f
  else
    let f := f.onGroup g (fun y => { y with blocked := true })
    { f with splice := { f.splice with aluWait := f.splice.aluWait.upd (p / 2) 0 (fun n => satAdd 16 n 1) } }

/-- Send a chunk again: on the port that it used, or on another that qualifies, whose pair must have room where it is another
pair (R291, R293, R300). Each retransmission is recorded. -/
def Fabric.sendAgain (f : Fabric) (g : Nat) (c : SentChunk) : Fabric :=
  let x := f.group g
  let p := if (f.chunkPorts x c.h).contains c.port then some c.port else f.chunkPort x c.h
  match p with
  | none => f
  | some p =>
    if p / 2 ≠ c.port / 2 ∧ f.noRoom g p = true then f.countWait g p
    else
      let f := f.onGroup g (fun y => { y with
        blocked := false, retryCnt := satAdd 16 y.retryCnt 1
        sent := y.sent.map (fun k => if sameChunk k.h c.h then { k with port := p, tries := k.tries + 1, sentAt := f.now, due := false } else k) })
      (f.raise { source := srcSplice, unit := unitId 4 0 p, cause := 0x0802, owners := [gSlice x.record], syndrome := syn3 g c.h.step c.h.index }).putChunk g p c.h c.payload
/-- Send the group's next chunk for the first time, within its window. -/
def Fabric.sendFirst (f : Fabric) (g : Nat) : Fabric :=
  let x := f.group g
  match x.toSend with
  | [] => f
  | (h, payload) :: rest =>
    if gWindow x.record ≤ x.sent.length then f
    else
      match f.chunkPort x h with
      | none => f
      | some p =>
        if f.noRoom g p then f.countWait g p
        else
          let c : SentChunk := { h := h, payload := payload, crc := chunkCrc h payload, port := p, tries := 1, sentAt := f.now }
          (f.onGroup g (fun y => { y with toSend := rest, sent := y.sent ++ [c], blocked := false })).putChunk g p h payload
/-- A group's turn: one chunk while its gate is open, those to be sent again first (R291, R294, R295). -/
def Fabric.sendNext (f : Fabric) (g : Nat) : Fabric :=
  let x := f.group g
  if !x.going || !f.gateOpen x then f
  else
    match x.sent.find? (·.due) with
    | some c => f.sendAgain g c
    | none => f.sendFirst g

/-- Chunks that wait to be sent, for the first time or again. -/
def Group.waitingChunks (x : Group) : Nat := x.toSend.length + (x.sent.filter (·.due)).length
/-- Groups send in turn, one chunk each in ascending order, until none can (R294). -/
def Fabric.pump (f : Fabric) : Nat → Fabric
  | 0 => f
  | n + 1 =>
    let left (f : Fabric) : Nat := (f.splice.groups.map (fun e => e.2.waitingChunks)).sum
    let g := (f.splice.groups.keysOf (fun _ x => x.waitingChunks != 0)).foldl (fun f k => f.sendNext k) f
    if left g = left f then g else Fabric.pump g n
def Fabric.pumpAll (f : Fabric) : Fabric := f.pump ((f.splice.groups.map (fun e => e.2.waitingChunks)).sum + 1)

/-- A transmission of a chunk failed: a bad CRC, no acknowledgement in 20 µs, or the loss of its port. The fourth raises PATH;
before, the chunk is to be sent again (R287, R291, R300). -/
def Fabric.chunkLost (f : Fabric) (g : Nat) (c : SentChunk) : Fabric :=
  if c.due then f
  else if 4 ≤ c.tries then f.raiseAbort g .path 0
  else f.onGroup g (fun y => { y with sent := y.sent.map (fun k => if sameChunk k.h c.h then { k with due := true } else k) })
/-- Unacknowledged chunks of a port that is lost are sent again on another (R300). -/
def Fabric.resendFrom (f : Fabric) (p : Nat) : Fabric :=
  (f.splice.groups.foldl (fun f e => (e.2.sent.filter (fun c => c.port == p)).foldl (fun f c => f.chunkLost e.1 c) f) f).pumpAll

/-! ### What lands in range 0 (R286) -/

/-- Elements of range 0 are written. -/
def Fabric.landElems (f : Fabric) (g : Nat) (d : Desc) (p : Plan) (seg c : Nat) (codes : List Nat) (nan : Bool) : Fabric :=
  let x := f.group g
  (f.writeElems g (gSlice x.record) (d.extents.getD 0 []) (p.place seg c) codes p.bits).onGroup g (fun y => { y with
    written := y.written + codes.length, nanCnt := if nan then satAdd 8 y.nanCnt 1 else y.nanCnt })

/-- Segments in the order in which a member begins them: rank - 1, rank - 2, and so on (R290). -/
def Plan.order (p : Plan) : List Nat := (List.range (p.n - 1)).map (fun i => (p.rank + 2 * p.n - 1 - i) % p.n)

/-- GO: the member's send data is read, its reads under its own credits in class 4, and its first chunks are made (R203, R209,
R286, R290). -/
def Fabric.beginChunks (f : Fabric) (g : Nat) (d : Desc) : Fabric :=
  let x := f.group g
  let p := planOf x d
  let s := gSlice x.record
  let f := f.offerReads s 4 (sendExtents d p) (some g)
  let send (phase src seg : Nat) (f : Fabric) : Fabric :=
    loopN p.chunks f (fun c f => f.makeChunk g (chunkHdr x p phase src seg c false false) (packElems p.fmt (f.ownElems s d p seg c)))
  let keep (seg : Nat) (f : Fabric) : Fabric :=
    loopN p.chunks f (fun c f => f.landElems g d p seg c (f.ownElems s d p seg c) false)
  let f :=
    if p.sw then loopN p.n f (fun seg f => send 3 p.rank seg f)
    else
      match p.op with
      | 1 | 2 => if p.unsummed then p.order.foldl (fun f seg => send 0 p.rank seg f) f else send 0 p.rank ((p.rank + p.n - 1) % p.n) f
      | 3 => send 1 p.rank p.rank (keep p.rank f)
      | 4 => if p.rank = p.root then send 2 p.rank 0 f else f
      | _ => f
  f.pumpAll.checkEnd g

/-! ### Chunks received (R291, R292) -/

/-- A chunk's elements as sums. -/
def chunkSums (p : Plan) (h : ChunkHdr) (payload : List Byte) : List PSum :=
  if h.partialSum then decodePartial p.fmt h.count payload else (unpackElems p.fmt h.count payload).map (fun c => psumOf (decodeElem p.fmt c))
def ownSums (p : Plan) (l : List Nat) : List PSum := l.map (fun c => psumOf (decodeElem p.fmt c))

/-- The owner delivers a segment's chunk: it is written and, for an all-reduce, begins its gather. -/
def Fabric.deliverChunk (f : Fabric) (g : Nat) (d : Desc) (p : Plan) (seg c : Nat) (codes : List Nat) (nan : Bool) : Fabric :=
  let f := f.landElems g d p seg c codes nan
  if p.op = 1 then f.makeChunk g (chunkHdr (f.group g) p 1 p.rank seg c false nan) (packElems p.fmt codes) else f

/-- A reduce-phase chunk. -/
def Fabric.reduceChunk (f : Fabric) (g : Nat) (d : Desc) (p : Plan) (h : ChunkHdr) (payload : List Byte) : Fabric :=
  let seg := h.index / max 1 p.chunks
  let c := h.index % max 1 p.chunks
  let own := f.ownElems (gSlice (f.group g).record) d p seg c
  let mine := seg == p.rank
  if p.red ≠ 0 then
    let codes := List.zipWith (maxMin p.fmt p.red) (unpackElems p.fmt h.count payload) own
    if mine then f.deliverChunk g d p seg c codes false
    else f.makeChunk g (chunkHdr (f.group g) p 0 h.src seg c false h.nan) (packElems p.fmt codes)
  else if p.unsummed then
    if !mine then f.makeChunk g (chunkHdr (f.group g) p 0 h.src seg c false h.nan) payload
    else
      let key := seg * 2 ^ 32 + c
      let l := ((f.group g).accum.getD key []) ++ [payload]
      let f := f.onGroup g (fun x => { x with accum := x.accum.put key l })
      if l.length + 1 < p.n then f
      else
        let sums := l.foldl (fun acc b => List.zipWith PSum.add acc (chunkSums p { h with partialSum := false } b)) (ownSums p own)
        let out := sums.map (deliver p.fmt)
        (f.onGroup g (fun x => { x with accum := x.accum.del key })).deliverChunk g d p seg c (out.map (·.1)) (out.any (·.2))
  else
    let sums := List.zipWith PSum.add (chunkSums p h payload) (ownSums p own)
    if mine then
      let out := sums.map (deliver p.fmt)
      f.deliverChunk g d p seg c (out.map (·.1)) (out.any (·.2) || h.nan)
    else f.makeChunk g (chunkHdr (f.group g) p 0 h.src seg c true h.nan) (encodePartial p.fmt sums)

/-- A good chunk of the step in progress is added, written or passed on. -/
def Fabric.useChunk (f : Fabric) (g : Nat) (d : Desc) (p : Plan) (h : ChunkHdr) (payload : List Byte) : Fabric :=
  let seg := h.index / max 1 p.chunks
  let c := h.index % max 1 p.chunks
  let codes := unpackElems p.fmt h.count payload
  match h.phase with
  | 0 => f.reduceChunk g d p h payload
  | 4 => f.landElems g d p seg c codes h.nan
  | _ =>
    let f := f.landElems g d p seg c codes h.nan
    if (p.rank + 1) % p.n = h.src then f else f.makeChunk g h payload

/-- The link pair's count of chunks with a bad CRC. -/
def Fabric.countBadChunk (f : Fabric) (port : Nat) : Fabric :=
  { f with splice := { f.splice with aluCrcErr := f.splice.aluCrcErr.upd (port / 2) 0 (fun n => satAdd 16 n 1) } }

/-- The answer to a chunk goes back to where it came from: the switch or the predecessor. -/
def Fabric.answerChunk (f : Fabric) (g : Nat) (h : ChunkHdr) (good : Bool) : Fabric :=
  let m := if good then LinkMsg.ack h else LinkMsg.nack h
  if h.phase = 4 then f.sendChip (gSlice (f.group g).record) (gSwitch (f.group g).record) m else f.sendPred g m

/-- A step number that lies behind the next one. -/
def stepPast (x : Group) (k : Nat) : Bool :=
  let d := (x.stepNum + 65536 - k) % 65536
  decide (0 < d) && decide (d < 32768) && !(x.running.isSome && k == x.stepNow)

/-- A chunk arrives. -/
def Fabric.takeChunk (f : Fabric) (u : LinkUnit) (g : Nat) (h : ChunkHdr) (payload : List Byte) (crc : BitVec 32) : Fabric :=
  let a := f.ingress u
  if a.1.isNone then a.2
  else
    let f := a.2
    let x := f.group g
    if x.state != 3 || h.job != gJob x.record then f
    else if crc != chunkCrc h payload then (f.countBadChunk u.port).answerChunk g h false
    else if stepPast x h.step then f.answerChunk g h true
    else
      match f.runningStep g with
      | some (_, d) =>
        if h.step != x.stepNow || !x.isReady then f
        else if x.received.any (sameChunk h) then f.answerChunk g h true
        else
          let f := f.onGroup g (fun y => { y with received := y.received ++ [h] })
          let f := ((f.progress g).answerChunk g h true).useChunk g d (planOf x d) h payload
          (f.pumpAll.checkEnd g).settle
      | none => f
def execChunkReceive (u : LinkUnit) (g : Nat) (h : ChunkHdr) (payload : List Byte) (crc : BitVec 32) (s : State) :
    Host.Outcome State Fault Refusal :=
  s.run (fun f => f.takeChunk u g h payload crc)

/-- The chunk that an answer names. -/
def Fabric.sentChunk? (f : Fabric) (g : Nat) (h : ChunkHdr) : Option SentChunk := (f.group g).sent.find? (fun c => sameChunk c.h h)

/-- An acknowledgement arrives. -/
def Fabric.takeAck (f : Fabric) (g : Nat) (h : ChunkHdr) : Fabric :=
  if (f.sentChunk? g h).isNone then f
  else
    let f := (f.onGroup g (fun x => { x with sent := x.sent.filter (fun c => !sameChunk c.h h) })).progress g
    (f.pumpAll.checkEnd g).settle
def execChunkAck (m : Arrival Nat) (h : ChunkHdr) (s : State) : Host.Outcome State Fault Refusal :=
  s.run (fun f => f.fromPeer m.unit (·.takeAck m.body h))

/-- A transmission of the chunk that an answer or a timeout names failed; the chunks that may go do. -/
def Fabric.chunkFailed (f : Fabric) (g : Nat) (c : SentChunk) : Fabric := (f.chunkLost g c).pumpAll.settle
def Fabric.takeNack (f : Fabric) (g : Nat) (h : ChunkHdr) : Fabric :=
  match f.sentChunk? g h with | some c => f.chunkFailed g c | none => f
def execChunkNack (m : Arrival Nat) (h : ChunkHdr) (s : State) : Host.Outcome State Fault Refusal :=
  s.run (fun f => f.fromPeer m.unit (·.takeNack m.body h))
/-- No acknowledgement came in 20 µs; a chunk that already waits to be sent again is not waited for. -/
def Fabric.ackLate (f : Fabric) (g : Nat) (h : ChunkHdr) : Fabric :=
  match f.sentChunk? g h with
  | some c => if c.due then f else (f.advance (c.sentAt + 20000)).chunkFailed g c
  | none => f
def execChunkAckTimeout (g : Nat) (h : ChunkHdr) (s : State) : Host.Outcome State Fault Refusal := s.run (fun f => f.ackLate g h)

/-! ### Tokens (R286, R289, R297, R298) -/

/-- The CRC that READY carries: OPCODE and the STEP word. -/
def stepCrc (raw : BitVec 512) : BitVec 32 := crc32c (leBytes 1 (field raw 0 1) ++ leBytes 8 (field raw 0x10 8))
/-- The largest DRAG_AVG over the slice's engines. -/
def Fabric.worstDrag (f : Fabric) (s : Nat) : Nat := ((f.slice s).drags.map (fun e => e.2.avg)).foldl max 0
/-- The member has an up port to the switch on which its job may use the switch: without END_TO_END one with a hop key
(R289, R313). -/
def Fabric.reachesSwitch (f : Fabric) (x : Group) : Bool :=
  gSwitchAllowed x.record && (f.portsVl (gSlice x.record) (gSwitch x.record) (gVl x.record)).any
    (fun p => gEndToEnd x.record || f.wireReady p wireHop)

/-- GO reaches the member: the lag figures, then its chunks; a barrier ends. -/
def Fabric.goNow (f : Fabric) (g : Nat) (t : Token) : Fabric :=
  match f.runningStep g with
  | none => f
  | some (_, d) =>
    let f := (f.progress g).onGroup g (fun x =>
      let avg : Int := x.lagAvg
      { x with going := true, useSwitch := t.useSwitch, slowRank := t.slowRank, slowDrag := t.slowDrag, lagAny := true
               lagAvg := if x.lagAny then (avg + Int.tdiv (Int.ofNat t.slowHold - avg) 16).toNat else t.slowHold })
    let f := if (f.group g).leads || gRank (f.group g).record + 1 != gN (f.group g).record then f.sendSucc g (.go (gJob (f.group g).record) t) else f
    if field d.raw 0 1 = 5 then f.endStep g 0 0 else f.beginChunks g d

/-- READY has come back to rank 0: the path is chosen (R289). -/
def Fabric.choosePath (f : Fabric) (g : Nat) (t : Token) : Fabric :=
  match f.runningStep g with
  | none => f
  | some (_, d) =>
    let x := f.group g
    let op := field d.raw 0 1
    let m := f.switchMasks x
    let sw := (op == 1 || op == 2) && x.resv == 2 && bitAt m.1 (stepFmt d.raw) && bitAt m.2 (stepRedOp d.raw) && t.allReachSwitch && f.reachesSwitch x
    f.goNow g { t with useSwitch := sw }

/-- A member with a ready step takes READY: it checks the CRC, adds its own figures and passes it on. -/
def Fabric.passReady (f : Fabric) (g : Nat) (t : Token) (heldFrom : Nat) : Fabric :=
  match f.runningStep g with
  | none => f
  | some (_, d) =>
    let x := f.group g
    if t.crc != stepCrc d.raw then f.raiseAbort g .mismatch 0
    else if x.leads then f.choosePath g t
    else
      let hold := f.now - heldFrom
      let drag := f.worstDrag (gSlice x.record)
      let worst := decide (t.slowHold < hold)
      f.sendSucc g (.ready (gJob x.record) { t with hold := hold, drag := drag
                                                    slowRank := if worst then gRank x.record else t.slowRank
                                                    slowHold := if worst then hold else t.slowHold
                                                    slowDrag := if worst then drag else t.slowDrag
                                                    allReachSwitch := t.allReachSwitch && f.reachesSwitch x })

/-- A READY token arrives; it waits where the member's own step is not ready yet. -/
def Fabric.takeReady (f : Fabric) (g : Nat) (t : Token) : Fabric :=
  let x := f.group g
  if x.state != 3 then f
  else if x.running.isSome && t.step == x.stepNow then
    if x.going then f else ((f.progress g).passReady g t f.now).settle
  else if t.step == x.stepNum then f.onGroup g (fun y => { y with heldReady := some t, heldAt := f.now })
  else f
def execReadyToken (m : Arrival Nat) (t : Token) (s : State) : Host.Outcome State Fault Refusal :=
  s.run (fun f => f.fromPeer m.unit (·.takeReady m.body t))

/-- A GO token arrives. -/
def Fabric.takeGo (f : Fabric) (g : Nat) (t : Token) : Fabric :=
  let x := f.group g
  if x.state = 3 ∧ x.running.isSome = true ∧ t.step = x.stepNow ∧ x.going = false ∧ x.leads = false then (f.goNow g t).settle else f
def execGoToken (m : Arrival Nat) (t : Token) (s : State) : Host.Outcome State Fault Refusal :=
  s.run (fun f => f.fromPeer m.unit (·.takeGo m.body t))

/-- A step begins: it is counted where the chip's time is unlocked (R297), rank 0 asks again for the switch (R288). -/
def Fabric.beginStep (f : Fabric) (g q : Nat) (d : Desc) : Fabric :=
  let x := f.group g
  let s := gSlice x.record
  let f := (f.onDesc q d.seq (fun d => { d with belay := .issued })).moveIssue q
  let f := f.onGroup g (fun y => { y.clearStep with
    running := some d.seq, stepNum := (y.stepNum + 1) % 65536, isReady := true, readyAt := f.now, lastProgress := f.now })
  let f : Fabric :=
    if f.frame.sync.locked then f
    else
      let first := !f.frame.sync.unlockedNoted
      let f := f.onGroup g (fun y => { y with unlocked := satAdd 16 y.unlocked 1 })
      if first then (f.onSync (fun y => { y with unlockedNoted := true })).raiseCentral srcSplice 0x0508 [s] (syn3 g x.stepNum 0) else f
  let f := if x.resv = 3 ∧ x.denyFrame + 1024 ≤ f.frame.frameNum then f.askReserve g else f
  if x.leads then
    f.sendSucc g (.ready (gJob x.record) { step := x.stepNum, crc := stepCrc d.raw, hold := 0, drag := 0, slowRank := 0, slowHold := 0, slowDrag := f.worstDrag s,
                                           allReachSwitch := f.reachesSwitch x, useSwitch := false })
  else
    match x.heldReady with
    | some t => if t.step = x.stepNum then (f.onGroup g (fun y => { y with heldReady := none })).passReady g t x.heldAt else f
    | none => f

/-- A step that an ABORT has ended before the member began it ends here without beginning; TIMEOUT counts as on every other
member (R287, R299). -/
def Fabric.endAhead (f : Fabric) (g : Nat) (d : Desc) (c : AbortCause) : Fabric :=
  let f := f.onGroup g (fun y => { y with
    running := some d.seq, stepNum := (y.stepNum + 1) % 65536, lastProgress := f.now
    abortAhead := y.abortAhead.filter (fun b => b.1 != y.stepNum) })
  f.endStep g (abortStatus c false) 0 (c == .timeout)

/-- The member's next step is ready (R286). -/
def Fabric.stepIsReady (f : Fabric) (g : Nat) : Fabric :=
  let x := f.group g
  if x.state != 3 || x.running.isSome || !f.isActive (gSlice x.record) || f.rs.frozen then f
  else
    match f.stepDesc g x.stepNum with
    | none => f
    | some (q, d) =>
      if d.stage != .bound || d.belay != .bound || d.readyAt.isNone || d.stale || d.ending.isSome then f
      else
        match x.abortAhead.find? (fun a => a.1 == x.stepNum) with
        | some a => (f.endAhead g d a.2).settle
        | none => (f.beginStep g q d).settle
def execStepReady (g : Nat) (s : State) : Host.Outcome State Fault Refusal := s.run (fun f => f.stepIsReady g)

/-! ### Aborts and the gang timeout (R287, R296) -/

/-- An ABORT arrives: the first for a step is passed on to the other neighbour, whether the step is to come, in progress or
over on this member; one in progress ends, and one to come ends when the member reaches it (R287). What was received for steps
that lie half the range of step numbers behind is forgotten. -/
def Fabric.takeAbort (f : Fabric) (g k : Nat) (c : AbortCause) (fromSucc : Bool) : Fabric :=
  let x := f.group g
  let m := LinkMsg.abort (gJob x.record) k c
  if x.state != 3 || x.abortSeen.contains k then f
  else
    let f := if fromSucc then f.sendPred g m else f.sendSucc g m
    let f := f.onGroup g (fun y => { y with abortSeen := y.abortSeen.filter (fun n => decide ((y.stepNum + 65536 - n) % 65536 < 32768)) ++ [k] })
    if x.running.isSome && k == x.stepNow then (f.endStep g (abortStatus c false) 0 (c == .timeout)).settle
    else if stepPast x k then f
    else f.onGroup g (fun y => { y with abortAhead := y.abortAhead ++ [(k, c)]
                                        heldReady := if (y.heldReady.map (·.step)) = some k then none else y.heldReady })
def execStepAbort (m : Arrival Nat) (step : Nat) (cause : AbortCause) (fromSuccessor : Bool) (s : State) : Host.Outcome State Fault Refusal :=
  s.run (fun f => f.fromPeer m.unit (·.takeAbort m.body step cause fromSuccessor))

/-- No progress for GANG_TIMEOUT_US. -/
def Fabric.gangLate (f : Fabric) (g : Nat) : Fabric :=
  let x := f.group g
  if x.running.isNone then f
  else ((f.advance (x.lastProgress + gTimeoutUs x.record * 1000)).raiseAbort g .timeout 0).settle
def execGangTimeout (g : Nat) (s : State) : Host.Outcome State Fault Refusal := s.run (fun f => f.gangLate g)

/-! ### Group packets (R281, R431) -/

/-- The group that a packet names. -/
def pgroup (p : Packet) : Nat := pfield p 0x18 1

def rowGrpDefine : Row :=
  { op := false, pf := true, params := [(0x18, 1), (0x19, 1), (0x20, 32)], range := fun _ p => decide (pfield p 0x19 1 < 8),
    body := fun p _ f =>
      let g := pgroup p
      let k := pfield p 0x19 1
      let x := f.group g
      if 2 ≤ x.state then (f, some (rep stState))
      else (f.onGroup g (fun y => { y with
        state := 1, record := setField y.record (32 * k) 32 (pdata p).toNat, parts := y.parts ||| BitVec.ofNat 8 (2 ^ k) }), some (repOk)) }

/-- A checked group binds its step queue and starts to join; a JOIN held for its job is taken now. -/
def Fabric.createGroup (f : Fabric) (g : Nat) : Fabric :=
  let x := f.group g
  let r := x.record
  let base := (((f.grpQueue r).bind f.sq?).map (·.accepted)).getD 0
  let f := match f.grpQueue r with | some q => f.onSq q (fun y => { y with group := some g }) | none => f
  let fresh : Group := { state := 2, record := r, parts := x.parts, base := base, joinFrom := f.now }
  let f := f.onGroup g (fun _ => fresh)
  let f := f.sendSucc g (.join (gJob r) (joinCrcOf r))
  match f.splice.joins.find? (fun j => j.2.1 == gJob r) with
  | some j =>
    let f : Fabric := { f with splice := { f.splice with joins := f.splice.joins.filter (fun k => k.2.1 != gJob r) } }
    f.joinAt g j.2.2.1
  | none => f

def rowGrpCreate : Row :=
  { op := false, pf := true, params := [(0x18, 1)],
    body := fun p _ f =>
      match f.grpCheck (f.group (pgroup p)) with
      | some n => (f, some (repCheck n))
      | none => ((f.createGroup (pgroup p)).settle, some (repOk)) }

def rowGrpDestroy : Row :=
  { op := false, pf := true, params := [(0x18, 1)],
    body := fun p r f =>
      let g := pgroup p
      let x := f.group g
      if x.state = 0 ∨ x.destroy.isSome then (f, some (rep stState))
      else (((f.breakGroup g).onGroup g (fun y => { y with destroy := some r })).settle, none) }

def rowGrpQuery : Row :=
  { op := false, pf := true, vf := true, params := [(0x18, 1), (0x19, 1)],
    own := fun f n p => (f.group (pgroup p)).state != 0 && gFn (f.group (pgroup p)).record == n,
    range := fun _ p => decide (pfield p 0x19 1 ≤ 8),
    body := fun p _ f =>
      let g := pgroup p
      let k := pfield p 0x19 1
      (f, some (if k = 0 then repOk [(0x20, 8, (f.spliceGrp g).toNat), (0x28, 8, (f.spliceStep g).toNat), (0x30, 8, (f.spliceLag g).toNat), (0x38, 8, (f.spliceWait g).toNat)]
        else { status := stOk, result := (f.group g).record.extractLsb' (256 * (k - 1)) 256 })) }

def rowSwitchAttest : Row :=
  { slice := true, params := [(0x18, 1), (0x19, 1), (0x1A, 2), (0x1C, 2), (0x1E, 2), (0x20, 1)],
    range := fun _ p => decide (pfield p 0x18 1 < 64) && decide (pfield p 0x19 1 ≤ 1) && decide (pfield p 0x1C 2 < 1024) && decide (pfield p 0x20 1 < 8),
    body := fun p _ f =>
      let w : Word := BitVec.ofNat 64 (bf (pfield p 0x1A 2) 48 16 + bf (pfield p 0x1E 2) 32 16 + bf (pfield p 0x20 1) 29 3 + bf (pslice p) 23 6 + bf (pfield p 0x1C 2) 13 10 + 1)
      let t := if pfield p 0x19 1 = 1 then f.splice.attest.put (pfield p 0x18 1) w else f.splice.attest.del (pfield p 0x18 1)
      ({ f with splice := { f.splice with attest := t } }, some (repOk)) }

/-- GRP_DEFINE. -/
def execGrpDefine (p : Packet) (s : State) : Host.Outcome State Fault Refusal := s.run (control rowGrpDefine p)
/-- GRP_CREATE. -/
def execGrpCreate (p : Packet) (s : State) : Host.Outcome State Fault Refusal := s.run (control rowGrpCreate p)
/-- GRP_DESTROY. -/
def execGrpDestroy (p : Packet) (s : State) : Host.Outcome State Fault Refusal := s.run (control rowGrpDestroy p)
/-- GRP_QUERY. -/
def execGrpQuery (p : Packet) (s : State) : Host.Outcome State Fault Refusal := s.run (control rowGrpQuery p)
/-- SWITCH_ATTEST. -/
def execSwitchAttest (p : Packet) (s : State) : Host.Outcome State Fault Refusal := s.run (control rowSwitchAttest p)

/-! ### Peer notices (R403) -/

/-- A notice from a peer: it is recorded; for CHIP_RESET and CHIP_DOWN the requests outstanding to the sender complete
PEER_LOST. -/
def Fabric.takeNotice (f : Fabric) (kind chip : Nat) (job : BitVec 32) : Fabric :=
  let f := f.raiseCentral srcRs 0x0907 [] (syn3 kind chip job.toNat)
  if kind = 1 ∨ kind = 3 then
    let hit := f.remotes.filter (fun r => r.2.peer == chip)
    hit.foldl (fun f r => ({ f with remotes := f.remotes.del r.1 } : Fabric).failRemote r.2 8) f
  else f
def execPeerNoticeReceived (u : LinkUnit) (kind chip : Nat) (job : BitVec 32) (s : State) : Host.Outcome State Fault Refusal :=
  s.run (fun f => f.fromPeer u (·.takeNotice kind chip job))

/-! ### Port width (R212) -/

/-- The link layer reports lanes and peer of a port; a narrowed or lost port is recorded, and groups that no longer reach
a neighbour break (R299). -/
def Fabric.linkChange (f : Fabric) (p lanes peer peerPort : Nat) : Fabric :=
  let old := f.lanesOf p
  let f := f.onCleat (fun c => { c with lanes := c.lanes.put p lanes, peers := c.peers.put p (if lanes = 0 then (0, 0) else (peer, peerPort)) })
  let own := f.portOwners p
  let note (cause : BitVec 16) (f : Fabric) : Fabric :=
    f.raise { source := srcPort p, unit := unitId 4 0 p, cause := cause, owners := own, fabric := true, syndrome := syn3 lanes old 0 }
  let f := if lanes = 0 ∧ old ≠ 0 then note 0x0805 f else if lanes < old then note 0x0804 f else f
  (if lanes = 0 then f.resendFrom p else f).breakUnreached.settle
def execLinkStateChange (port lanes peer peerPort : Nat) (s : State) : Host.Outcome State Fault Refusal :=
  s.run (fun f => f.linkChange port lanes peer peerPort)

end Sys2Proof.Machine
end

