-- ==== Sys2Proof/Machine/Keys.lean ====
section
/-! DEFINITION. Key slots: staging, installation, revocation (R303 to R319), weight import (R320 to R322), attestation
reports (R323 to R325), debug sessions (R326 to R328), control keys and measurements (R341, R342). -/

namespace Sys2Proof.Machine

/-! ### The key port (R305) -/

/-- Requests on the key port: unwrap a blob, zero a slice's slots, destroy a slice's escrows, destroy one escrow,
restore a slot, draw PROJ_KEY, draw the audit seed, draw the fabric slots. -/
def keyUnwrap : Nat := 0
def keyZero : Nat := 1
def keyEscrowSlice : Nat := 2
def keyEscrowSlot : Nat := 3
def keyRestore : Nat := 4
def keyProj : Nat := 5
def keySeed : Nat := 6
def keyFabric : Nat := 7
def Fabric.askKey (f : Fabric) (op arg : Nat) (blob : BitVec 1024 := 0) : Fabric := f.emit (.keyPort op arg blob)
/-- A slot in an argument of the key port. -/
def slotArg (kind index : Nat) : Nat := kind * 65536 + index

/-! ### Slots (R303, R304) -/

/-- The chip-wide index of a slot that a packet names: none where the slice has no such slot. -/
def Fabric.slotIndex (f : Fabric) (s kind index : Nat) : Option Nat :=
  let x := f.slice s
  match kind with
  | 0 | 1 => if holds x.state && decide (index < recMemKeys x.record) then some (x.keyBase + index) else none
  | 2 => ((f.keys.links.find? (fun k => k.2.slice == s && k.2.loc == index && k.2.state != 0)).map (·.1))
  | 3 => if index < Config.ports then some index else none
  | 4 => if index = 0 then some 0 else none
  | 5 => if index < 8 then some index else none
  | _ => none

/-- State, KEY_ID and KEY_TAG of a slot by kind and chip-wide index; a slot that holds another kind counts as EMPTY. -/
def Fabric.slotInfo (f : Fabric) (kind k : Nat) : Nat × BitVec 32 × BitVec 16 :=
  match kind with
  | 2 => let x := f.keys.links.getD k {}; (x.state, x.keyId, x.tag)
  | 3 => (f.keys.hop.getD k 0, f.keys.hopId.getD k 0, 0)
  | 4 => (f.keys.cluster, f.keys.clusterId, 0)
  | _ => let x := f.keys.mem.getD k {}; if x.kind = kind then (x.state, x.keyId, 0) else (0, 0, 0)
/-- State of a slot. -/
def Fabric.slotState (f : Fabric) (kind k : Nat) : Nat := (f.slotInfo kind k).1

/-- Replace the state of a slot. -/
def Fabric.setSlot (f : Fabric) (kind k st : Nat) : Fabric :=
  f.onKeys (fun x =>
    match kind with
    | 2 => { x with links := x.links.onKey k (fun y => { y with state := st }) }
    | 3 => { x with hop := x.hop.put k st }
    | 4 => { x with cluster := st }
    | _ => { x with mem := x.mem.onKey k (fun y => { y with state := st }) })
/-- A slot becomes EMPTY. -/
def Fabric.emptySlot (f : Fabric) (kind k : Nat) : Fabric :=
  f.onKeys (fun x =>
    match kind with
    | 2 => { x with links := x.links.del k }
    | 3 => { x with hop := x.hop.del k, hopId := x.hopId.del k }
    | 4 => { x with cluster := 0, clusterId := 0 }
    | _ => { x with mem := x.mem.del k })
/-- The number under which the receivers keep the counters of a key; none for a memory slot. -/
def wireOf (kind k : Nat) : Option Nat := match kind with | 2 => some k | 3 => some wireHop | 4 => some wireCluster | _ => none
/-- The counters of a key are cleared, at its senders and its receivers (R314, R315). -/
def Fabric.clearCounters (f : Fabric) (kind k : Nat) : Fabric :=
  match wireOf kind k with
  | some w =>
    f.onKeys (fun x => { x with
      rxLast := x.rxLast.filter (fun e => e.1 % 2048 != w || (kind == 3 && e.1 / 16384 != k))
      txLast := x.txLast.filter (fun e => e.1 % 2048 != w || (kind == 3 && e.1 / 16384 != k)) })
  | none => f

/-- Keys of a slice that are INSTALLED: MEMORY, CONTENT and LINK_JOB (R343). -/
def Fabric.memKeysOf (f : Fabric) (s : Nat) : List (Nat × MemSlot) := f.keys.mem.filter (fun k => k.2.slice == s && k.2.kind ≤ 1 && k.2.state == 1)
def Fabric.linkKeysOf (f : Fabric) (s : Nat) : List (Nat × LinkKey) := sortBy (fun k => k.2.loc) (f.keys.links.filter (fun k => k.2.slice == s && k.2.state == 1))
def Fabric.keysInstalled (f : Fabric) (s : Nat) : Nat := (f.memKeysOf s).length + (f.linkKeysOf s).length

/-! ### Staging and installing (R306, R307) -/

def rowKeyStage : Row :=
  { params := [(0x18, 1), (0x20, 32)], range := fun _ p => decide (pfield p 0x18 1 < 4),
    body := fun p _ f => (f.onKeys (fun k => { k with staging := k.staging.put (pfield p 0x18 1) (pdata p) }), some (repOk)) }

/-- The staged blob. -/
def Keys.blob (k : Keys) : BitVec 1024 := (List.range 4).foldl (fun b i => setField b (32 * i) 32 (k.staging.getD i 0).toNat) 0
/-- Check 2 of R307. -/
def blobOk (b : BitVec 1024) (kind : Nat) : Bool :=
  decide (field b 0 1 = 1) && decide (field b 1 1 = kind) && zeroAt b 4 4 && zeroAt b 0xC 4 && zeroAt b 0x1C 4 && zeroAt b 0x70 16

/-- A slice in which keys are installed: CREATED, ACTIVE or RESETTING. -/
def Fabric.sliceUp (f : Fabric) (s : Nat) : Bool :=
  let x := (f.slice s).state
  x == .created || x == .active || x == .resetting

/-- Check 4 of R307. -/
def Fabric.installIndexOk (f : Fabric) (s kind index : Nat) : Bool :=
  let r := (f.slice s).record
  match kind with
  | 0 => decide (index < recMemKeys r)
  | 1 => decide (index < recMemKeys r) && decide (1 ≤ index)
  | 2 => decide (index < recLinkKeys r)
  | 3 => decide (index < Config.ports) && bitAt f.units.portPresent index
  | _ => index == 0
/-- Check 5 of R307: the slot is EMPTY, and no earlier install of it waits. -/
def Fabric.installFree (f : Fabric) (s kind index : Nat) : Bool :=
  let mem (k : Nat) : Bool := k ≤ 1
  (match kind with
    | 0 | 1 => (f.keys.mem.getD ((f.slice s).keyBase + index) {}).state == 0
    | 2 => (f.slotIndex s 2 index).isNone
    | _ => f.slotState kind index == 0)
    && !f.keys.installing.any (fun i => i.slice == s && i.index == index && (i.kind == kind || (mem i.kind && mem kind)))
/-- Check 6 of R307. -/
def Fabric.installTagOk (f : Fabric) (kind : Nat) (tag : BitVec 16) : Bool :=
  if kind = 2 then tag != 0 && tag != 0xFFFF && !f.keys.links.any (fun k => k.2.state != 0 && k.2.tag == tag)
    && !f.keys.installing.any (fun i => i.kind == 2 && i.tag == tag)
  else tag == 0

/-- KEY_INSTALL: checks 1 to 6 now, check 7 at the security block's answer. The staging buffer is cleared. -/
def rowKeyInstall : Row :=
  { slice := true, params := [(0x18, 1), (0x1A, 2), (0x1C, 2)], range := fun _ p => decide (pfield p 0x18 1 ≤ 4),
    body := fun p r f =>
      let s := pslice p
      let kind := pfield p 0x18 1
      let index := pfield p 0x1A 2
      let tag := BitVec.ofNat 16 (pfield p 0x1C 2)
      let b := f.keys.blob
      let all := (List.range 4).all (fun i => (f.keys.staging.find i).isSome)
      let fails := firstFail [(1, all), (2, blobOk b kind), (3, if kind ≤ 2 then f.sliceUp s else s == 0), (4, f.installIndexOk s kind index),
        (5, f.installFree s kind index), (6, f.installTagOk kind tag)]
      let f := f.onKeys (fun k => { k with staging := [] })
      match fails with
      | some n => (f, some (repCheck n))
      | none =>
        let i : Install := { req := r, slice := s, kind := kind, index := index, tag := tag, keyId := BitVec.ofNat 32 (field b 8 4), askedAt := f.now }
        ((f.onKeys (fun k => { k with installing := k.installing ++ [i] })).askKey keyUnwrap (slotArg kind index) b, none) }

/-- The key is in every copy of its slot; the slot's chip-wide index is answered. -/
def Fabric.install (f : Fabric) (i : Install) : Fabric :=
  if i.kind ≤ 2 && !f.sliceUp i.slice then f
  else
    let f := f.onKeys (fun k => { k with keyGen := k.keyGen + 1 })
    let done (f : Fabric) (k : Nat) : Fabric := (f.clearCounters i.kind k).reply i.req (repOk [(0x20, 2, k)])
    match i.kind with
    | 2 =>
      match f.keys.links.lowestFree 0 1024 with
      | some k => done (f.onKeys (fun x => { x with links := x.links.put k { state := 1, slice := i.slice, loc := i.index, tag := i.tag, keyId := i.keyId } })) k
      | none => f
    | 3 => done (f.onKeys (fun x => { x with hop := x.hop.put i.index 1, hopId := x.hopId.put i.index i.keyId })) i.index
    | 4 => done (f.onKeys (fun x => { x with cluster := 1, clusterId := i.keyId })) 0
    | _ =>
      let k := (f.slice i.slice).keyBase + i.index
      let slot : MemSlot := { state := 1, kind := i.kind, slice := i.slice, selector := i.index, keyId := i.keyId, gen := f.keys.keyGen }
      done (f.onKeys (fun x => { x with mem := x.mem.put k slot })) k

/-- Check 7: the security block's answer to the oldest install. -/
def Fabric.unwrapDone (f : Fabric) (ok : Bool) : Fabric :=
  match f.keys.installing with
  | i :: t =>
    let f := f.onKeys (fun k => { k with installing := t })
    if ok then f.install i else f.reply i.req (repCheck 7)
  | [] => f

/-- No answer in 20 µs. -/
def Fabric.unwrapLate (f : Fabric) : Fabric :=
  match f.keys.installing with
  | i :: _ => (f.advance (i.askedAt + 20000)).unwrapDone false
  | [] => f
def execKeyUnwrapTimeout (s : State) : Host.Outcome State Fault Refusal := s.run (fun f => f.unwrapLate)

def rowKeyQuery : Row :=
  { pf := true, slice := true, params := [(0x18, 1), (0x1A, 2)], range := fun _ p => decide (pfield p 0x18 1 ≤ 5),
    body := fun p _ f =>
      let kind := pfield p 0x18 1
      match f.slotIndex (pslice p) kind (pfield p 0x1A 2) with
      | none => (f, some (repOk))
      | some k =>
        let i := f.slotInfo kind k
        (f, some (repOk [(0x20, 1, i.1), (0x22, 2, i.2.2.toNat), (0x24, 4, i.2.1.toNat), (0x28, 2, k)])) }

/-! ### Revocation (R317 to R319) -/

/-- A descriptor holds an extent, or a remote leaf, under a key. -/
def Desc.usesKey (d : Desc) (target sel : Nat) : Bool :=
  let hit (e : Extent) : Bool := e.target == target && e.keySel == sel
  d.extents.any (fun l => l.any hit) || d.insts.any (fun i => i.2.rows.any hit)
/-- Descriptors of a slice under a key that have not reached PASSED. -/
def Fabric.keyHolders (f : Fabric) (s target sel : Nat) : List (Nat × BitVec 32) :=
  ((f.descsOf s).filter (fun e => e.2.belay != .passed && e.2.belay != .committing && e.2.usesKey target sel)).map (fun e => (e.1, e.2.seq))

/-- The holdings of a slice under a slot that becomes REVOKING. -/
def Fabric.revokeHoldings (f : Fabric) (s kind index : Nat) : Fabric :=
  match kind with
  | 0 => (f.keyHolders s 0 index).foldl (fun f e => f.endDesc e.1 e.2 7 true) f
  | 1 => f.stopImports (fun i => i.slice == s && i.selector == index)
  | 2 =>
    let f := (f.keyHolders s 2 index).foldl (fun f e => f.endDesc e.1 e.2 7 true) f
    let f := { f with windows := f.windows.each (fun _ w => if w.state == 1 && w.slice == s && w.jobKey == index then { w with state := 2 } else w) }
    f.breakGroups (fun x => (x.state == 2 || x.state == 3) && gSlice x.record == s && gJobKey x.record == index)
  | _ => f

def rowKeyDestroy : Row :=
  { slice := true, params := [(0x18, 1), (0x1A, 2)], range := fun _ p => decide (pfield p 0x18 1 ≤ 4),
    body := fun p r f =>
      let s := pslice p
      let kind := pfield p 0x18 1
      let index := pfield p 0x1A 2
      let x := f.slice s
      if kind ≤ 2 && (leaving x.state || (kind == 0 && index == 0 && (x.state == .active || x.state == .resetting))) then (f, some (rep stState))
      else
        match f.slotIndex s kind index with
        | none => (f, some (repOk))
        | some k =>
          if f.slotState kind k != 1 then (f, some (repOk [(0x20, 1, f.slotState kind k)]))
          else
            let f := (f.setSlot kind k 2).revokeHoldings s kind index
            let f := f.onKeys (fun y => { y with revokes := y.revokes ++
              [{ slice := s, kind := kind, index := k, req := some r, zeroed := false, asked := false, askedAt := f.now, tries := 0 }] })
            (f.settle, none) }

/-- The census of a revocation: nothing is held under the slot, by descriptors, transfers, windows or the running import (R318,
R322). -/
def Fabric.revokeClear (f : Fabric) (r : Revoke) : Bool :=
  match r.kind with
  | 0 =>
    let sel := r.index - (f.slice r.slice).keyBase
    (f.keyHolders r.slice 0 sel).isEmpty
      && !f.keys.imports.any (fun i => i.begun && i.slice == r.slice && i.exts.any (fun e => e.target == 0 && e.keySel == sel))
      && !f.cleat.regs.any (fun g => decide (g.1 < 16) && (g.2.waiting ++ g.2.out).any (fun u => u.slice == some r.slice && u.keySlot == r.index && (u.mi || u.window.isSome)))
  | 2 =>
    let loc := (f.keys.links.getD r.index {}).loc
    (f.keyHolders r.slice 2 loc).isEmpty && f.windows.all (fun w => w.2.slice != r.slice || w.2.jobKey != loc || w.2.inFlight == 0)
  | _ => true

/-- Every copy of a slot is zeroed: a memory slot decrypts nothing again, and what waits on a link port under the key does not
leave (R318, R319). -/
def Fabric.zeroSlot (f : Fabric) (kind index : Nat) : Fabric :=
  match wireOf kind index with
  | none => f.onKeys (fun k => { k with mem := k.mem.onKey index (fun m => { m with gen := noKey + 1 }) })
  | some w => f.onCleat (fun c => { c with regs := c.regs.each (fun r g =>
      if r < 16 ∨ 48 ≤ r ∨ (kind = 3 ∧ r ≠ 16 + index) then g
      else { g with waiting := g.waiting.filter (fun u => (u.wire.map (·.1)) != some w) }) })
/-- A revocation of a slice's key while the slice is being removed, which has its own sequence (R339). -/
def Fabric.revokeAbsorbed (f : Fabric) (r : Revoke) : Bool := r.kind ≤ 2 && leaving (f.slice r.slice).state
/-- One revocation at a boundary: every copy is zeroed and the security block is asked to destroy the escrow. -/
def Fabric.revokeStep (f : Fabric) (r : Revoke) : Fabric :=
  if r.zeroed || f.revokeAbsorbed r || !f.revokeClear r then f
  else
    let f := ((f.zeroSlot r.kind r.index).clearCounters r.kind r.index).onKeys (fun k => { k with revokes := k.revokes.map (fun y =>
      if y.kind == r.kind && y.index == r.index then { y with zeroed := true, asked := true, askedAt := f.now } else y) })
    f.askKey keyEscrowSlot (slotArg r.kind r.index)
/-- All revocations at a boundary. -/
def Fabric.revokeCensus (f : Fabric) : Fabric := f.keys.revokes.foldl (fun f r => f.revokeStep r) f

/-- The escrow of one slot is destroyed: the slot is EMPTY and KEY_DESTROY is answered. -/
def Fabric.slotDestroyed (f : Fabric) (kind index : Nat) : Fabric :=
  match f.keys.revokes.find? (fun r => r.zeroed && r.kind == kind && r.index == index && !f.revokeAbsorbed r) with
  | some r =>
    let f := (f.emptySlot kind index).onKeys (fun k => { k with revokes := k.revokes.filter (fun y => y.kind != kind || y.index != index) })
    f.replyOpt r.req (repOk [(0x20, 1, 0)])
  | none => f

/-- R319: an escrow destruction failed; the third failure is FATAL. -/
def Fabric.escrowRecord (f : Fabric) (tries : Nat) : Fabric :=
  f.raiseCentral srcKey 0x0903 [] (BitVec.ofNat 192 tries) (if 3 ≤ tries then some 3 else none)

/-- No confirmation came in 20 µs: for the removal of the slice, else for a revoked slot of it. -/
def Fabric.escrowLate (f : Fabric) (s : Nat) : Fabric :=
  let x := f.slice s
  if x.escrowAsked then
    let f := f.advance (x.escrowAt + 20000)
    let f := f.onSlice s (fun y => { y with escrowAsked := false, escrowAt := f.now, escrowTries := y.escrowTries + 1 })
    f.escrowRecord (x.escrowTries + 1)
  else
    match f.keys.revokes.find? (fun r => r.slice == s && r.asked) with
    | some r =>
      let f := f.advance (r.askedAt + 20000)
      let f := f.onKeys (fun k => { k with revokes := k.revokes.map (fun y =>
        if y.kind == r.kind && y.index == r.index then { y with asked := false, askedAt := f.now, tries := y.tries + 1 } else y) })
      f.escrowRecord (r.tries + 1)
    | none => f
def execEscrowConfirmTimeout (slice : Nat) (s : State) : Host.Outcome State Fault Refusal := s.run (fun f => f.escrowLate slice)

/-- 2 ms after a failure the key port asks again; after the third it does not. -/
def Fabric.escrowRetry (f : Fabric) (s : Nat) : Fabric :=
  let x := f.slice s
  if !x.escrowAsked && x.keysZeroed && !x.escrowDone && decide (1 ≤ x.escrowTries) && decide (x.escrowTries < 3) then
    let f := f.advance (x.escrowAt + 2000000)
    (f.onSlice s (fun y => { y with escrowAsked := true, escrowAt := f.now })).askKey keyEscrowSlice s
  else
    match f.keys.revokes.find? (fun r => r.slice == s && r.zeroed && !r.asked && decide (r.tries < 3)) with
    | some r =>
      let f := f.advance (r.askedAt + 2000000)
      let f := f.onKeys (fun k => { k with revokes := k.revokes.map (fun y =>
        if y.kind == r.kind && y.index == r.index then { y with asked := true, askedAt := f.now } else y) })
      f.askKey keyEscrowSlot (slotArg r.kind r.index)
    | none => f
def execEscrowRetryDue (slice : Nat) (s : State) : Host.Outcome State Fault Refusal := s.run (fun f => f.escrowRetry slice)

/-! ### Weight import (R320 to R322) -/

def rowWeightImport : Row :=
  { pf := true, slice := true, params := [(0x18, 2), (0x1A, 2), (0x1C, 2), (0x20, 8), (0x28, 8)],
    range := fun _ p => decide (pfield p 0x1A 2 < 4096) && decide (pfield p 0x1C 2 < 4096) && decide (pfield p 0x20 8 < 2 ^ 48) && decide (pfield p 0x28 8 < 2 ^ 48),
    body := fun p r f =>
      let s := pslice p
      let sel := pfield p 0x18 2
      let st := (f.slice s).state
      let ready := match f.slotIndex s 1 sel with | some k => f.slotState 1 k == 1 | none => false
      if !(st == .created || st == .active) || !ready then (f, some (rep stState))
      else if 5 ≤ f.keys.imports.length then (f, some (rep stFull))
      else
        let i : Import :=
          { req := r, slice := s, selector := sel, srcTag := pfield p 0x1A 2, dstTag := pfield p 0x1C 2, srcVa := pfield p 0x20 8,
            dstVa := pfield p 0x28 8 }
        ((f.onKeys (fun k => { k with imports := k.imports ++ [i] })).startImports, none) }

/-- Write bytes at the front of a list of device extents, as units of class 2; what follows them is left open (R321, R322). -/
def Fabric.writeExtents (f : Fabric) (s : Nat) (l : List Extent) (data : List Byte) : Fabric :=
  let n := data.length
  let f := f.offerImport s true (cutExtents l 0 n) data
  (cutExtents l n (((l.map (·.len)).sum) - n)).foldl (fun f e => f.onKeys (fun k => { k with
    lineKeys := markLines k.lineKeys (devKey e.stack e.addr / 64) (e.len / 64) noKey })) f

/-- The outcome of the running import: the failed step or 0, the segment at which step 5 failed, and the header; with what it
reads and writes waiting at the regulators. `lost` is what could not be read: 0 the header, n + 1 segment n. -/
def Fabric.importOutcome (f : Fabric) (i : Import) (lost : Option Nat) (host : List Byte) : Nat × Nat × List Byte × Fabric :=
  let s := i.slice
  let slot := f.keys.mem.getD ((f.slice s).keyBase + i.selector) {}
  match f.bindImport s i.srcTag i.srcVa 256 false with
  | none => (1, 0, [], f)
  | some e0 =>
    let header := f.sourceBytes s e0 host
    let h := ofBytes 2048 header
    if lost = some 0 then (1, 0, header, f)
    else if !pkgOk h slot.keyId || !headerTagOk slot.gen header then (2, 0, header, f.offerImport s false e0 [])
    else
      match f.bindImport s i.srcTag i.srcVa (pkgSize h) false with
      | none => (3, 0, header, f.offerImport s false e0 [])
      | some src =>
        match f.bindImport s i.dstTag i.dstVa (pkgLen h) true with
        | none => (4, 0, header, f.offerImport s false e0 [])
        | some dst =>
          if dst.any (fun e => e.target != 0) || dst.any (fun e => src.any (extOverlap e)) then (4, 0, header, f.offerImport s false e0 [])
          else
            let r := openSegments slot.gen h (f.sourceBytes s src host) (lost.map (· - 1)) (List.range (pkgSegments h))
            let f := (f.offerImport s false src []).writeExtents s dst r.1
            (if r.2.isSome then 5 else 0, r.2.getD 0, header, f)

/-- The import pipe is done with its running import, whose units then pass the regulators (R321, R322). -/
def Fabric.endImport (f : Fabric) (lost : Option Nat) (host : List Byte) : Fabric :=
  match f.keys.imports with
  | [] => f
  | i :: _ =>
    if i.ended.isSome then f
    else
      let h := (((f.bindImport i.slice i.srcTag i.srcVa 256 false).map (fun e => ofBytes 2048 (f.sourceBytes i.slice e host)))).getD 0
      if i.stale (pkgSize h) (pkgLen h) then f.stopImports (·.begun)
      else
        let r := f.importOutcome i lost host
        (r.2.2.2.onKeys (fun k => { k with imports := match k.imports with
          | j :: t => { j with ended := some (r.1, if r.1 = 5 then r.2.1 else 0, r.2.2.1.take 0x60) } :: t
          | [] => [] })).closeImport
/-- What IMPORT_DONE says was not read, as `endImport` counts it. -/
def importLost (header : Bool) (segment : Option Nat) : Option Nat := if header then some 0 else segment.map (· + 1)
/-- The operands give what lies in host memory: the header, and the rest of the package behind it. -/
def execImportDone (headerLost : Bool) (lost : Option Nat) (header segments : List Byte) (s : State) : Host.Outcome State Fault Refusal :=
  s.run (fun f => f.endImport (importLost headerLost lost) (header ++ segments))

/-! ### Attestation (R323 to R325) -/

/-- KEY_DIGEST of a slice. -/
def Fabric.keyDigest (f : Fabric) (s : Nat) : BitVec 384 :=
  let entry (kind index : Nat) (id : BitVec 32) (tag : BitVec 16) : List Byte :=
    leBytes 1 kind ++ leBytes 2 index ++ leBytes 4 id.toNat ++ leBytes 2 tag.toNat
  digestBits (sha384 ((f.memKeysOf s).flatMap (fun k => entry k.2.kind k.2.selector k.2.keyId 0)
    ++ (f.linkKeysOf s).flatMap (fun k => entry 2 k.2.loc k.2.keyId k.2.tag)))
/-- FTAB_DIGEST of a slice: the header in force and every valid entry that names it. -/
def Fabric.ftabDigest (f : Fabric) (s : Nat) : BitVec 384 :=
  let b := f.frame.bank
  digestBits (sha384 (bytesOf b.header ++ ((bankValid b).filter (fun e => entSlice e.2 == s)).flatMap (fun e => bytesOf e.2)))
/-- RECORD_DIGEST of a slice. -/
def recordDigest (r : Rec) : BitVec 384 := digestBits (sha384 (bytesOf r))

/-- Open debug sessions whose scope includes a slice. -/
def Fabric.sessionsOn (f : Fabric) (s : Nat) : Nat := (f.keys.dbg.filter (fun d => d.2.chip || d.2.slice == s)).length

/-- Bytes 0x000 to 0x19F of a report. -/
def Fabric.reportBody (f : Fabric) (s : Nat) (nonce : BitVec 256) : List Byte :=
  let x := f.slice s
  leBytes 2 1 ++ leBytes 2 0x200 ++ leBytes 1 s ++ leBytes 1 (sliceCode x.state) ++ leBytes 1 (recFlags x.record) ++ leBytes 1 3
    ++ leBytes 8 f.now ++ leBytes 8 f.frame.frameNum ++ leBytes 4 x.exposure ++ leBytes 4 f.keys.tapExposure ++ bytesOf nonce
    ++ bytesOf f.rs.fuses.chipId ++ bytesOf f.rs.firmware ++ bytesOf (recordDigest x.record) ++ bytesOf (f.ftabDigest s) ++ bytesOf (f.keyDigest s)
    ++ bytesOf x.packageDigest ++ leBytes 2 x.packages ++ leBytes 2 (f.keysInstalled s) ++ leBytes 1 (f.sessionsOn s) ++ leBytes 3 0
    ++ leBytes 4 f.rs.l4Count ++ leBytes 84 0
/-- The signed report. -/
def Fabric.attestation (f : Fabric) (s : Nat) (nonce : BitVec 256) : BitVec 4096 :=
  let body := f.reportBody s nonce
  ofBytes 4096 (body ++ bytesOf (Config.signature (digestBits (sha384 body))))

/-- ATTEST_REPORT: the report follows at the next boundary. -/
def rowAttestReport : Row :=
  { pf := true, vf := true, slice := true, params := [(0x20, 32)],
    body := fun p r f =>
      let s := pslice p
      let place := match p.path with
        | .mailbox _ => some 0
        | .fn n => if bitAt (f.fn n).attest 0 then some (((f.fn n).attest.extractLsb' 12 52).toNat * 4096) else none
      match place with
      | none => (f, some (rep stState))
      | some a =>
        if !f.sliceUp s then (f, some (rep stState))
        else (f.onSlice s (fun x => { x with attestReqs := x.attestReqs ++ [(r, a, pdata p)] }), none) }

/-- The reports of a slice that are due at a boundary. -/
def Fabric.writeReports (f : Fabric) (s : Nat) : Fabric :=
  let l := (f.slice s).attestReqs
  l.foldl (fun f e =>
    let o := Out.report e.1.path e.2.1 (f.attestation s e.2.2)
    match e.1.path with | .fn _ => f.hostAnswer (some s) 512 o e.1 | .mailbox _ => (f.emit o).reply e.1 (repOk)) (f.onSlice s (fun x => { x with attestReqs := [] }))

/-! ### Debug sessions (R326 to R328) -/

/-- Some open session carries TAP (R327). -/
def Fabric.tapOpen (f : Fabric) : Bool := f.keys.dbg.any (fun d => decide (8 ≤ d.2.access % 16))
/-- The lock closes: the controller is in Test-Logic-Reset, with IDCODE in force (R327, R464). -/
def Fabric.lockTap (f : Fabric) : Fabric :=
  if f.tapOpen then f else { f with tap := { ir := 0x01 } }

def rowDebugOpen : Row :=
  { slice := true, params := [(0x18, 1), (0x19, 1)],
    range := fun _ p => decide (pfield p 0x18 1 ≤ 1) && decide (pfield p 0x19 1 < 16) && (pfield p 0x18 1 == 1 || decide (pfield p 0x19 1 < 8)),
    body := fun p _ f =>
      let s := pslice p
      let chip := pfield p 0x18 1 == 1
      let acc := pfield p 0x19 1
      if !chip && !f.sliceUp s then (f, some (rep stState))
      else
        match f.keys.dbg.lowestFree 0 4 with
        | none => (f, some (rep stFull))
        | some n =>
          let owner := match p.path with | .mailbox id => id | .fn _ => 0
          let f := f.onKeys (fun k => { k with
            dbg := k.dbg.put n { chip := chip, slice := if chip then 64 else s, access := acc, owner := owner }
            tapExposure := if 8 ≤ acc then satAdd 32 k.tapExposure 1 else k.tapExposure })
          let seen := if chip then f.slicesIn (fun x => x == .created || x == .active || x == .resetting) else [s]
          (seen.foldl (fun f s => f.onSlice s (fun x => { x with exposure := satAdd 32 x.exposure 1 })) f, some (repOk [(0x20, 1, n)])) }

/-- Close the debug sessions that meet a condition. -/
def Fabric.closeDebug (f : Fabric) (p : Debug → Bool) : Fabric :=
  (f.onKeys (fun k => { k with dbg := k.dbg.filter (fun d => !p d.2) })).lockTap

def rowDebugClose : Row :=
  { params := [(0x18, 1)], range := fun _ p => decide (pfield p 0x18 1 < 4),
    body := fun p _ f =>
      let n := pfield p 0x18 1
      if (f.keys.dbg.find n).isNone then (f, some (rep stState))
      else ((f.onKeys (fun k => { k with dbg := k.dbg.del n })).lockTap, some (repOk)) }

/-! ### Control keys and measurements (R341, R342) -/

/-- The security block loads a session's control key. -/
def Fabric.loadControl (f : Fabric) (id : BitVec 32) (key : BitVec 256) : Fabric :=
  match f.session? id with
  | some s =>
    if s.keyLost then f.onSession id (fun s => { s with key := key, keyLost := false })
    else f.onSession id (fun s => { s with key := key, lastSeq := 0, rseq := 1, held := [] })
  | none =>
    if 2 ≤ f.ctl.sessions.length then f
    else f.onCtl (fun c => { c with sessions := c.sessions ++ [{ id := id, key := key, place := if c.sessions.any (·.place == 0) then 1 else 0 }] })
def execControlKeyLoad (session : BitVec 32) (key : BitVec 256) (s : State) : Host.Outcome State Fault Refusal :=
  s.run (fun f => f.loadControl session key)

/-- END_SESSION or a missed heartbeat: the key is zeroed, and the session's debug sessions end. -/
def Fabric.zeroControl (f : Fabric) (id : BitVec 32) : Fabric :=
  (f.onCtl (fun c => { c with sessions := c.sessions.filter (fun s => s.id != id) })).closeDebug (fun d => d.owner == id)
def execControlKeyZero (session : BitVec 32) (s : State) : Host.Outcome State Fault Refusal := s.run (fun f => f.zeroControl session)

/-- A measurement block (R341). -/
def Fabric.measure (f : Fabric) (index : Nat) : List Byte :=
  if index = 0x10 then bytesOf f.rs.firmware
  else if index = 0x11 then
    let u := f.rs.fuses
    sha384 (bytesOf u.grade ++ bytesOf u.enginePresent ++ bytesOf u.dmaPresent ++ bytesOf u.stackPresent ++ bytesOf u.portPresent
      ++ leBytes 2 (Config.reservedStacks.map (2 ^ ·)).sum ++ leBytes 1 Config.reservedBaseGib ++ leBytes 1 Config.reservedSizeGib)
  else if index = 0x12 then
    leBytes 4 f.keys.tapExposure ++ leBytes 1 (ofBits 4 (f.keys.dbg.map (·.1))).toNat ++ leBytes 1 (b2n f.tapOpen)
  else if index = 0x13 then
    sha384 ((List.range 64).flatMap (fun s =>
      let x := f.slice s
      leBytes 1 (sliceCode x.state) ++ (if holds x.state then bytesOf (recordDigest x.record) else List.replicate 48 0)))
  else []
def execMeasurementRequest (index : Nat) (s : State) : Host.Outcome State Fault Refusal :=
  s.run (fun f => f.emit (.measurement index (f.measure index)))

/-- KEY_STAGE. -/
def execKeyStage (p : Packet) (s : State) : Host.Outcome State Fault Refusal := s.run (control rowKeyStage p)
/-- KEY_INSTALL. -/
def execKeyInstall (p : Packet) (s : State) : Host.Outcome State Fault Refusal := s.run (control rowKeyInstall p)
/-- KEY_DESTROY. -/
def execKeyDestroy (p : Packet) (s : State) : Host.Outcome State Fault Refusal := s.run (control rowKeyDestroy p)
/-- KEY_QUERY. -/
def execKeyQuery (p : Packet) (s : State) : Host.Outcome State Fault Refusal := s.run (control rowKeyQuery p)
/-- WEIGHT_IMPORT. -/
def execWeightImport (p : Packet) (s : State) : Host.Outcome State Fault Refusal := s.run (control rowWeightImport p)
/-- ATTEST_REPORT. -/
def execAttestReport (p : Packet) (s : State) : Host.Outcome State Fault Refusal := s.run (control rowAttestReport p)
/-- DEBUG_OPEN. -/
def execDebugOpen (p : Packet) (s : State) : Host.Outcome State Fault Refusal := s.run (control rowDebugOpen p)
/-- DEBUG_CLOSE. -/
def execDebugClose (p : Packet) (s : State) : Host.Outcome State Fault Refusal := s.run (control rowDebugClose p)

end Sys2Proof.Machine
end

