-- ==== Sys2Proof/Machine/Removal.lean ====
section
/-! DEFINITION. Removing a tenant (R332 to R339) and the tenant environment (R330). -/

namespace Sys2Proof.Machine

/-! ### The acceptance of SLICE_DESTROY (R333 to R335) -/

/-- A descriptor of the slice ends KEY_REVOKED: at once, or when its running tile has left the engine (R334). A held one
completes FAULT_CONTAINED (R264, R265). -/
def Fabric.removeDesc (f : Fabric) (q : Nat) (n : BitVec 32) : Fabric :=
  match f.sq? q, f.desc? q n with
  | some x, some d =>
    if d.belay == .committing then f
    else if d.belay == .held then f.l3Desc q n
    else if d.belay == .passed then f.onDesc q n (fun d => { d with status := 7, detail := 0 })
    else if d.stage == .accepted then
      let raw := ofBytes 512 (f.readKeyed (f.slotOfSel x.slice 0) (x.slotKey d.seq) (descBytes x.gen))
      (f.onDesc q n (fun d => { d with raw := raw })).pass q n 7 0
    else f.endDesc q n 7 true
  | _, _ => f

/-- Replies of pending packets on the slice's objects (R339, R422). -/
def Fabric.abortPending (f : Fabric) (s : Nat) : Fabric :=
  let x := f.slice s
  let qs := f.queuesOf (fun y => y.slice == s)
  let gone := rep stAborted
  let f := f.onSlice s (fun y => { y with activate := none, amend := none, resetReq := [], auditNext := [], attestReqs := [] })
  let f := match x.activate with | some a => f.reply a.1 (rep stTimeout) | none => f
  let f := f.replyOpt x.amend (repCheck 1)
  let f := (x.resetReq ++ x.auditNext.map (·.2) ++ x.attestReqs.map (·.1)).foldl (fun f r => f.reply r gone) f
  let f := qs.foldl (fun f q =>
    match f.sq? q with
    | some y =>
      let f := f.onSq q (fun y => { y with destroy := none, cancels := [] })
      (y.destroy.toList ++ y.cancels.map (·.1)).foldl (fun f r => f.reply r gone) f
    | none => f) f
  let f := (f.windows.filter (fun w => w.2.slice == s)).foldl (fun f w =>
    (f.onWindow w.1 (fun y => { y with closing := none })).replyOpt w.2.closing gone) f
  let f := (f.splice.groups.filter (fun g => gSlice g.2.record == s)).foldl (fun f g =>
    (f.onGroup g.1 (fun y => { y with destroy := none })).replyOpt g.2.destroy gone) f
  let f := x.tu.unmaps.foldl (fun f m => match m.kind with | .tag _ (some r) => f.reply r gone | _ => f) f
  let f := f.onTu s (fun u => { u with unmaps := [] })
  (f.keys.installing.filter (fun i => i.slice == s && i.kind ≤ 2)).foldl (fun f i => f.reply i.req gone) f

/-- What a slice loses at the acceptance T, whatever its state was: imports, debug of its windows and groups, waiting
traffic, and its slots' use. -/
def Fabric.cutSlice (f : Fabric) (s : Nat) : Fabric :=
  let f := f.stopImports (fun i => i.slice == s)
  let f := { f with windows := f.windows.each (fun _ w => if w.slice == s && w.state == 1 then { w with state := 2 } else w) }
  let f := f.breakGroups (fun x => (x.state == 2 || x.state == 3) && gSlice x.record == s)
  let f := { f with belay := { f.belay with replicas := f.belay.replicas.each (fun _ r =>
    { r with members := r.members.each (fun _ m => if m.slice == s && m.state == 2 then { m with state := 7, job := none } else m) }) } }
  let f := { f with remotes := f.remotes.filter (fun e => e.2.slice != s) }
  let stays (r : Nat) (u : CUnit) : Bool := u.slice != some s || (r == 48 && u.cls == 5 && u.send.all Out.endures)
  let asked := (f.reg 48).waiting.filter (fun u => !stays 48 u)
  let f := f.onCleat (fun c => { c with regs := c.regs.each (fun r g => { g with waiting := g.waiting.filter (stays r) }) })
  let f := asked.foldl (fun f u => f.replyOpt u.done (rep stAborted)) f
  let f := (f.keys.mem.keysOf (fun _ k => k.slice == s && k.kind ≤ 1)).foldl (fun f k => f.onKeys (fun x => { x with mem := x.mem.onKey k (fun y => { y with state := 2 }) })) f
  f.onKeys (fun x => { x with links := x.links.each (fun _ k => if k.slice == s then { k with state := 2 } else k) })

/-- Whipping clears what the fabric itself holds of the slice: extents and accumulator files (R336). Its caches, keys' counters
and dump sections have their own places. -/
def Fabric.clearStores (f : Fabric) (s : Nat) : Fabric :=
  let f := (f.descsOf s).foldl (fun f e => match f.sq? e.1 with | some x => f.dropExtents e.1 x e.2 | none => f) f
  let mine := f.cau.served.keysOf (fun _ o => o == s)
  f.onCau (fun c => { c with files := c.files.filter (fun e => !mine.contains e.1), served := c.served.filter (fun e => e.2 != s) })
/-- Scrub of the slice's engines begins: the slice enters WHIPPING (R332, R336). -/
def Fabric.enterWhipping (f : Fabric) (s : Nat) : Fabric :=
  let engs := (f.slice s).engineSet.filter (fun k => (f.engine k).state == .inService || (f.engine k).state == .resetting)
  let f := f.onSlice s (fun x => { x with state := .whipping, phase := 3, scrubs := engs, l3Engines := [] })
  let f := (f.closeDebug (fun d => !d.chip && d.slice == s)).wipeDumps s
  let f := (f.onTu s (fun u => { u with tcache := [], dcache := [] })).clearStores s
  engs.foldl (fun f k => ((f.withdraw k (fun r => r.slice == s)).onEngine k (fun e =>
    { e with scrubbing := true, scrubFrom := f.now })).emit (.engine k .scrub)) f

/-- Removal of an ACTIVE or RESETTING slice begins (R333). -/
def Fabric.startRemoval (f : Fabric) (s : Nat) : Fabric :=
  let f := f.onSlice s (fun x => { x with state := .removing, phase := 1, l3Engines := [] })
  let f := f.onFc (fun c => { c with timers := c.timers.del s })
  let f := f.quitHangs (fun h => h.slice == s)
  let f := (f.engines.map (·.1)).foldl (fun f k => f.withdraw k (fun r => r.slice == s)) f
  let f := ((f.slice s).engineSet).foldl (fun f k => if (f.engine k).testOwner == some s then f.abandonTest k else f) f
  let f := (f.descsOf s).foldl (fun f e => f.removeDesc e.1 e.2.seq) f
  let f := (f.enginesRunning (fun r => r.slice == s)).foldl (fun f k => f.preempt k (some 7)) f
  let f := f.dropCau (fun j => j.slice == s)
  (f.cutSlice s).settle

/-- What a removal starts from. -/
def Fabric.markRemoval (f : Fabric) (s : Nat) (zero : Bool) (req : Option Req) : Fabric :=
  f.onSlice s (fun y => { y with
    destroy := req, zero := zero, keysZeroed := false, escrowAsked := false, escrowDone := false, escrowTries := 0, zeroing := false,
    revokedRecs := 0, revokedLost := 0, peerDrops := 0 })

/-- SLICE_DESTROY (R332). -/
def rowSliceDestroy : Row :=
  { slice := true, params := [(0x18, 1)], range := fun _ p => decide (pfield p 0x18 1 ≤ 1),
    body := fun p r f =>
      let s := pslice p
      let x := f.slice s
      let zero := pfield p 0x18 1 == 1
      let mark (f : Fabric) : Fabric := (f.markRemoval s zero (some r)).askKey keyZero s
      match x.state with
      | .free | .removing | .whipping => (f, some (rep stState))
      | .defining => (f.onSlice s (fun _ => {}), some (repOk))
      | .created =>
        let f := (((mark f).abortPending s).dropCau (fun j => j.slice == s)).cutSlice s
        (((f.enterWhipping s).onEnv (fun e => { e with frozen := true })).settle, none)
      | _ => (((mark f).abortPending s).startRemoval s |>.onEnv (fun e => { e with frozen := true }), none) }

/-! ### Keys of the slice (R333, R319) -/

/-- The drain has ended: no tile of the slice runs and no granted transfer of it is outstanding. -/
def Fabric.drained (f : Fabric) (s : Nat) : Bool :=
  (f.enginesRunning (fun r => r.slice == s)).isEmpty
    && f.cleat.regs.all (fun g => g.2.out.all (fun u => u.slice != some s || (g.1 == 48 && u.cls == 5)))

/-- The key port has zeroed every copy of the slice's slots; the security block destroys the escrows. -/
def Fabric.sliceZeroed (f : Fabric) (s : Nat) : Fabric :=
  let x := f.slice s
  if !leaving x.state || x.keysZeroed || !f.drained s then f
  else
    let f := (f.keys.links.keysOf (fun _ k => k.slice == s)).foldl (fun f k => f.clearCounters 2 k) f
    let f := f.onKeys (fun k => { k with mem := k.mem.each (fun _ m => if m.slice == s && m.kind ≤ 1 then { m with gen := noKey + 1 } else m) })
    let f := f.onSlice s (fun y => { y with keysZeroed := true, phase := if y.state == .removing then 2 else y.phase, escrowAsked := true, escrowAt := f.now })
    f.askKey keyEscrowSlice s

/-! ### FREE (R335, R337, R338) -/

/-- The objects of a slice are gone, its VFs are disabled and its records that found no room are counted. What of its records
and messages still waits at the host port leaves as fabric traffic (DESIGN CHOICE: R335 keeps no traffic of a FREE slice and
R246 loses no record); the remainders count its minimums until the next boundary (R211). -/
def Fabric.freeSlice (f : Fabric) (s : Nat) : Fabric :=
  let lost := (f.descsOf s).length
  let qs := f.queuesOf (fun x => x.slice == s)
  let fns := f.vfsOf s
  let waiting := fns.filter (fun n => (f.fn n).flr)
  let f := { f with fns := f.fns.each (fun n x =>
    let y := { x with sqs := x.sqs.filter (fun e => !qs.contains e.2) }
    if fns.contains n then { y with slice := none, cqs := [], fences := [], flr := false, silent := false,
                                     discarded := 0, resetState := 0 } else y) }
  let f : Fabric := { f with
    sqs := f.sqs.filter (fun e => e.2.slice != s), tags := f.tags.filter (fun e => e.2.slice != s)
    windows := f.windows.filter (fun e => e.2.slice != s) }
  let f := f.onCleat (fun c => { c with
    freed := c.freed ++ [(f.slice s).record]
    regs := c.regs.each (fun r g =>
      { g with waiting := if r = 48 then g.waiting.map (fun u => if u.slice == some s then { u with slice := none, cls := 6 } else u)
                          else g.waiting.filter (fun u => u.slice != some s)
               meters := { g.meters with min := g.meters.min.del s }, toHost := { g.toHost with min := g.toHost.min.del s } }) })
  let f := { f with engines := f.engines.each (fun _ e => { e with charges := e.charges.del s }) }
  let f := f.onSlice s (fun x => { phase := 5, zero := x.zero, revokedRecs := x.revokedRecs, revokedLost := satAdd 16 x.revokedLost lost, peerDrops := x.peerDrops })
  let f := f.onEnv (fun e => { e with freeSeen := f.now })
  let f := f.each waiting (fun n f => f.emit (.flrDone n))
  (f.settleGroups).raise { source := srcRs, unit := centralUnit srcRs, cause := 0x0905, owners := [s] }

/-- Zeroing begins: on each stack of the slice, in parallel, one write after another in class 6, by the slice's own minimum
path, and as fabric traffic where it has no minimum on the stack (R209, R337). -/
def Fabric.startZeroing (f : Fabric) (s : Nat) : Fabric :=
  let r := (f.slice s).record
  (recStacks r).foldl (fun f k =>
    let a := gib (recBase r k)
    f.offer k { slice := if recMinBw r k = 0 then none else some s, cls := 6, charge := 256, write := true, line := a,
                chan := a / 256 % Config.channels, zeros := some (gib (recSize r k) - 256) }) (f.onSlice s (fun y => { y with phase := 4, zeroing := true }))

/-- WHIPPING goes on once the scrub has ended and the keys are destroyed: zeroing where ZERO was asked, else FREE. -/
def Fabric.whippingOn (f : Fabric) (s : Nat) : Fabric :=
  let x := f.slice s
  if x.state != .whipping || !x.scrubs.isEmpty || !x.escrowDone || x.zeroing then f
  else if x.zero then f.startZeroing s
  else f.freeSlice s

/-- The escrow of every slot of the slice is destroyed: its slots are EMPTY, and SLICE_DESTROY is answered with the
KEY_DESTROY packets that it absorbed. -/
def Fabric.escrowsGone (f : Fabric) (s : Nat) : Fabric :=
  let x := f.slice s
  if !x.escrowAsked then f
  else
    let mine := f.keys.revokes.filter (fun r => r.kind ≤ 2 && r.slice == s)
    let f := f.onSlice s (fun y => { y with oldTags := (f.keys.links.filter (fun e => e.2.slice == s)).map (fun e => e.2.tag) })
    let f := f.onKeys (fun k => { k with
      mem := k.mem.filter (fun e => e.2.slice != s || decide (2 ≤ e.2.kind)), links := k.links.filter (fun e => e.2.slice != s)
      revokes := k.revokes.filter (fun r => !(r.kind ≤ 2 && r.slice == s)) })
    let f := f.onSlice s (fun y => { y with escrowAsked := false, escrowDone := true, destroy := none })
    let f := if x.state == .removing then f.enterWhipping s else f
    let f := f.replyOpt x.destroy (repOk)
    let f := mine.foldl (fun f r => f.replyOpt r.req (repOk [(0x20, 1, 0)])) f
    f.whippingOn s

/-- END 7: an engine's scratchpads are cleared (R336). -/
def Fabric.scrubEnd (f : Fabric) (k : Nat) : Fabric :=
  if !(f.engine k).scrubbing then f.strayBeat k
  else
    let f := f.onEngine k (fun e => { e with scrubbing := false })
    let ss := f.slices.keysOf (fun _ x => x.scrubs.contains k)
    let f := ss.foldl (fun f s => (f.onSlice s (fun x => { x with scrubs := x.scrubs.filter (· != k) })).whippingOn s) f
    f.startNext k 9
def execScrubDone (k : Nat) (s : State) : Host.Outcome State Fault Refusal := s.run (fun f => f.scrubEnd k)

/-- Every extent of the slice holds zero bytes, stored unencrypted (R309, R337). -/
def Fabric.zeroExtents (f : Fabric) (s : Nat) : Fabric :=
  let r := (f.slice s).record
  (recStacks r).foldl (fun f k =>
    let a := devKey k (gib (recBase r k))
    let n := gib (recSize r k)
    f.zeroKeyed a n) f
/-- The zero writes end: what the regulators have not granted of them is written. -/
def Fabric.zeroingEnd (f : Fabric) (s : Nat) : Fabric :=
  if (f.slice s).state == .whipping && (f.slice s).zeroing then
    let ks := recStacks (f.slice s).record
    let f := f.onCleat (fun c => { c with regs := c.regs.each (fun r g =>
      if ks.contains r then { g with waiting := g.waiting.filter (fun u => u.zeros.isNone || !inExtent (f.slice s).record r u.line 256) } else g) })
    (f.zeroExtents s).freeSlice s
  else f
def execZeroingDone (slice : Nat) (s : State) : Host.Outcome State Fault Refusal := s.run (fun f => f.zeroingEnd slice)

/-! ### The tenant environment (R330, R338) -/

/-- Round a quotient to the nearest whole number, ties upward. -/
def roundDiv (a : Int) (b : Nat) : Int := (2 * a + b) / (2 * b)

/-- The sums as they stand in a second of fabric time: those of the second before are the last whole second's (R330). -/
def Env.atSecond (e : Env) (n : Nat) : Env :=
  if e.second = n then e else { e with second := n, sums := {}, lastSums := if e.second + 1 = n then e.sums else {} }
/-- The publication that is due next: at the first boundary at or after the next whole second (R330). -/
def Fabric.publishAt (f : Fabric) : Nat :=
  let b := f.frame.boundaryAt
  b + ceilDiv ((f.env.published + 1) * 1000000000 - b) f.frame.periodNs * f.frame.periodNs
/-- Publication, from the means of the last whole second; while a removal runs, and until a whole second has begun after it,
the publication is skipped. -/
def Fabric.publishEnv (f : Fabric) : Fabric :=
  let f := f.advance f.publishAt
  let second := f.now / 1000000000
  let f := f.onEnv (fun e => { e.atSecond second with published := second })
  if !(f.slicesIn leaving).isEmpty || (f.env.frozen && decide (second * 1000000000 ≤ f.env.freeSeen)) then f
  else
    f.onEnv (fun e =>
      let m := e.lastSums
      { e with
        updateSeq := (e.updateSeq + 1) % 65536, frozen := false, invalid := m.tempN == 0
        powerW := if m.powerN = 0 then e.powerW else (roundDiv m.powerSum (10 * m.powerN)).toNat * 10
        tempC := if m.tempN = 0 then e.tempC else roundDiv m.tempSum (8 * m.tempN) })
def execTenantEnvPublish (s : State) : Host.Outcome State Fault Refusal := s.run (fun f => f.publishEnv)

/-- SLICE_DESTROY. -/
def execSliceDestroy (p : Packet) (s : State) : Host.Outcome State Fault Refusal := s.run (control rowSliceDestroy p)

end Sys2Proof.Machine
end

