-- ==== Sys2Proof/Machine/ChipReset.lean ====
section
/-! DEFINITION. The chip reset L4 (R384 to R390), the power cycle L5 (R401, R402), and the packets that ask for resets
(R406, R430). -/

namespace Sys2Proof.Machine

/-! ### Stage 1: the freeze (R384, R385, R421) -/

/-- A reply that L4 does not turn into ABORTED: those of CHIP_RESET and of SLICE_DESTROY, with the KEY_DESTROY packets
that a removal has absorbed (R421, R339). -/
def Fabric.keptReply (f : Fabric) (q : Req) : Bool :=
  f.rs.l4Req == some q || f.slices.any (fun e => e.2.destroy == some q)
    || f.keys.revokes.any (fun r => r.req == some q && r.kind ≤ 2 && leaving (f.slice r.slice).state)

/-- What the freeze takes off a slice: packets whose effect is still due have none (R421). -/
def Slice.dropPending (x : Slice) : Slice :=
  { x with activate := none, amend := none, auditNext := [], attestReqs := [], resetReq := []
           tu := { x.tu with unmaps := x.tu.unmaps.filter (fun u => match u.kind with | .tag _ _ => false | _ => true) } }

/-- Deferred effects of pending packets are dropped, and the packets will be answered ABORTED (R421). -/
def Fabric.dropPending (f : Fabric) : Fabric :=
  let l := f.ctl.awaiting.filter (fun q => !f.keptReply q)
  let f := f.onCtl (fun c => { c with awaiting := c.awaiting.filter (fun q => !l.contains q) })
  let f := f.onRs (fun r => { r with l4Pending := r.l4Pending ++ l, restartReq := none })
  let f := { f with slices := f.slices.each (fun _ x => x.dropPending) }
  let f := { f with sqs := f.sqs.each (fun _ x => { x with destroy := none, cancels := [], scopes := [] }) }
  let f := { f with windows := f.windows.each (fun _ w => { w with closing := none }) }
  let f := { f with tags := f.tags.each (fun _ t => { t with destroying := false }) }
  let f := { f with fns := f.fns.each (fun _ x => { x with quiesceReq := none }) }
  let f := { f with splice := { f.splice with groups := f.splice.groups.each (fun _ g => { g with destroy := none }) } }
  let f := { f with engines := f.engines.each (fun _ e => { e with resetReq := none }) }
  let f := { f with units := { f.units with retiring := f.units.retiring.filter (fun r => r.req.isNone) } }
  let f := { f with belay := { f.belay with replicas := f.belay.replicas.each (fun _ r => { r with req := none }) } }
  let f := f.onLedger (fun l => { l with readReqs := [] })
  let f := f.onKeys (fun k => { k with imports := [], installing := [] })
  f.onFc (fun c => { c with inject := none, consumed := [] })

/-- L4 begins: the chip freezes, the peers learn of it, and Fid dumps (R385). During start-up there is nothing to
reinstate: the fabric starts up again from its fuses. -/
def Fabric.startL4 (f : Fabric) (cause : Option FRec) (req : Option Req) : Fabric :=
  if f.rs.l4Stage != 0 || f.rs.l5Step != 0 then f
  else if f.rs.boot == .running then
    let y := f.frame.sync
    let f := f.onRs (fun r => { r with
      frozen := true, level := 4, l4Stage := 2, l4Count := r.l4Count + 1, l4Req := req, l4Bank := some f.frame.bank
      l4Sync := some (y.mode, y.port, y.pinDelay), l4Fail := false, restart := none, restartLoaded := false, restartLate := false })
    let f := f.dropPending
    let f := f.onSync (fun y => { y with waiting := [] })
    let f := f.onFrame (fun fr => { fr with switch := none, heldWrites := [], fixed := none })
    (f.notify 1 0).startDump 0 cause none
  else f.onRs (fun r => { r with boot := .fuses, fuseFails := 0, l4Count := r.l4Count + 1, armed := false, hbAny := false
                                 restart := none, restartLoaded := false, restartLate := false })

/-! ### Stage 4: the units (R385, R391, R448) -/

/-- A slice across L4 (R389, R391). A removal goes on; an L3 counts as complete. -/
def Slice.afterL4 (x : Slice) : Slice :=
  match x.state with
  | .free => x
  | .defining => {}
  | _ =>
    { x with
      state := if x.state = .active then .resetting else x.state
      l3Engines := [], scrubs := [], l3Cnt := 0, l1Cnt := 0, hangCtx := 0, l2Cnt := 0, zeroing := false
      audits := [], drags := [], live := {}, seen := {}, condNs := 0, slackHeld := 0, condNsPub := 0, slackHeldPub := 0
      poolPub := 0, drainPub := 0, lastCtx := none, lastQueue := [], uncommitted := 0, extentsUsed := 0
      testCredit := 0, testsRun := 0, testFails := 0, testPostponed := 0
      tu := { x.tu with
        faults := [], tcache := [], dcache := [], walkReads := 0, windowCnt := [0, 0, 0, 0, 0], dbErr := 0, stalled := false
        unmaps := x.tu.unmaps.map (fun u => { u with holders := [] }) } }

/-- An engine across L4: one that was out of service or at work is reset through its port. -/
def Engine.afterL4 (e : Engine) (now : Nat) : Engine :=
  match e.state with
  | .absent => e
  | .retired => e
  | st =>
    let busy := st != .inService || e.running.isSome || e.testSeed.isSome || e.scrubbing
    { state := if busy then .resetting else .inService, exact := e.exact, sparse := e.sparse, resetFrom := if busy then now else 0, resetSent := busy,
      testDue := e.testDue || e.testSeed.isSome || e.testOwner.isSome, testAt := e.testAt, testFailAt := e.testFailAt }

/-- A run of a NON_REPLAY descriptor has started, so that a rerun would be a replay (R150, R275). -/
def Sq.hasBegun (x : Sq) (d : Desc) : Bool :=
  d.begun || d.stage != .accepted && (d.view x).nonReplay
    && (d.started || d.belay == .checking || d.belay == .held || (d.belay == .passed || d.belay == .committing) && d.engine != 0xFFFF
      || d.insts.any (fun i => i.2.belay == .checking || i.2.belay == .passed))
/-- A queue across L4: its descriptors are rebuilt from the ring entries between the shadow's COMMIT and ACCEPTED (R163, R387).
One that had committed behind a lost shadow write has run (R275). -/
def Sq.afterL4 (x : Sq) : Sq :=
  { x with
    state := 1, dbErr := 0, dbShut := 0, formErr := 0, streams := [], lastRange := []
    accepted := x.shAccepted, commit := x.shCommit, issue := x.shCommit
    descs := (List.range (x.commit - x.shCommit).toNat).map (fun i => { seq := x.shCommit + BitVec.ofNat 32 i, begun := true })
      ++ x.descs.map (fun d => { seq := d.seq, order := d.order, acceptedAt := d.acceptedAt, begun := x.hasBegun d }) }
/-- A completion queue and a fence, from the shadow (R163, R388). -/
def Cq.afterL4 (c : Cq) : Cq := { c with head := c.shHead, tail := c.shTail, fullStall := 0, headErr := false, quietUntil := 0, owed := false }
def Fence.afterL4 (x : Fence) : Fence := { x with value := x.shValue, error := x.shError }
/-- A function across L4. -/
def Fn.afterL4 (x : Fn) : Fn :=
  { x with
    intake := [], ctlReq := [], cqs := x.cqs.each (fun _ c => c.afterL4), fences := x.fences.each (fun _ n => n.afterL4)
    dbShut0 := 0, resetState := if x.flr then 3 else 0 }
/-- A group across L4: what it kept of a step is gone (R391). The record of its lease stands until it breaks (R288, R299). -/
def Group.afterL4 (g : Group) : Group :=
  { g.clearStep with heldReady := none, cancelSteps := [], abortAhead := [] }
/-- A replica set across L4 (R273). -/
def Replica.afterL4 (r : Replica) : Replica :=
  { r with
    result := if r.result = 1 then 4 else r.result
    members := r.members.each (fun _ m => if m.state = 2 then { m with state := 7, job := none } else m) }

/-- Writes already issued to the host port when an L4 begins are delivered: record writes by R247, what else waits there too
(DESIGN CHOICE). -/
def Fabric.landHost (f : Fabric) : Fabric :=
  (f.reg 48).waiting.foldl (fun f u =>
    let f := u.send.foldl (fun f o => f.emit o) f
    match u.shadow with | some w => f.recordArrives w | none => f) f

/-- A slot that was REVOKING at the L4 is destroyed: no copy of it is restored, and stage 8 asks for the end of its escrow
(R308). -/
def Keys.afterL4 (k : Keys) (gone : Nat → Bool) : Keys :=
  let dead (m : MemSlot) : Bool := m.state == 2 && !gone m.slice
  { mem := k.mem.each (fun _ m => if dead m then { m with gen := noKey + 1 } else m), links := k.links, hop := k.hop, hopId := k.hopId
    cluster := k.cluster, clusterId := k.clusterId
    revokes := k.revokes.map (fun r => if r.kind ≤ 2 && gone r.slice then r else { r with req := none, zeroed := true, asked := false })
    rxLast := k.rxLast, txLast := k.txLast, tapExposure := k.tapExposure, keyGen := k.keyGen, lineKeys := k.lineKeys }

/-- Every fabric unit is reset except the FC's retained part and the fabric time counter; the fabric tables, the page
tables and device memory stay as they are (stage 4 of R385). -/
def Fabric.resetUnits (f : Fabric) : Fabric :=
  let busy := f.engines.keysOf (fun _ e => (e.afterL4 f.now).state == .resetting)
  let f := f.landHost
  let f : Fabric :=
    { f with
      frame := { time := f.now, boundaryAt := f.now }
      engines := f.engines.each (fun _ e => e.afterL4 f.now)
      slices := f.slices.each (fun _ x => x.afterL4)
      fns := f.fns.each (fun _ x => x.afterL4)
      sqs := f.sqs.each (fun _ x => x.afterL4)
      windows := f.windows.each (fun _ w => { w with inFlight := 0 })
      remotes := []
      belay := { f.belay with rng := 0, seeded := false, replicas := f.belay.replicas.each (fun _ r => r.afterL4) }
      cau := {}
      cleat := { lanes := f.cleat.lanes, peers := f.cleat.peers, droopLow := f.cleat.droopLow, droopFrom := f.now }
      splice := { chip := f.splice.chip, chipNext := f.splice.chipNext,
                  groups := Tab.each (f.splice.groups.filter (fun g => g.2.state != 1)) (fun _ g => g.afterL4) }
      env := { freeSeen := f.env.freeSeen }
      tests := {}
      tap := {} }
  let f := f.onKeys (fun k => k.afterL4 (fun s => leaving (f.slice s).state))
  let f := f.onFc (fun c => { c with queue := [], sites := c.sites.each (fun _ t => if t.lanyard = 0 then t else {}) })
  let f := f.onCtl (fun c => { c with
    sessions := c.sessions.map (fun s => { s with keyLost := true }), mailbox := [], authFail := 0, stale := 0, drop := 0, rr := 0 })
  let f := f.onRs (fun r => { r with
    hbCount := 0, hbAny := false, badBeat := 0, fwState := 0, armed := false, hangs := [], fuseFails := 0, restoring := [], lostSlices := []
    restart := none, restartLoaded := false, restartLate := false, restartReq := none })
  busy.foldl (fun f k => f.emit (.engine k .reset)) f

/-! ### Stages 3 to 6 -/

/-- A stage of an L4 that nothing has superseded. -/
def Fabric.atStage (f : Fabric) (n : Nat) : Bool := f.rs.l4Stage == n && f.rs.l5Step == 0 && !f.rs.l4Fail
def Fabric.toStage (f : Fabric) (n : Nat) : Fabric := f.onRs (fun r => { r with l4Stage := n })

/-- Every stack is in self-refresh: the units are reset, and the fuse block is read again. -/
def Fabric.refreshEntered (f : Fabric) : Fabric := if f.atStage 3 then f.resetUnits.toStage 5 else f
/-- A controller did not confirm self-refresh in 20 µs: the L4 fails (R386). -/
def Fabric.refreshLate (f : Fabric) : Fabric :=
  if f.atStage 3 then ((f.advance (f.rs.reqAt + 20000)).onRs (fun r => { r with l4Fail := true })).escalate srcRs 4 else f

/-! ### Stages 7 and 8: keys (R308) -/

/-- The slots that stage 7 restores, and those of stage 8. -/
def Fabric.fabricSlots (f : Fabric) : List (Nat × Nat) :=
  (List.range 8).map (fun i => (5, i)) ++ (if f.keys.cluster = 1 then [(4, 0)] else [])
    ++ ((f.keys.hop.filter (fun h => h.2 == 1)).map (fun h => (3, h.1)))
def Fabric.sliceSlots (f : Fabric) : List (Nat × Nat) :=
  ((f.keys.mem.filter (fun m => m.2.kind ≤ 1 && m.2.state == 1 && !leaving (f.slice m.2.slice).state)).map (fun m => (m.2.kind, m.1)))
    ++ ((f.keys.links.filter (fun m => m.2.state == 1 && !leaving (f.slice m.2.slice).state)).map (fun m => (2, m.1)))
/-- Ask for the restoration of slots. -/
def Fabric.askRestore (f : Fabric) (l : List (Nat × Nat)) : Fabric :=
  l.foldl (fun f e => f.askKey keyRestore (slotArg e.1 e.2)) (f.onRs (fun r => { r with restoring := l }))

/-- The firmware is loaded and checked: the stacks leave self-refresh and the fabric's slots are restored. -/
def Fabric.stage7 (f : Fabric) : Fabric := (f.toStage 7).emit (.selfRefresh false) |>.askRestore f.fabricSlots
/-- The escrows of the slots that were REVOKING at the L4 are to be destroyed (R308, R319). -/
def Fabric.askRevoked (f : Fabric) : Fabric :=
  let hit (r : Revoke) : Bool := r.zeroed && !r.asked && !(r.kind ≤ 2 && leaving (f.slice r.slice).state)
  (f.keys.revokes.filter hit).foldl (fun f r => f.askKey keyEscrowSlot (slotArg r.kind r.index)) (f.onKeys (fun k => { k with
    revokes := k.revokes.map (fun r => if hit r then { r with asked := true, askedAt := f.now } else r) }))
/-- A stage of restorations whose last slot is done passes to the next. -/
def Fabric.restoreOn (f : Fabric) : Fabric :=
  if !f.rs.restoring.isEmpty then f
  else if f.rs.l4Stage = 7 then
    let f := ((f.toStage 8).askRestore f.sliceSlots).askRevoked
    if f.rs.restoring.isEmpty then f.toStage 9 else f
  else if f.rs.l4Stage = 8 then f.toStage 9
  else f
/-- The slice of a slot. -/
def Fabric.slotSlice (f : Fabric) (kind k : Nat) : Nat := if kind = 2 then (f.keys.links.getD k {}).slice else (f.keys.mem.getD k {}).slice

/-- The security block's answer for one slot. Slots 0 to 7 are tried three times; a slice with a slot that is lost is not
reinstated; a cluster or hop key that is lost is EMPTY (R308). -/
def Fabric.restored (f : Fabric) (kind k : Nat) (ok : Bool) : Fabric :=
  if !(f.atStage 7 || f.atStage 8) || !f.rs.restoring.contains (kind, k) then f
  else
    let drop (f : Fabric) : Fabric := f.onRs (fun r => { r with restoring := r.restoring.erase (kind, k) })
    if ok then (drop f).restoreOn
    else if kind = 5 then
      let n := f.keys.restoreFails.getD k 0 + 1
      let f := f.onKeys (fun x => { x with restoreFails := x.restoreFails.put k n })
      if n < 3 then f.askKey keyRestore (slotArg kind k)
      else (f.onRs (fun r => { r with l4Fail := true })).raise
        { source := srcKey, unit := centralUnit srcKey, cause := 0x0902, fabric := true, base := some 4, syndrome := BitVec.ofNat 192 k }
    else if kind = 3 ∨ kind = 4 then ((drop f).emptySlot kind k).restoreOn
    else ((drop f).onRs (fun r => { r with lostSlices := (r.lostSlices ++ [f.slotSlice kind k]).eraseDups })).restoreOn

/-! ### Stage 9: reinstatement (R387, R389, R339) -/

/-- A removal that L4 met goes on: the key stores are empty, the escrow is destroyed if it was not, and the scrub begins
(R339, R389). -/
def Fabric.resumeRemoval (f : Fabric) (s : Nat) : Fabric :=
  let f := f.enterWhipping s
  let f := f.onSlice s (fun x => { x with keysZeroed := true })
  if (f.slice s).escrowDone then f.whippingOn s
  else (f.onSlice s (fun x => { x with escrowAsked := true, escrowAt := f.now })).askKey keyEscrowSlice s

/-- A slice that is not reinstated is removed as if by SLICE_DESTROY without ZERO (R308). -/
def Fabric.loseSlice (f : Fabric) (s : Nat) : Fabric :=
  let x := f.slice s
  if !holds x.state || leaving x.state then f
  else
    let f := f.raise { source := srcKey, unit := centralUnit srcKey, cause := 0x0902, owners := [s] }
    let f := (f.markRemoval s false none).onEnv (fun e => { e with frozen := true })
    let f := f.onSlice s (fun x => { x with state := .removing, phase := 1 })
    let f := (f.descsOf s).foldl (fun f e => f.removeDesc e.1 e.2.seq) f
    (f.cutSlice s).resumeRemoval s

/-- The completion queue scan (R163, R247): from the shadow tail on, each record in the host ring that carries the PHASE of the
pass and the next SEQ of its queue counts as delivered, and the shadow advances over it. A record of a queue that is no longer
there counts too. `fuel` bounds the records. -/
def Fabric.scanCq (f : Fabric) (n k : Nat) : Nat → Fabric
  | 0 => f
  | fuel + 1 =>
    match f.cq? n k with
    | none => f
    | some c =>
      match c.ahead.find? (fun r => r.1 == c.tail) with
      | none => f
      | some r =>
        let on (f : Fabric) : Fabric := f.onCq n k (fun c => { c with tail := c.tail + 1, shTail := c.tail + 1, shRecord := r.2 })
        if bitAt r.2 248 != c.phase then f
        else
          match (f.fn n).sqs.find (field r.2 2 2) with
          | none => Fabric.scanCq (on f) n k fuel
          | some q =>
            match f.sq? q with
            | none => Fabric.scanCq (on f) n k fuel
            | some x =>
              if x.commit.toNat != field r.2 4 4 then f
              else
                Fabric.scanCq ((on f).onSq q (fun x => { x with
                  commit := x.commit + 1, shCommit := x.commit + 1, issue := x.commit + 1, descs := x.descs.drop 1 })) n k fuel
/-- Every completion queue is scanned. -/
def Fabric.scanCqs (f : Fabric) : Fabric :=
  let l := f.fns.flatMap (fun e => e.2.cqs.map (fun c => (e.1, c.1, c.2.ahead.length)))
  l.foldl (fun f e => (f.scanCq e.1 e.2.1 e.2.2).onCq e.1 e.2.1 (fun c => { c with ahead := [] })) f

/-- The last record of a completion queue is written again where host memory does not hold it (R163, R247). -/
def Fabric.replayRecords (f : Fabric) (found : List (Nat × Nat)) : Fabric :=
  f.fns.foldl (fun f e =>
    e.2.cqs.foldl (fun f c =>
      if c.2.tail = 0 || found.contains (e.1, c.1) || e.2.silent then f
      else f.hostWrite e.2.slice 32 (.cqRecord e.1 c.1 (c.2.addr + (c.2.tail - 1).toNat % 2 ^ c.2.log2 * 32) c.2.shRecord)) f) f

/-- Reinstatement ends: slices, queues, windows and groups stand as R387 says, and the FS waits for a boundary. A capability
table of a reinstated slice is filled again, which counts as a change, at that boundary (R68, R387 step 2). -/
def Fabric.reinstate (f : Fabric) (found : List (Nat × Nat)) (failed : List Nat) : Fabric :=
  if !f.atStage 9 || f.rs.restart.isSome then f
  else
    let f := f.each (f.slicesIn leaving) (fun s f => f.resumeRemoval s)
    let f := f.each (f.rs.lostSlices ++ failed).eraseDups (fun s f => f.loseSlice s)
    let ss := f.slicesIn (fun (x : SliceState) => x == .created || x == .resetting)
    let f := ss.foldl (fun f s => f.onSlice s (fun x => { x with caps := [] })) f
    let f := ss.foldl (fun f s => f.restartAudits s) f.fillMeters
    let f := f.scanCqs.replayRecords found
    let f := f.breakGroups (fun (x : Group) => x.state == 2 || x.state == 3)
    let f : Fabric := match f.rs.l4Sync with
      | some y => f.onSync (fun z => { z with mode := y.1, port := y.2.1, pinDelay := y.2.2 })
      | none => f
    f.toStage 10

/-! ### Stage 10: the first boundary (R385, R387, R421) -/

/-- The table in force at the freeze comes into force again, slices are ACTIVE, the chip thaws, and pending packets are
answered. The frame number has already advanced. -/
def Fabric.stage10 (f : Fabric) : Fabric :=
  if !f.atStage 10 then f
  else
    let f : Fabric := match f.rs.l4Bank with
      | some b => f.onFrame (fun fr => (fr.setShadow b).performSwitch)
      | none => f
    let f : Fabric := { f with slices := f.slices.each (fun _ x => if x.state = .resetting then { x with state := .active } else x) }
    let f := f.onRs (fun r => { r with
      frozen := false, l4Stage := 0, level := 0, l4Bank := none, l4Sync := none, l4Req := none, l4Pending := [] })
    let f := f.onFc (fun c => { c with fatalTimer := none, timers := c.timers.filter (fun t => !f.isActive t.1) })
    let f := (f.raiseCentral srcRs 0x0906).notify 2 0
    f.each (f.sqs.map (·.1)) (fun q f => f.recheckTail q)

/-- The replies that follow stage 10: ABORTED for what the freeze found pending, then CHIP_RESET, then what fell due. -/
def Fabric.stage10Replies (f : Fabric) (pending : List Req) (req : Option Req) : Fabric :=
  let f := pending.foldl (fun f q => f.answer q (rep stAborted)) f
  (f.replyOpt req (repOk [(0x20, 4, f.rs.l4Count)])).flushDue
/-- Stage 10 with its replies. -/
def Fabric.endL4 (f : Fabric) : Fabric :=
  if f.atStage 10 then f.stage10.stage10Replies f.rs.l4Pending f.rs.l4Req else f

/-! ### The power cycle (R401, R402) -/

/-- Steps 4 to 6: every copy of every slice slot is zeroed, the peers learn of it, POWER_CYCLE is answered and the tray
is asked. -/
def Fabric.askTray (f : Fabric) : Fabric :=
  let f := f.onKeys (fun k => { k with
    mem := k.mem.each (fun _ m => if m.kind ≤ 1 then { m with gen := noKey + 1 } else m), links := [], rxLast := [] })
  let f := (f.askKey keyZero 64).notify 3 0
  let q := f.rs.l5Req
  (f.onRs (fun r => { r with l5Step := 6, l5Req := none, pwrReq := true, attempt := 1, acked := false, reqAt := f.now })).replyOpt q (repOk)
/-- Step 3: the summary is written, and waited for. -/
def Fabric.l5Summary (f : Fabric) : Fabric := ((f.onRs (fun r => { r with l5Step := 3, reqAt := f.now })).writeSummary)
/-- The summary is in the flash (R396). -/
def Fabric.summaryDone (f : Fabric) : Fabric :=
  if !f.rs.summaryDue then f
  else
    let f := (f.onRs (fun r => { r with summaryDue := false, dump := { r.dump with summary := true } })).onLedger (fun l => { l with summaries := l.summaries + 1 })
    if f.rs.l5Step = 3 then f.askTray else f
/-- 100 ms have passed without the summary. -/
def Fabric.summaryLate (f : Fabric) : Fabric := if f.rs.l5Step = 3 then (f.advance (f.rs.reqAt + 100000000)).askTray else f

/-- A TERMINAL record, or POWER_CYCLE: the drain if it is wanted, else step 2 at once. An L4 is superseded (R378). -/
def Fabric.startL5 (f : Fabric) (cause : Option FRec) : Fabric :=
  if 2 ≤ f.rs.l5Step then f else (f.beginL5 cause).onFc (fun c => { c with fatalTimer := none })
/-- The drain has lasted 100 ms. -/
def Fabric.drainLate (f : Fabric) : Fabric :=
  match f.rs.l5Drain with
  | some t => (f.advance (t + 100000000)).startL5 none
  | none => f

/-- Fid's dump is complete: L4 goes on to self-refresh, L5 to the summary, DUMP_TAKE is answered. -/
def Fabric.dumpDone (f : Fabric) (timeouts unreadables : List Nat) : Fabric :=
  let d := f.rs.dump
  match d.taking with
  | none => f
  | some t =>
    let f := f.finishDump timeouts unreadables
    if t = 0 then (if f.atStage 2 then ((f.toStage 3).onRs (fun r => { r with reqAt := f.now })).emit (.selfRefresh true) else f)
    else if t = 1 then f.l5Summary
    else f.replyOpt d.req (repOk [(0x20, 4, f.rs.dump.num)])

/-- A filtered TRAY_ACK. -/
def Fabric.ackTray (f : Fabric) : Fabric :=
  f.onRs (fun r => if r.pwrReq then { r with acked := true } else { r with strayAck := satAdd 16 r.strayAck 1 })
/-- 1 s without an acknowledgement: the request is released, or after the third attempt held for good. -/
def Fabric.trayRetry (f : Fabric) : Fabric :=
  let r := f.rs
  if !r.pwrReq || r.acked || r.noAck then f
  else
    let f := f.advance (r.reqAt + 1000000000)
    if r.attempt < 3 then f.onRs (fun r => { r with pwrReq := false, reqAt := f.now })
    else (f.onRs (fun r => { r with noAck := true })).escalate srcRs 4
/-- 10 ms after its release the request is asserted again. -/
def Fabric.trayAgain (f : Fabric) : Fabric :=
  let r := f.rs
  if r.l5Step != 6 || r.pwrReq || r.acked then f
  else
    let f := f.advance (r.reqAt + 10000000)
    f.onRs (fun r => { r with pwrReq := true, attempt := r.attempt + 1, reqAt := f.now })

/-! ### Packets (R406, R430) -/

/-- ENGINE_RESET: an engine that is in service, or in an L2 that the packet then joins. -/
def rowEngineReset : Row :=
  { params := [(0x18, 1)],
    body := fun p q f =>
      let k := pfield p 0x18 1
      let e := f.engine k
      if !(e.state == .inService || e.state == .resetting) || e.resetReq.isSome then (f, some (rep stState))
      else
        let f := f.onEngine k (fun e => { e with resetReq := some q })
        ((f.startL2 k true).settle, none) }
/-- SLICE_RESET: an ACTIVE slice. -/
def rowSliceReset : Row :=
  { slice := true,
    body := fun p q f =>
      let s := pslice p
      if !f.isActive s then (f, some (rep stState))
      else (((f.startL3 s).onSlice s (fun x => { x with resetReq := x.resetReq ++ [q] })).settle, none) }
/-- CHIP_RESET: refused while a power cycle is in progress. -/
def rowChipReset : Row :=
  { body := fun _ q f => if f.rs.l5Step != 0 then (f, some (rep stState)) else (f.startL4 none (some q), none) }
/-- POWER_CYCLE. -/
def rowPowerCycle : Row :=
  { params := [(0x18, 1)], range := fun _ p => decide (pfield p 0x18 1 ≤ 1),
    body := fun p q f =>
      if f.rs.l5Step != 0 then (f, some (rep stState))
      else
        let f := f.onRs (fun r => { r with l5Req := some q, level := 5 })
        if pfield p 0x18 1 = 1 then ((f.onRs (fun r => { r with l5Drain := some f.now, l5Step := 1 })).settleDrain, none)
        else (f.startL5 none, none) }

def execEngineReset (p : Packet) (s : State) : Host.Outcome State Fault Refusal := s.run (control rowEngineReset p)
def execSliceReset (p : Packet) (s : State) : Host.Outcome State Fault Refusal := s.run (control rowSliceReset p)
def execChipReset (p : Packet) (s : State) : Host.Outcome State Fault Refusal := s.run (control rowChipReset p)
def execPowerCycle (p : Packet) (s : State) : Host.Outcome State Fault Refusal := s.run (control rowPowerCycle p)
def execFidDumpDone (timeouts unreadables : List Nat) (s : State) : Host.Outcome State Fault Refusal :=
  s.run (fun f => f.dumpDone timeouts unreadables)
def execSelfRefreshEntered (s : State) : Host.Outcome State Fault Refusal := s.run (fun f => f.refreshEntered)
def execSelfRefreshTimeout (s : State) : Host.Outcome State Fault Refusal := s.run (fun f => f.refreshLate)
def execReinstatementDone (found : List (Nat × Nat)) (failedSlices : List Nat) (s : State) : Host.Outcome State Fault Refusal :=
  s.run (fun f => f.reinstate found failedSlices)
def execL5DrainTimeout (s : State) : Host.Outcome State Fault Refusal := s.run (fun f => f.drainLate)
def execSummaryWaitTimeout (s : State) : Host.Outcome State Fault Refusal := s.run (fun f => f.summaryLate)
def execTrayAck (s : State) : Host.Outcome State Fault Refusal := s.run (fun f => f.ackTray)
def execPwrCycleReqRetry (s : State) : Host.Outcome State Fault Refusal := s.run (fun f => f.trayRetry)
def execPwrCycleReqReassert (s : State) : Host.Outcome State Fault Refusal := s.run (fun f => f.trayAgain)

end Sys2Proof.Machine
end

