-- ==== Sys2Proof/Machine/Functions.lean ====
section
/-! DEFINITION. VF quiesce and function-level reset (R397 to R400), notices of the fabric manager (R404), the chip's number
(R280), and the recovery registers (R406, R407, R430). -/

namespace Sys2Proof.Machine

/-! ### Quiesce (R397) -/

/-- The queues of a function. -/
def Fabric.fnQueues (f : Fabric) (n : Nat) : List Nat := f.queuesOf (fun x => x.fn == n)

def rowVfQuiesce : Row :=
  { op := false, pf := true, params := [(0x18, 1)], range := fun _ p => decide (1 ≤ pfield p 0x18 1),
    body := fun p q f =>
      let n := pfield p 0x18 1
      let x := f.fn n
      if x.slice.isNone || x.resetState != 0 || x.flr then (f, some (rep stState))
      else
        let f := f.each (f.fnQueues n) (fun k f => f.onSq k (fun y => { y with state := 3 }))
        ((f.onFn n (fun y => { y with resetState := 1, quiesceReq := some q, quiesceAt := f.now })).settle, none) }

/-- VF_RESUME: every STOPPED queue is OPEN again, but for one that is being destroyed, and its TAIL is checked; a quiesce
that was not answered ends. -/
def rowVfResume : Row :=
  { op := false, pf := true, params := [(0x18, 1)], range := fun _ p => decide (1 ≤ pfield p 0x18 1),
    body := fun p _ f =>
      let n := pfield p 0x18 1
      let x := f.fn n
      if x.resetState != 1 && x.resetState != 2 then (f, some (rep stState))
      else
        let f := (f.onFn n (fun y => { y with resetState := 0, quiesceReq := none })).replyOpt x.quiesceReq (rep stAborted)
        let f := f.each (f.fnQueues n) (fun k f =>
          (f.onSq k (fun y => { y with state := if y.destroy.isSome then 2 else 1 })).recheckTail k)
        (f.settle, some (repOk)) }

/-- 2 ms have passed: the reply reports TIMEOUT, and the quiesce goes on. -/
def Fabric.quiesceLate (f : Fabric) (n : Nat) : Fabric :=
  let x := f.fn n
  match x.quiesceReq with
  | some q =>
    let f := f.advance (x.quiesceAt + 2000000)
    (f.onFn n (fun y => { y with quiesceReq := none })).reply q { status := stTimeout, result := result [(0x20, 4, f.stillIssued n)] }
  | none => f

/-! ### Function-level reset (R398 to R400) -/

/-- T: the queues stop, nothing more is written for the function, its tiles end. A function without a slice holds nothing. -/
def Fabric.startFlr (f : Fabric) (n : Nat) : Fabric :=
  let x := f.fn n
  if x.flr then f
  else if n != 0 && x.slice.isNone then f.emit (.flrDone n)
  else
    let f := f.onFn n (fun y => { y with flr := true, silent := true, resetState := 3, intake := [], waiting := [], quiesceReq := none })
    let f := f.onReg 48 (fun g => { g with waiting := g.waiting.filter (fun u => !u.send.any (Out.isFor n)) })
    let qs := f.fnQueues n
    let f := f.each qs (fun k f => f.onSq k (fun y => { y with state := 3 }))
    let f := f.quitHangs (fun h => qs.contains h.sq)
    let f := f.each (f.engines.map (·.1)) (fun k f => f.withdraw k (fun r => qs.contains r.sq))
    f.each (f.enginesRunning (fun r => qs.contains r.sq)) (fun k f => f.preempt k none)

/-- Whether a reset can complete: no tile of the function runs, its slice is not at L3, and no L4 runs; for a slice that
is being removed, once the drain has ended (R399). -/
def Fabric.flrReady (f : Fabric) (n : Nat) : Bool :=
  let x := f.fn n
  let qs := f.fnQueues n
  let slices := ((qs.filterMap (fun q => (f.sq? q).map (·.slice))) ++ x.slice.toList).eraseDups
  x.flr && f.rs.l4Stage == 0 && (f.enginesRunning (fun r => qs.contains r.sq)).isEmpty
    && slices.all (fun s => (f.slice s).state != .resetting && (!leaving (f.slice s).state || f.drained s))

/-- A queue goes without records; what its descriptors held is given back. -/
def Fabric.discardQueue (f : Fabric) (q : Nat) : Fabric :=
  match f.sq? q with
  | none => f
  | some x =>
    let f := f.dropJobs (fun k => match k with
      | .arbitrate a _ _ => a == q | .project a _ _ => a == q | .checkRow a _ _ => a == q | .digest _ _ => false)
    let f := x.descs.foldl (fun f d =>
      let f := (f.dropQuota q x d).dropExtents q x d
      match d.stage with | .parked k => f.closeFault x.slice k | _ => f) f
    let f := match x.group with | some g => f.breakGroup g | none => f
    let f := f.onFn x.fn (fun y => { y with discarded := (y.discarded + x.descs.length) % 2 ^ 32, sqs := y.sqs.del x.loc })
    { f with sqs := f.sqs.del q }

/-- The function's objects are gone and the host controller is told. -/
def Fabric.endFlr (f : Fabric) (n : Nat) : Fabric :=
  let f := f.each (f.fnQueues n) (fun q f => f.discardQueue q)
  let tags := f.tags.keysOf (fun _ t => t.fn == n)
  let f := f.each tags (fun t f => f.revokeWindows t 0 (2 ^ 48))
  let f : Fabric := { f with
    slices := f.slices.each (fun _ x => { x with
      handles := x.handles.filter (fun h => h.2.fn != n)
      tu := { x.tu with
        faults := x.tu.faults.filter (fun e => !tags.contains e.2.tag)
        tcache := x.tu.tcache.filter (fun e => !tags.contains e.1), dcache := x.tu.dcache.filter (fun e => !tags.contains e.1)
        frames := x.tu.frames.filter (fun e => !tags.contains e.2.tag)
        unmaps := x.tu.unmaps.filter (fun u => match u.kind with
          | .handle _ => !tags.contains u.tag | .tag t _ => !tags.contains t | .record _ _ => true) } })
    tags := f.tags.filter (fun e => e.2.fn != n) }
  let f := f.onFn n (fun y =>
    { y with
      flr := false, silent := false, resetState := 0, cqs := [], fences := [], faultRing := {}, ctlRing := {}, attest := 0, ctlReq := []
      dbShut0 := 0, intake := [], waiting := [] })
  (f.emit (.flrDone n)).settle
/-- Resets that can complete do so at a boundary. -/
def Fabric.settleFlr (f : Fabric) : Fabric :=
  f.each (f.fns.keysOf (fun _ x => x.flr)) (fun n f => if f.flrReady n then f.endFlr n else f)

/-! ### Notices of the fabric manager (R404) -/

/-- A chip is a member of a group. -/
def Group.hasMember (g : Group) (chip : Nat) : Bool := (List.range (gN g.record)).any (fun r => gMember g.record r == chip)

def rowPeerNotice : Row :=
  { params := [(0x18, 1), (0x1A, 2), (0x1C, 4)], range := fun _ p => decide (1 ≤ pfield p 0x18 1) && decide (pfield p 0x18 1 ≤ 4),
    body := fun p _ f =>
      let kind := pfield p 0x18 1
      let chip := pfield p 0x1A 2
      let job := BitVec.ofNat 32 (pfield p 0x1C 4)
      if chip = f.splice.chip then (f, some (rep stState))
      else if kind = 4 then
        ((f.breakGroups (fun (g : Group) => (g.state == 2 || g.state == 3) && gJob g.record == job)).settle, some (repOk))
      else if kind = 2 then (f.onRs (fun r => { r with peersDown := r.peersDown.filter (fun e => e.1 != chip) }), some (repOk))
      else
        let listed := f.rs.peersDown.any (fun e => e.1 == chip)
        if !listed && decide (64 ≤ f.rs.peersDown.length) then (f, some (rep stFull))
        else
          let down := f.rs.peersDown
          let down := if listed then down.map (fun e => if e.1 = chip then (e.1, kind) else e) else down ++ [(chip, kind)]
          let f := f.onRs (fun r => { r with peersDown := down })
          let f := f.breakGroups (fun (g : Group) => (g.state == 2 || g.state == 3) && g.hasMember chip)
          let hit := f.remotes.filter (fun r => r.2.peer == chip)
          let f := hit.foldl (fun f r => ({ f with remotes := f.remotes.del r.1 } : Fabric).failRemote r.2 8) f
          (f.settle, some (repOk)) }

/-! ### The chip's number (R280) -/

def rowChipNumberSet : Row :=
  { params := [(0x18, 2)], range := fun _ p => decide (1 ≤ pfield p 0x18 2) && decide (pfield p 0x18 2 ≤ 0xFFFE),
    body := fun p _ f =>
      if !(f.slicesIn (fun x => x == .active || x == .resetting)).isEmpty || f.splice.groups.any (fun g => g.2.state != 0) then (f, some (rep stState))
      else ({ f with splice := { f.splice with chipNext := some (pfield p 0x18 2) } }, some (repOk)) }

/-! ### Recovery registers (R407) -/

def Fabric.heartbeatWord (f : Fabric) : Word := BitVec.ofNat 64 (bf f.rs.hbCount.toNat 32 32 + bf f.rs.badBeat 16 16 + f.rs.fwState.toNat)
/-- IRX_RECOVERY_STATUS in the PF, or in a VF, where two fields read 0. -/
def Fabric.recoveryWord (f : Fabric) (pf : Bool) : Word :=
  BitVec.ofNat 64 (bf f.rs.l4Count 32 32 + (if pf then bf f.rs.restartCount 16 16 + bf f.rs.peersDown.length 8 8 else 0) + f.rs.level)
def Fabric.resetCountsWord (f : Fabric) (s : Nat) : Word :=
  let x := f.slice s
  BitVec.ofNat 64 (bf x.l3Cnt 48 16 + bf x.l1Cnt 32 16 + bf x.hangCtx 16 16 + bf x.l2Cnt 0 16)
def Fabric.vfResetWord (f : Fabric) (n : Nat) : Word := BitVec.ofNat 64 (bf (f.fn n).discarded 32 32 + (f.fn n).resetState)
def Fabric.trayWord (f : Fabric) : Word :=
  BitVec.ofNat 64 (bf f.rs.strayAck 48 16 + bf f.rs.attempt 2 2 + bf (b2n f.rs.noAck) 1 1 + b2n f.rs.pwrReq)
def Fabric.dumpWord (f : Fabric) : Word :=
  let d := f.rs.dump
  BitVec.ofNat 64 (bf d.num 32 32 + bf d.timeouts 22 10 + bf d.unreadables 12 10 + bf (b2n d.summary) 2 1 + bf (b2n d.slot) 1 1 + b2n d.valid)
def Fabric.peerDownWord (f : Fabric) (i : Nat) : Word :=
  match f.rs.peersDown[i]? with
  | some e => BitVec.ofNat 64 (bf e.1 48 16 + bf e.2 1 7 + 1)
  | none => 0

def rowRecoveryQuery : Row :=
  { pf := true, params := [(0x18, 1)], range := fun _ p => decide (pfield p 0x18 1 ≤ 62),
    body := fun p _ f =>
      let i := pfield p 0x18 1
      (f, some (repOk [(0x20, 8, f.heartbeatWord.toNat), (0x28, 8, (f.recoveryWord true).toNat), (0x30, 8, (f.peerDownWord i).toNat),
        (0x38, 8, (f.peerDownWord (i + 1)).toNat)])) }

def execVfQuiesce (p : Packet) (s : State) : Host.Outcome State Fault Refusal := s.run (control rowVfQuiesce p)
def execVfResume (p : Packet) (s : State) : Host.Outcome State Fault Refusal := s.run (control rowVfResume p)
def execVfQuiesceTimeout (fn : Nat) (s : State) : Host.Outcome State Fault Refusal := s.run (fun f => f.quiesceLate fn)
def execFunctionLevelReset (fn : Nat) (s : State) : Host.Outcome State Fault Refusal := s.run (fun f => f.startFlr fn)
def execPeerNotice (p : Packet) (s : State) : Host.Outcome State Fault Refusal := s.run (control rowPeerNotice p)
def execChipNumberSet (p : Packet) (s : State) : Host.Outcome State Fault Refusal := s.run (control rowChipNumberSet p)
def execRecoveryQuery (p : Packet) (s : State) : Host.Outcome State Fault Refusal := s.run (control rowRecoveryQuery p)

end Sys2Proof.Machine
end

