-- ==== Sys2Proof/Machine/Startup.lean ====
section
/-! DEFINITION. Start-up: the reset inputs (R452), the sequence of R453, the fuse block (R462), the draws of the security
block (R234, R252, R308), the firmware image, the ledger read (R361, R367, R368), and what the key port answers. -/

namespace Sys2Proof.Machine

/-! ### The reset inputs (R452) -/

/-- Either reset input resets the whole fabric: only the ledger flash keeps what it held (R3). -/
def Fabric.powerReset (f : Fabric) (powerOk : Bool) : Fabric :=
  { free := f.free, writes := [.wipe], ledger := { log := f.ledger.log, summaries := f.ledger.summaries }, rs := { powerOk := powerOk } }

/-- FAB_RST_N low for less than 100 ns is ignored. -/
def Fabric.assertReset (f : Fabric) (lowNs : Nat) : Fabric := if lowNs < 100 then f else f.powerReset f.rs.powerOk
/-- FAB_PWR_OK changes. -/
def Fabric.powerChange (f : Fabric) (level : Bool) : Fabric :=
  if level then f.onRs (fun r => { r with powerOk := true }) else f.powerReset false
/-- D: the release of FAB_RST_N starts the fabric where it is held and powered. -/
def Fabric.releaseReset (f : Fabric) : Fabric :=
  if f.rs.boot == .held && f.rs.powerOk then f.onRs (fun r => { r with boot := .fuses }) else f

def execFabRstNAssert (lowNs : Nat) (s : State) : Host.Outcome State Fault Refusal := s.runAlways (fun f => f.assertReset lowNs)
def execFabPwrOkChange (level : Bool) (s : State) : Host.Outcome State Fault Refusal := s.runAlways (fun f => f.powerChange level)
def execFabRstNRelease (s : State) : Host.Outcome State Fault Refusal := s.runAlways (fun f => f.releaseReset)

/-! ### Fuses (R51, R462) -/

/-- No presence bit lies beyond a parameter of R449. -/
def fusesOk (u : Fuses) : Bool :=
  (bitsOf u.enginePresent).all (fun i => decide (i < Config.engines)) && (bitsOf u.dmaPresent).all (fun i => decide (i < Config.dmaEngines))
    && (bitsOf u.stackPresent).all (fun i => decide (i < Config.stackCount)) && (bitsOf u.portPresent).all (fun i => decide (i < Config.ports))

/-- An engine that the fuses mark present, with its EP_CAP. -/
def Engine.present (e : Engine) (here exact sparse : Bool) : Engine :=
  if !here then { e with state := .absent }
  else { e with state := if e.state = .absent then .inService else e.state, exact := exact, sparse := sparse }
/-- Presence, grade, identity and EP_CAP are latched; a site without its unit has no Lanyard pair (R370). -/
def Fabric.latchFuses (f : Fabric) (u : Fuses) (caps : BitVec 512) : Fabric :=
  let f : Fabric := { f with
    rs := { f.rs with fuses := u, fuseFails := 0 }
    units := { f.units with dmaPresent := u.dmaPresent, stackPresent := u.stackPresent, portPresent := u.portPresent }
    engines := (List.range Config.engines).foldl (fun l k =>
      l.put k ((l.getD k {}).present (bitAt u.enginePresent k) (bitAt caps (2 * k)) (bitAt caps (2 * k + 1)))) f.engines }
  f.each ((List.range 304).filter (fun n => !f.sourcePresent n)) (fun n f => f.onSite n (fun t => { t with lanyard := 0 }))

/-- The fuse block has been read: at start-up, or at stage 5 of L4. Three failed reads are TERMINAL. -/
def Fabric.fusesRead (f : Fabric) (u : Fuses) (crcOk : Bool) (caps : BitVec 512) : Fabric :=
  if f.rs.boot != .fuses && !f.atStage 5 then f
  else if crcOk && fusesOk u then
    let f := f.latchFuses u caps
    if f.rs.boot = .fuses then (((f.fillMeters.onRs (fun r => { r with boot := .draws })).askKey keyFabric 0).askKey keyProj 0).askKey keySeed 0
    else (f.askKey keyProj 0).askKey keySeed 0
  else
    let n := f.rs.fuseFails + 1
    let f := f.onRs (fun r => { r with fuseFails := n })
    if n = 3 then f.raise { source := srcCc, unit := unitId 10 0 0, cause := 0x0103, fabric := true, base := some 4 } else f
def execFuseReadDone (fuses : Fuses) (crcOk : Bool) (caps : BitVec 512) (s : State) : Host.Outcome State Fault Refusal :=
  s.run (fun f => f.fusesRead fuses crcOk caps)

/-! ### Draws (R234, R252, R308) -/

/-- The security block's draws are awaited. -/
def Fabric.drawing (f : Fabric) : Bool := f.rs.boot == .draws || f.atStage 5
/-- Every draw is in: the image is requested, or L4 goes on to load the firmware. -/
def Fabric.drawsDone (f : Fabric) : Fabric :=
  if !f.cau.keyLoaded || !f.belay.seeded then f
  else if f.rs.boot == .draws then
    if (f.keys.mem.getD 0 {}).state = 1 then (f.onRs (fun r => { r with boot := .image })).emit .requestFirmware else f
  else if f.atStage 5 then f.toStage 6
  else f

/-- PROJ_KEY: a request that fails is repeated, and the third failure is FATAL. -/
def Fabric.projDrawn (f : Fabric) (ok : Bool) : Fabric :=
  if !f.drawing || f.cau.keyLoaded then f
  else if ok then
    let r := f.drawRandom
    (r.2.onCau (fun c => { c with projKey := r.1, keyLoaded := true, keyFails := 0 })).drawsDone
  else
    let n := f.cau.keyFails + 1
    let f := f.onCau (fun c => { c with keyFails := n })
    if n < 3 then f.askKey keyProj 0
    else f.raise { source := srcKey, unit := centralUnit srcKey, cause := 0x0904, fabric := true }
/-- The audit seed. -/
def Fabric.seedDrawn (f : Fabric) (ok : Bool) : Fabric :=
  if !f.drawing || f.belay.seeded then f
  else if ok then
    let r := f.drawRandom
    ({ r.2 with belay := { r.2.belay with rng := r.1, seeded := true } } : Fabric).drawsDone
  else f.askKey keySeed 0
/-- The fabric's own slots 0 to 7. -/
def Fabric.slotsDrawn (f : Fabric) (ok : Bool) : Fabric :=
  if f.rs.boot != .draws then f
  else if ok then
    (f.onKeys (fun k => { k with
      keyGen := k.keyGen + 8
      mem := (List.range 8).foldl (fun l i => l.put i { state := 1, kind := 5, slice := 0, selector := i, gen := k.keyGen + 1 + i }) k.mem })).drawsDone
  else f.askKey keyFabric 0

/-- The key port's answers (R305, R307, R308, R318, R319, R234, R252). -/
def Fabric.keyAnswer (f : Fabric) : KeyPortOp → Fabric
  | .unwrap ok => f.unwrapDone ok
  | .zeroed s => f.sliceZeroed s
  | .escrowDestroyed s => f.escrowsGone s
  | .slotEscrowDestroyed kind k => f.slotDestroyed kind k
  | .restore kind k ok => f.restored kind k ok
  | .projKey ok => f.projDrawn ok
  | .auditSeed ok => f.seedDrawn ok
  | .fabricSlots ok => f.slotsDrawn ok
def execKeyPortResponse (op : KeyPortOp) (s : State) : Host.Outcome State Fault Refusal := s.run (fun f => f.keyAnswer op)

/-! ### Firmware (R31, R453) -/

/-- Where the firmware image is stored: in the reserved region of its first stack, behind the table areas and the journal shadow
(DESIGN CHOICE: R55 fixes no place). -/
def imageAt : Nat := devKey (Config.reservedStacks.headD 0) (gib (Config.reservedBaseGib + 4))
/-- I: the image is received and measured, and stored under slot 4 (R310, R453). -/
def Fabric.imageIn (f : Fabric) (image : List Byte) : Fabric :=
  if f.rs.boot == .image then
    (f.writeKeyed 4 imageAt image).onRs (fun r => { r with firmware := digestBits (sha384 image), imageLen := image.length, boot := .ledger })
  else f
def execFirmwareImageReceived (image : List Byte) (s : State) : Host.Outcome State Fault Refusal := s.run (fun f => f.imageIn image)

/-- The stored image has been loaded in a restart, or at stage 6 of L4; an image that cannot be read, or whose SHA-384 differs
from the digest measured at start-up, is not started (R31, R237, R385). -/
def Fabric.imageLoaded (f : Fabric) (readable : Bool) : Fabric :=
  if !readable || digestBits (sha384 (f.readKeyed 4 imageAt f.rs.imageLen)) != f.rs.firmware then f
  else if f.atStage 6 then f.stage7
  else if f.rs.restart.isSome then f.onRs (fun r => { r with restartLoaded := true })
  else f
def execFirmwareLoaded (readable : Bool) (s : State) : Host.Outcome State Fault Refusal := s.run (fun f => f.imageLoaded readable)

/-! ### The ledger at start-up (R361, R367, R368) -/

/-- The kept stamps that the flash holds, newest first, by rule. -/
def stampsOf (l : List LedgerEntry) : Tab (List (BitVec 32 × Nat)) :=
  l.foldl (fun t e => match e with | .stamp i u at_ => t.upd i [] (fun x => (u, at_) :: x) | _ => t) []

/-- A unit that the ledger records as retired is kept out of the pool. -/
def Fabric.excludeUnit (f : Fabric) (u : BitVec 32) : Fabric :=
  let i := unitIdx u
  match unitType u with
  | 0 => f.onEngine i (fun e => if e.state = .absent then e else { e with state := .retired })
  | 1 => { f with units := { f.units with dmaRetired := f.units.dmaRetired ||| ofBits 64 [i] } }
  | 2 => { f with units := { f.units with degraded := f.units.degraded ||| ofBits 16 [i] } }
  | 4 => { f with units := { f.units with portRetired := f.units.portRetired ||| ofBits 32 [i] } }
  | _ => f

/-- The ledger has been read: its figures with 60 s at the greatest stress added, the retired units left out. A module
with another identity is refused with a TERMINAL record. -/
def Fabric.ledgerRead (f : Fabric) (identityOk : Bool) (time stress : Nat) (n80 n95 : Bool) (retired : List (BitVec 32)) : Fabric :=
  if f.rs.boot != .ledger then f
  else if !identityOk then
    f.raise { source := srcTm, unit := unitId 9 0 0, cause := 0x0B03, fabric := true, base := some 4 }
  else
    let f := f.onLedger (fun l => { l with
      offset := Int.ofNat (time + 60000000000) - Int.ofNat f.now, stress := stress + 60 * 160 * 36, life80 := n80, life95 := n95
      valid := true, retired := retired })
    let f := f.onFc (fun c => { c with stamps := stampsOf f.ledger.log })
    (retired.foldl (fun f u => f.excludeUnit u) f).onRs (fun r => { r with boot := .beat })

end Sys2Proof.Machine
end

