-- ==== Sys2Proof/Machine/Sensors.lean ====
section
/-! DEFINITION. Sensor readings (R463), the internal rails (R450), and the test access port (R464, R327). -/

namespace Sys2Proof.Machine

/-! ### Readings (R463) -/

/-- Every millisecond each sensor that is not disabled is asked. -/
def Fabric.askSensors (f : Fabric) : Fabric :=
  let f := f.advance (f.env.askedAt + 1000000)
  let l := ((List.range Config.sensors) ++ [railAddr, powerAddr]).filter (fun a => !f.env.disabled.contains a)
  l.foldl (fun f a => f.emit (.sensor a)) (f.onEnv (fun e => { e with asked := l, askedAt := f.now }))

/-- A reading enters the means of its second (R330). -/
def Fabric.sample (f : Fabric) (g : Sums → Sums) : Fabric :=
  f.onEnv (fun e => let e := e.atSecond (f.now / 1000000000); { e with sums := g e.sums })

/-- A record of a sensor. -/
def Fabric.sensorRec (f : Fabric) (addr : Nat) (cause : BitVec 16) (syn : BitVec 192) : Fabric :=
  f.raise { source := srcTm, unit := unitId 7 0 addr, cause := cause, syndrome := syn }
/-- Runs on the engines nearest a sensor meet an excursion (R249). -/
def Fabric.markExcursion (f : Fabric) (addr : Nat) : Fabric :=
  { f with engines := f.engines.each (fun k e => if k / 16 = addr then { e with running := e.running.map (fun r => { r with excursion := true }) } else e) }

/-- The last answer of a round is in: the highest valid temperature enters the second's mean (R330). -/
def Fabric.roundDone (f : Fabric) : Fabric :=
  if !f.env.asked.isEmpty then f
  else
    let l := f.env.temps.filterMap (·.2)
    match l with
    | [] => f
    | t :: u => f.sample (fun m => { m with tempSum := m.tempSum + u.foldl max t, tempN := m.tempN + 1 })

/-- A temperature in eighths of a degree is taken, or discarded as out of range. -/
def Fabric.takeTemp (f : Fabric) (addr : Nat) (data : BitVec 16) : Fabric :=
  let t := data.toInt
  if -320 ≤ t ∧ t ≤ 1200 then
    let f := f.onEnv (fun e => { e with temps := e.temps.put addr (some t) })
    if 800 ≤ t then (f.markExcursion addr).sensorRec addr 0x0305 (BitVec.ofNat 192 data.toNat) else f
  else
    ((f.onEnv (fun e => { e with temps := e.temps.put addr none })).markExcursion addr).sensorRec addr 0x0301 (BitVec.ofNat 192 data.toNat)

/-- A sensor answers. An armed SENSOR injection replaces the reading that it names (R359). -/
def Fabric.sensorIn (f : Fabric) (addr : Nat) (data : BitVec 16) : Fabric :=
  if !f.env.asked.contains addr then f
  else
    let f := f.onEnv (fun e => { e with asked := e.asked.filter (· != addr) })
    let hit := match f.fc.inject with | some i => i.target == 5 && unitIdx i.unit == addr | none => false
    let data := if hit then 0x7FFF else data
    let f := if hit then f.consume else f
    let n := data.toNat
    let f :=
      if addr = railAddr then
        if 500 ≤ n ∧ n ≤ 1000 then f.onEnv (fun e => { e with volt := some n })
        else (f.onEnv (fun e => { e with volt := none })).sensorRec addr 0x0302 (BitVec.ofNat 192 n)
      else if addr = powerAddr then
        if n ≤ 4000 then (f.onEnv (fun e => { e with power := some n })).sample (fun m => { m with powerSum := m.powerSum + n, powerN := m.powerN + 1 })
        else (f.onEnv (fun e => { e with power := none })).sensorRec addr 0x0302 (BitVec.ofNat 192 n)
      else f.takeTemp addr data
    f.roundDone

/-- A sensor did not answer in 20 µs. -/
def Fabric.sensorSilent (f : Fabric) (addr : Nat) : Fabric :=
  if !f.env.asked.contains addr then f
  else
    let f := (f.advance (f.env.askedAt + 20000)).onEnv (fun e => { e with asked := e.asked.filter (· != addr) }.noReading addr)
    ((f.markExcursion addr).sensorRec addr 0x0303 0).roundDone

/-- An internal rail left its band for 1 µs: a FATAL record (R450). -/
def Fabric.railOut (f : Fabric) (xa : Bool) : Fabric :=
  f.raise { source := srcTm, unit := unitId 7 0 (Config.sensors + b2n xa), cause := 0x0302, fabric := true, base := some 3 }

def execSensorReadingDue (s : State) : Host.Outcome State Fault Refusal := s.run (fun f => f.askSensors)
def execSensorReply (addr : Nat) (data : BitVec 16) (s : State) : Host.Outcome State Fault Refusal := s.run (fun f => f.sensorIn addr data)
def execSensorNoReply (addr : Nat) (s : State) : Host.Outcome State Fault Refusal := s.run (fun f => f.sensorSilent addr)
def execRailOutOfBand (xa : Bool) (s : State) : Host.Outcome State Fault Refusal := s.run (fun f => f.railOut xa)

/-! ### Test access (R464, R327) -/

/-- R464: the identification word. -/
def Fabric.idcode (f : Fabric) : BitVec 32 := BitVec.ofNat 32 (0x3 * 2 ^ 28 + 0x1A3F * 2 ^ 12 + f.rs.fuses.mfrId.toNat * 2 + 1)
/-- The instruction that acts: without an open session that carries TAP only IDCODE and BYPASS do. -/
def Fabric.tapActs (f : Fabric) (ir : Byte) : Byte :=
  if ir = 0x01 then ir
  else if f.tapOpen && (ir == 0x10 || ir == 0x20) then ir
  else 0xFF
/-- An instruction is loaded; IDCODE shows its word. -/
def Fabric.tapLoad (f : Fabric) (ir : Byte) : Fabric :=
  let i := f.tapActs ir
  let f : Fabric := { f with tap := { ir := i } }
  if i = 0x01 then f.emit (.tdo f.idcode) else f
def execTapInstruction (ir : Byte) (s : State) : Host.Outcome State Fault Refusal := s.run (fun f => f.tapLoad ir)
/-- TRST_N returns the controller to Test-Logic-Reset. -/
def execTrstNAssert (s : State) : Host.Outcome State Fault Refusal := s.run (fun f => { f with tap := {} })

end Sys2Proof.Machine
end

