-- ==== Sys2Proof/Machine/FaultCollect.lean ====
section
/-! DEFINITION. The Fault Collector: Lanyard pairs (R345, R346), classification and counting (R348 to R351), delivery
(R352, R353), reactions (R355, R356), the error pin (R357) and the history (R358). -/

namespace Sys2Proof.Machine

/-! ### Lanyard pairs (R345, R346) -/

/-- The head record of a site's FIFO reaches the FC's queue where that has room. -/
def Fabric.takeHead (f : Fabric) (n : Nat) : Fabric :=
  let t := f.site n
  match t.fifo with
  | r :: rest =>
    if 256 ≤ f.fc.queue.length then f
    else
      let r := if t.lost = 0 then r else { r with flags := r.flags ||| 4, count := min 0xFFFF t.lost }
      (f.onSite n (fun t => { t with fifo := rest, lost := 0 })).onFc (fun c => { c with queue := c.queue ++ [{ r with arrived := f.now }] })
  | [] => f
/-- All of them. -/
def Fabric.takeAll (f : Fabric) (n : Nat) : Nat → Fabric
  | 0 => f
  | k + 1 => Fabric.takeAll (f.takeHead n) n k

/-- A raised pair: the FC reads the head record. -/
def Fabric.pairRaised (f : Fabric) (n : Nat) : Fabric := if (f.site n).lanyard = 1 then f.takeHead n else f

/-- UNIT_ID of the unit behind a source number (R344, R347). -/
def sourceUnit (n : Nat) : BitVec 32 :=
  if n < 256 then unitId 0 0 n else if n < 272 then unitId 3 0 (n - 256) else if n < 304 then unitId 4 0 (n - 272)
  else if n = 304 then unitId 5 0 0 else centralUnit n
/-- Owners of the unit behind a source: slices, and whether the fabric is one (R50, R55, R46). -/
def Fabric.sourceOwners (f : Fabric) (n : Nat) : List Nat × Bool :=
  if n < 256 then (f.engineOwners n, false)
  else if n < 272 then (f.stackOwners (n - 256), Config.reservedStacks.contains (n - 256))
  else if n < 304 then (f.portOwners (n - 272), true)
  else ([], true)

/-- A pair is BROKEN: it is recorded, and the site is polled from now on. -/
def Fabric.pairBroken (f : Fabric) (n : Nat) : Fabric :=
  if (f.site n).lanyard != 1 then f
  else
    (f.onSite n (fun t => { t with lanyard := 2, misses := 0, polledAt := f.now, brokenCnt := satAdd 16 t.brokenCnt 1 })).raise
      { source := srcFc, unit := unitId 8 0 n, cause := 0x0201 }

/-- A poll of a broken pair's site, every 10 µs: answered, it reads every record; the third miss in a row makes the site
SILENT. -/
def Fabric.pairPolled (f : Fabric) (n : Nat) (answered : Bool) : Fabric :=
  if (f.site n).lanyard != 2 then f
  else
    let f := f.advance ((f.site n).polledAt + 10000)
    let f := f.onSite n (fun t => { t with polledAt := f.now })
    if answered then (f.onSite n (fun t => { t with misses := 0 })).takeAll n 8
    else if (f.site n).misses < 2 then f.onSite n (fun t => { t with misses := t.misses + 1 })
    else
      let o := f.sourceOwners n
      let f := (f.onSite n (fun t => { t with lanyard := 3, misses := 3 })).raise
        { source := srcFc, unit := unitId 8 0 n, cause := 0x0202, owners := o.1, fabric := o.2 }
      if n < 256 then (f.silentEngine n).settle else f

/-! ### Base class (R348) -/

/-- Codes of a group by class: CORRECTED, CONTAINED and FATAL; any other code is a NOTE. -/
def classCodes (group : Nat) : List Nat × List Nat × List Nat :=
  match group with
  | 0x01 => ([1, 5, 6, 7], [2, 3, 4], [])
  | 0x02 => ([1, 3], [2], [])
  | 0x03 => ([1, 2, 3], [], [])
  | 0x04 => ([1, 4, 5], [2, 3], [])
  | 0x05 => ([1, 2, 3], [], [])
  | 0x06 => ([5], [], [])
  | 0x08 => ([1, 2, 4, 5], [], [])
  | 0x09 => ([1, 3], [2], [4])
  | 0x0A => ([2], [], [])
  | 0x0B => ([3], [], [])
  | _ => ([], [], [])
def causeGroup (c : BitVec 16) : Nat := c.toNat / 256
def causeCode (c : BitVec 16) : Nat := c.toNat % 256
/-- The base class of a record: what its raising rule states, else that of its cause. -/
def FRec.baseClass (r : FRec) : Nat :=
  match r.base with
  | some b => b
  | none =>
    let l := classCodes (causeGroup r.cause)
    let c := causeCode r.cause
    if l.1.contains c then 1 else if l.2.1.contains c then 2 else if l.2.2.contains c then 3 else 0
/-- R50: a fault that is not corrected and has the fabric among its owners is FATAL. -/
def FRec.ownedClass (r : FRec) : Nat := if 2 ≤ r.baseClass ∧ r.fabric = true then max 3 r.baseClass else r.baseClass

/-! ### Counting rules (R350, R351) -/

/-- A rule matches a cause and a unit type; code 0xFF matches its whole group, unit type 15 any unit. -/
def Rule.hits (u : Rule) (r : FRec) : Bool :=
  u.valid && (u.cause == r.cause || (causeCode u.cause == 0xFF && causeGroup u.cause == causeGroup r.cause))
    && (u.unitType == 15 || u.unitType == Sys2Proof.Machine.unitType r.unit)

/-- Stamps of a unit leave the ledger with those of the FC. -/
def dropStamps (rule : Nat) (unit : Option (BitVec 32)) (l : List LedgerEntry) : List LedgerEntry :=
  l.filter (fun e => match e with
    | .stamp i u _ => !(i == rule && (match unit with | some v => u == v | none => true))
    | _ => true)
def Fabric.clearStamps (f : Fabric) (rule : Nat) (unit : Option (BitVec 32)) : Fabric :=
  let f := f.onFc (fun c => { c with stamps := c.stamps.upd rule [] (fun l => match unit with | some v => l.filter (fun e => e.1 != v) | none => []) })
  f.onLedger (fun l => { l with log := dropStamps rule unit l.log, buffer := dropStamps rule unit l.buffer })

/-- One event for a rule: whether it trips. A trip clears the unit's kept stamps; otherwise the stamp is kept, N - 1 for
each unit, and written to the ledger for PERSIST. -/
def Fabric.countRule (f : Fabric) (i : Nat) (u : Rule) (r : FRec) : Bool × Fabric :=
  let t := (Int.ofNat r.time + f.ledger.offset).toNat
  let all := f.fc.stamps.getD i []
  let mine := all.filter (fun e => e.1 == r.unit)
  let inside := (mine.filter (fun e => decide (t - e.2 < u.windowMs * 1000000))).length
  if u.n - 1 ≤ inside then (true, f.clearStamps i (some r.unit))
  else
    let kept := ((r.unit, t) :: mine).take (u.n - 1)
    let f := f.onFc (fun c => { c with stamps := c.stamps.put i (kept ++ all.filter (fun e => e.1 != r.unit)) })
    (false, if u.persist then f.ledgerPut (.stamp i r.unit t) else f)

/-- The action of a rule that trips, and the class it raises the record to. -/
def Fabric.ruleAction (f : Fabric) (u : Rule) (r : FRec) (cls : Nat) : Nat × Fabric :=
  match u.action with
  | 1 => (cls, if unitType r.unit = 0 then f.watchEngine (unitIdx r.unit) 2 else f)
  | 2 => (cls, f.autoRetire r.unit)
  | 3 => (max cls 3, f)
  | 4 => (max cls 4, f)
  | 5 => (cls, f.onEnv (fun e => { e with disabled := (e.disabled ++ [unitIdx r.unit]).eraseDups }.noReading (unitIdx r.unit)))
  | _ => (cls, f)
/-- Every rule in ascending order; an injected record counts only where FC_INJECT carried COUNT (R360). -/
def Fabric.applyRules (f : Fabric) (r : FRec) (cls : Nat) : Nat × Fabric :=
  let counts := match r.inj with | some i => i.count | none => true
  f.fc.rules.zipIdx.foldl (fun (acc : Nat × Fabric) e =>
    if counts && e.1.hits r then
      let c := acc.2.countRule e.2 e.1 r
      if c.1 then c.2.ruleAction e.1 r acc.1 else (acc.1, c.2)
    else acc) (cls, f)

/-! ### Delivery (R348, R352, R353) -/

/-- Write a record into a function's fault ring, or discard and count it. -/
def Fabric.ringRecord (f : Fabric) (n : Nat) (r : FRec) (slice : Byte) : Fabric :=
  let x := (f.fn n).faultRing
  if (f.fn n).silent then f
  else if !x.enable || !ringRoom x then f.onFn n (fun y => { y with faultRing := { y.faultRing with lost := satAdd 16 x.lost 1, lostRun := x.lostRun + 1 } })
  else
    let flags := (if r.shared then r.flags ||| 0x40 else r.flags) ||| (if x.lostRun = 0 then 0 else 8) ||| (if ringPhase x then 0x80 else 0)
    let f := f.hostWrite (f.fn n).slice 64 (.faultRecord n (ringSlot x) (r.bytes flags slice (r.count + x.lostRun)))
    (f.onFn n (fun y => { y with faultRing := { y.faultRing with tail := y.faultRing.tail + 1, lostRun := 0 } })).irq n x.vector

/-- The boundary of the frame in which a time lies. -/
def Fabric.frameOf (f : Fabric) (t : Nat) : Nat :=
  let b := f.frame.boundaryAt
  let p := f.frame.periodNs
  if b ≤ t then b + (t - b) / p * p else b - ceilDiv (b - t) p * p
/-- A VF's copy: time, temperature and voltage rounded (R330, R352). -/
def Fabric.coarsen (f : Fabric) (r : FRec) : FRec :=
  let temp := if r.temp = 0x8000 then r.temp else BitVec.ofInt 16 (roundDiv r.temp.toInt 8 * 8)
  { r with time := f.frameOf r.time, temp := temp, volt := (r.volt + 5) / 10 * 10, flags := r.flags ||| 2 }

/-- The VFs that receive a record, each with its slice: those of the owning slices where the cause names them, and the
functions of the record's own descriptor or tag (R348). -/
def Fabric.vfRecipients (f : Fabric) (r : FRec) : List Nat :=
  let g := causeGroup r.cause
  let c := causeCode r.cause
  let ofSlices := r.owners.flatMap (fun s => f.vfsOf s)
  let own := r.fns.filter (fun n => n != 0 && (match (f.fn n).slice with | some s => r.owners.contains s | none => false))
  let l := match g with
    | 0x01 => if 2 ≤ r.cls then ofSlices else []
    | 0x04 => if 2 ≤ r.cls then ofSlices else []
    | 0x05 => if 5 ≤ c ∧ c ≤ 8 then ofSlices else []
    | 0x06 => own
    | 0x07 => if c = 0x13 ∨ c = 0x14 then ofSlices else own
    | 0x08 => if c = 3 then own else []
    | 0x0B => if c = 4 then ofSlices else []
    | _ => []
  (l.eraseDups).filter (fun n => match (f.fn n).slice with | some s => !leaving (f.slice s).state | none => false)
/-- The operator receives the record. -/
def FRec.toOperator (r : FRec) : Bool := causeGroup r.cause != 0x06 && causeGroup r.cause != 0x07

/-- A record joins the mailbox FIFO of 64 entries, which keeps the newest and counts what it discards (R353, R370). -/
def Fc.operPut (c : Fc) (b : BitVec 512) : Fc :=
  { c with oper := (c.oper ++ [b]).drop (c.oper.length + 1 - 64), operLost := if 64 ≤ c.oper.length then satAdd 16 c.operLost 1 else c.operLost }
/-- The management block takes the oldest record of the FIFO. -/
def Fabric.drainOper (f : Fabric) : Fabric :=
  match f.fc.oper with
  | b :: t => (f.onFc (fun c => { c with oper := t })).emit (.operatorRecord b)
  | [] => f
/-- A classified record goes to the PF, the operator path and its VFs. -/
def Fabric.deliver (f : Fabric) (r : FRec) : Fabric :=
  let f := f.ringRecord 0 r r.sliceByte
  let f := if r.toOperator then f.onFc (fun c => c.operPut r.image) else f
  (f.vfRecipients r).foldl (fun f n => f.ringRecord n (f.coarsen r) (BitVec.ofNat 8 (((f.fn n).slice).getD 0))) f

/-! ### The pin and the history (R357, R358) -/

/-- A fault whose only owner is a slice that is being removed (R338, R357). -/
def Fabric.onlyLeaving (f : Fabric) (r : FRec) : Bool :=
  match r.owners with | [s] => !r.fabric && leaving (f.slice s).state | _ => false
/-- The record drives ERR_OUT_N. -/
def Fabric.drivesPin (f : Fabric) (r : FRec) : Bool :=
  decide (f.fc.pinClass ≤ r.cls) && (match r.inj with | some i => i.pin | none => true) && !f.onlyLeaving r
def Fabric.drivePin (f : Fabric) (r : FRec) : Fabric :=
  let f := if r.cls = 4 then f.onFc (fun c => { c with terminalSeen := true }) else f
  if f.drivesPin r then f.onFc (fun c => { c with errOut := true, lowUntil := f.now + 10000, clearWanted := false }) else f
/-- The minimum low time is over: a release that was asked for meanwhile takes effect. -/
def Fabric.pinLowEnd (f : Fabric) : Fabric :=
  if !f.fc.errOut then f
  else
    (f.advance f.fc.lowUntil).onFc (fun c =>
      if c.clearWanted && !c.terminalSeen then { c with errOut := false, clearWanted := false } else { c with clearWanted := false })
/-- The history holds the last 64 records from CORRECTED on, the first FATAL or TERMINAL one is kept. -/
def Fc.remember (c : Fc) (r : FRec) : Fc :=
  { c with hist := if 1 ≤ r.cls then (c.hist ++ [r]).drop ((c.hist.length + 1) - 64) else c.hist
           first := if 3 ≤ r.cls then c.first.or (some r) else c.first }

/-! ### Reactions (R355, R356) -/

/-- CONTAINED: L3 of each owning slice that is ACTIVE, with its reaction timer. -/
def Fabric.reactContained (f : Fabric) (r : FRec) : Fabric :=
  if f.rs.l4Stage != 0 || decide (2 ≤ f.rs.l5Step) then f
  else
    (r.owners.filter f.isActive).foldl (fun f s =>
      ((f.startL3 s).onFc (fun c => { c with timers := c.timers.put s (f.now + c.reactContainedMs * 1000000) })).settle) f
/-- FATAL: L4 with its reaction timer, unless an L4 or L5 is in progress. -/
def Fabric.reactFatal (f : Fabric) (r : FRec) : Fabric :=
  if f.rs.l4Stage != 0 || f.rs.l5Step != 0 then f
  else (f.startL4 (some r) none).onFc (fun c => { c with fatalTimer := some (f.now + c.reactFatalMs * 1000000) })
/-- The reaction to a record's class. -/
def Fabric.react (f : Fabric) (r : FRec) : Fabric :=
  match r.cls with
  | 2 => f.reactContained r
  | 3 => f.reactFatal r
  | 4 => f.startL5 (some r)
  | _ => f

/-! ### Classification (R349) -/

/-- The order of classification. -/
def FRec.key (r : FRec) : Nat := r.time * 512 + r.source
/-- The record that is classified next, with the rest of the queue. -/
def nextRecord (l : List FRec) : Option (FRec × List FRec) :=
  match minBy FRec.key l with
  | some r => some (r, l.erase r)
  | none => none
/-- The reply of FC_INJECT, at the first record that the injection causes (R428). -/
def Fabric.answerInject (f : Fabric) (r : FRec) : Fabric :=
  match r.inj with
  | some i => f.reply i.req (repOk [(0x20, 4, r.seqNo.toNat), (0x28, 8, i.consumedAt.getD 0)])
  | none => f

/-- One record is classified, delivered and reacted to, 200 ns after it arrived; a record behind one that has already
been classified is not held. ESCALATED shows a class that a counting rule raised (R34, R347). -/
def Fabric.classify (f : Fabric) : Fabric :=
  match nextRecord f.fc.queue with
  | none => f
  | some (r, rest) =>
    let f := f.onFc (fun c => { c with queue := rest })
    let f := if r.key < f.fc.lastKey then f else (f.advance (r.arrived + 200)).onFc (fun c => { c with lastKey := r.key })
    let a := f.applyRules r r.ownedClass
    let f := a.2
    let r := { r with cls := a.1, seqNo := f.fc.recordSeq, flags := if r.ownedClass < a.1 then r.flags ||| 0x10 else r.flags }
    let f := f.onFc (fun c => { c with recordSeq := c.recordSeq + 1 }.remember r)
    (((f.deliver r).drivePin r).answerInject r).react r

/-- A reaction timer of a slice ends: a slice that is not ACTIVE again escalates to FATAL. -/
def Fabric.containedEnd (f : Fabric) (s : Nat) : Fabric :=
  match f.fc.timers.find s with
  | none => f
  | some t =>
    let f := (f.advance t).onFc (fun c => { c with timers := c.timers.del s })
    if (f.slice s).state == .resetting then f.escalate srcFc 3 else f
/-- The reaction timer of L4 ends: an L4 that has not completed escalates to TERMINAL. -/
def Fabric.fatalEnd (f : Fabric) : Fabric :=
  match f.fc.fatalTimer with
  | none => f
  | some t =>
    let f := (f.advance t).onFc (fun c => { c with fatalTimer := none })
    if f.rs.l4Stage != 0 || f.rs.boot != .running then f.escalate srcFc 4 else f

/-- A request across clock domains went unanswered for 20 µs (R21): the FC learns of it, the request is abandoned, and
its requester sees an error response. A register read completes with all ones (R438); a key port operation counts as
failed (R307, R308, R234, R319), and the zeroing of a slice's slots is asked for again (DESIGN CHOICE). -/
def Fabric.crossingLate (f : Fabric) (n : Nat) (lost : Crossing) : Fabric :=
  let f := f.raise { source := n, unit := sourceUnit n, cause := 0x0105 }
  match lost with
  | .register fn off size => f.emit (.readData fn off size (if size = 8 then BitVec.allOnes 64 else 0xFFFFFFFF))
  | .keyPort op =>
    match op with
    | .unwrap _ => f.unwrapDone false
    | .restore kind k _ => f.restored kind k false
    | .projKey _ => f.projDrawn false
    | .auditSeed _ => f.seedDrawn false
    | .fabricSlots _ => f.slotsDrawn false
    | .zeroed s => if leaving (f.slice s).state && !(f.slice s).keysZeroed then f.askKey keyZero s else f
    | .escrowDestroyed s => f.escrowLate s
    | .slotEscrowDestroyed kind k => f.escrowLate (f.slotSlice kind k)
  | .other => f

def execLanyardRaise (source : Nat) (s : State) : Host.Outcome State Fault Refusal := s.run (fun f => f.pairRaised source)
def execLanyardBroken (source : Nat) (s : State) : Host.Outcome State Fault Refusal := s.run (fun f => f.pairBroken source)
def execLanyardPoll (source : Nat) (answered : Bool) (s : State) : Host.Outcome State Fault Refusal := s.run (fun f => f.pairPolled source answered)
def execClassifyRecord (s : State) : Host.Outcome State Fault Refusal := s.run (fun f => f.classify)
def execContainedTimerExpiry (slice : Nat) (s : State) : Host.Outcome State Fault Refusal := s.run (fun f => f.containedEnd slice)
def execFatalTimerExpiry (s : State) : Host.Outcome State Fault Refusal := s.run (fun f => f.fatalEnd)
def execXdomainTimeout (r : LostRequest) (s : State) : Host.Outcome State Fault Refusal :=
  s.run (fun f => f.crossingLate r.source r.lost)
def execErrOutMinLowEnd (s : State) : Host.Outcome State Fault Refusal := s.run (fun f => f.pinLowEnd)

end Sys2Proof.Machine
end

