-- ==== Sys2Proof/Machine/Injection.lean ====
section
/-! DEFINITION. The fault and test packets (R359, R360, R369, R428) and the life ledger (R365 to R368, R396). -/

namespace Sys2Proof.Machine

/-! ### Rules, pin and reactions (R351, R355, R357) -/

def rowFcRuleSet : Row :=
  { params := [(0x18, 1), (0x19, 1), (0x1A, 1), (0x1B, 1), (0x1C, 1), (0x1E, 2), (0x20, 4)],
    range := fun _ p => decide (pfield p 0x18 1 < 16) && (decide (pfield p 0x19 1 ≤ 10) || pfield p 0x19 1 == 15)
      && decide (1 ≤ pfield p 0x1A 1) && decide (pfield p 0x1A 1 ≤ 16) && decide (pfield p 0x1B 1 ≤ 5) && decide (pfield p 0x1C 1 < 4)
      && decide (1 ≤ pfield p 0x20 4),
    body := fun p _ f =>
      let i := pfield p 0x18 1
      let u : Rule :=
        { windowMs := pfield p 0x20 4, cause := BitVec.ofNat 16 (pfield p 0x1E 2), unitType := pfield p 0x19 1, n := pfield p 0x1A 1,
          action := pfield p 0x1B 1, persist := pfield p 0x1C 1 % 2 == 1, valid := decide (2 ≤ pfield p 0x1C 1) }
      ((f.onFc (fun c => { c with rules := c.rules.set i u })).clearStamps i none, some (repOk)) }

/-- FC_ERR_CLEAR: within the minimum low time the release waits for its end. -/
def rowFcErrClear : Row :=
  { body := fun _ _ f =>
      if f.fc.terminalSeen then (f, some (rep stState))
      else if f.fc.errOut && decide (f.now < f.fc.lowUntil) then (f.onFc (fun c => { c with clearWanted := true }), some (repOk))
      else (f.onFc (fun c => { c with errOut := false }), some (repOk)) }

def rowFcReactSet : Row :=
  { params := [(0x18, 1), (0x1C, 2), (0x1E, 2)],
    range := fun _ p => decide (2 ≤ pfield p 0x18 1) && decide (pfield p 0x18 1 ≤ 4) && decide (1 ≤ pfield p 0x1C 2) && decide (pfield p 0x1C 2 ≤ 1000)
      && decide (50 ≤ pfield p 0x1E 2) && decide (pfield p 0x1E 2 ≤ 5000),
    body := fun p _ f =>
      (f.onFc (fun c => { c with pinClass := pfield p 0x18 1, reactContainedMs := pfield p 0x1C 2, reactFatalMs := pfield p 0x1E 2 }), some (repOk)) }

/-! ### Injection (R359, R360) -/

/-- BITS, UNIT_ID, DURATION and INDEX fit the target. -/
def injectForm (p : Packet) : Bool :=
  let t := pfield p 0x18 1
  let bits := pfield p 0x19 1
  let u := BitVec.ofNat 32 (pfield p 0x20 4)
  let ix := pfield p 0x28 8
  let ecc := bits == 1 || bits == 2
  decide (bits ≤ 2) && decide (pfield p 0x1A 1 < 4)
    && (match t with
      | 0 => ecc && unitType u == 0 && decide (unitIdx u < Config.engines)
      | 1 => ecc && decide (ix < 2 ^ 40) && decide (ix % 64 = 0) && decide (ix / 2 ^ 36 < Config.stackCount)
          && decide (ix % 2 ^ 36 < Config.stackGib * 2 ^ 30)
      | 2 => ecc && decide (ix ≤ 2)
      | 3 => unitType u == 8 && decide (unitIdx u ≤ 314) && decide (1 ≤ pfield p 0x1C 2) && decide (pfield p 0x1C 2 ≤ 1000)
      | 4 => unitType u == 4 && decide (unitIdx u < Config.ports)
      | 5 => unitType u == 7 && decide (unitIdx u < Config.sensors)
      | 6 => true
      | _ => false)
/-- A debug session whose scope includes a slice is open; a chip-scope session is open. -/
def Fabric.chipSession (f : Fabric) : Bool := f.keys.dbg.any (fun d => d.2.chip)
/-- The debug sessions that R360 asks for are open. -/
def Fabric.injectAllowed (f : Fabric) (p : Packet) : Bool :=
  let i := unitIdx (BitVec.ofNat 32 (pfield p 0x20 4))
  let ix := pfield p 0x28 8
  let each (l : List Nat) : Bool := l.all (fun s => f.sessionsOn s != 0)
  match pfield p 0x18 1 with
  | 0 => each (f.engineOwners i)
  | 1 =>
    if inReserved (ix / 2 ^ 36) (ix % 2 ^ 36 / 2 ^ 30) 1 then f.chipSession
    else (match f.ownerOf (ix / 2 ^ 36) (ix % 2 ^ 36) with | some s => each [s] | none => true)
  | 2 => f.chipSession
  | 3 => if 304 ≤ i then f.chipSession else each (f.sourceOwners i).1
  | 4 => each (f.portOwners i)
  | 5 => true
  | _ => f.chipSession
/-- The named unit is present. -/
def Fabric.injectUnit (f : Fabric) (p : Packet) : Bool :=
  let i := unitIdx (BitVec.ofNat 32 (pfield p 0x20 4))
  match pfield p 0x18 1 with
  | 0 => f.engineIn i
  | 1 => f.stackIn (pfield p 0x28 8 / 2 ^ 36)
  | 3 => f.sourcePresent i
  | 4 => bitAt f.units.portPresent i
  | _ => true

/-- The injection is armed, and what it starts at once starts: the command on the engine port, the memory-side port's read
and write-back under fabric credits, the forced code on a Lanyard pair (R359). -/
def Fabric.armInject (f : Fabric) (i : Inject) : Fabric :=
  let f := f.onFc (fun c => { c with inject := some i })
  match i.target with
  | 0 => f.emit (.engine (unitIdx i.unit) (.inject i.bits))
  | 1 =>
    let line := i.index.toNat % 2 ^ 36
    let u : CUnit := { cls := 6, charge := 64, line := line, chan := line / 256 % Config.channels }
    (f.offer (i.index.toNat / 2 ^ 36) u).offer (i.index.toNat / 2 ^ 36) { u with write := true, injectBits := i.bits }
  | 3 => f.consume
  | _ => f

def rowFcInject : Row :=
  { params := [(0x18, 1), (0x19, 1), (0x1A, 1), (0x1C, 2), (0x20, 4), (0x28, 8)], range := fun _ p => injectForm p,
    body := fun p q f =>
      if f.fc.inject.isSome || !f.injectUnit p || !f.injectAllowed p then (f, some (rep stState))
      else
        let i : Inject :=
          { target := pfield p 0x18 1, bits := pfield p 0x19 1, unit := BitVec.ofNat 32 (pfield p 0x20 4), index := BitVec.ofNat 64 (pfield p 0x28 8),
            duration := pfield p 0x1C 2, count := pfield p 0x1A 1 % 2 == 1, pin := decide (2 ≤ pfield p 0x1A 1), req := q, armedAt := f.now,
            consumedAt := none }
        (f.armInject i, none) }

/-- 1 s without consumption: the injection is disarmed. -/
def Fabric.injectLate (f : Fabric) : Fabric :=
  match f.fc.inject with
  | some i => ((f.advance (i.armedAt + 1000000000)).onFc (fun c => { c with inject := none })).reply i.req (rep stTimeout)
  | none => f
/-- 1 s after consumption without a record, for the injection consumed first. -/
def Fabric.injectSilent (f : Fabric) : Fabric :=
  match f.fc.consumed with
  | i :: t =>
    let at_ := i.consumedAt.getD 0
    ((f.advance (at_ + 1000000000)).onFc (fun c => { c with consumed := t })).reply i.req
      { status := stTimeout, detail := 1, result := result [(0x20, 4, 0xFFFFFFFF), (0x28, 8, at_)] }
  | [] => f

/-! ### Retirement, tests (R361, R362) -/

/-- UNIT_ID names a unit that can be retired at all. -/
def retirable (u : BitVec 32) : Bool :=
  match unitType u with
  | 0 => decide (unitIdx u < Config.engines)
  | 1 => decide (unitIdx u < Config.dmaEngines)
  | 2 => decide (unitIdx u < Config.stackCount)
  | 4 => decide (unitIdx u < Config.ports)
  | _ => false
def rowUnitRetire : Row :=
  { params := [(0x20, 4)], range := fun _ p => retirable (BitVec.ofNat 32 (pfield p 0x20 4)),
    body := fun p q f =>
      let u := BitVec.ofNat 32 (pfield p 0x20 4)
      if !f.canRetire u || f.units.retiring.any (fun r => r.unit == u) then (f, some (rep stState))
      else ((f.startRetire u (some q)).settle, none) }
def rowTestSet : Row :=
  { params := [(0x18, 1), (0x1A, 2)], range := fun _ p => decide (pfield p 0x18 1 ≤ 1) && decide (1 ≤ pfield p 0x1A 2) && decide (pfield p 0x1A 2 ≤ 720),
    body := fun p _ f => ({ f with tests := { enable := pfield p 0x18 1 == 1, intervalH := pfield p 0x1A 2 } }, some (repOk)) }

/-! ### The ledger (R365 to R368, R396) -/

/-- Kept stamps of a unit under PERSIST rules. -/
def Fabric.persistStamps (f : Fabric) (u : BitVec 32) : List Nat :=
  (f.fc.stamps.flatMap (fun e => if (f.fc.rules.getD e.1 {}).persist then e.2 else [])).filterMap (fun e => if e.1 = u then some e.2 else none)
def rowLedgerRead : Row :=
  { pf := true, params := [(0x18, 1), (0x1C, 4)],
    range := fun _ p => decide (pfield p 0x18 1 ≤ 2) && (match pfield p 0x18 1 with | 0 => decide (pfield p 0x1C 4 < 128) | 1 => pfield p 0x1C 4 == 0 | _ => true),
    body := fun p q f =>
      match pfield p 0x18 1 with
      | 0 => ((f.onLedger (fun l => { l with readReqs := l.readReqs ++ [q] })).emit (.ledger 0 (leBytes 4 (pfield p 0x1C 4))), none)
      | 1 => (f, some (repOk [(0x20, 8, f.ledger.stress), (0x28, 8, f.ledgerNow), (0x30, 4, Config.ratedStressH f.rs.fuses.grade),
          (0x34, 1, b2n f.ledger.life80 + 2 * b2n f.ledger.life95)]))
      | _ =>
        let u := BitVec.ofNat 32 (pfield p 0x1C 4)
        let l := f.persistStamps u
        (f, some (repOk [(0x20, 1, b2n (f.ledger.retired.contains u)), (0x24, 4, l.length), (0x28, 8, l.foldl max 0)])) }

/-- A flush, every 60 s: a stress checkpoint joins the buffer, and the entries go to the flash; an access that fails is tried
again, and a third failure in a row is recorded. The cores must run (R32, R366). -/
def Fabric.flushLedger (f : Fabric) (failed : Bool) : Fabric :=
  if !f.coresUp then f
  else
    let f := if f.ledger.flushFails = 0 then f.advance (f.ledger.flushAt + 60000000000) else f
    let f := f.onLedger (fun l => { l with flushAt := f.now })
    if failed then
      let n := f.ledger.flushFails + 1
      if n < 3 then f.onLedger (fun l => { l with flushFails := n })
      else (f.onLedger (fun l => { l with flushFails := 0, ioError := true, flushing := false })).raiseCentral srcTm 0x0B03
    else ((f.ledgerPut (.stress f.ledgerNow f.ledger.stress)).onLedger (fun l => { l with flushing := true })).writeFlush

/-- Entries of the log: sectors 4 to 4,095 of 4 KiB, entries of 64 bytes (R365). -/
def logEntries : Nat := 4092 * 64
/-- A full log is compacted: its live state stays, which is every entry but the stress checkpoints that a newer one replaces
(R365; DEDUCED). -/
def compactLog (l : List LedgerEntry) : List LedgerEntry := if l.length < logEntries then l else liveEntries l
/-- Entries reach the log; each sector of 64 entries needs an erase, and what finds no token waits (R366). -/
def Ledger.write (l : Ledger) : List LedgerEntry → Ledger
  | [] => { l with buffer := [] }
  | e :: t =>
    if l.used < 64 then Ledger.write { l with log := l.log ++ [e], used := l.used + 1 } t
    else if 0 < l.tokens then Ledger.write { l with log := compactLog l.log ++ [e], used := 1, tokens := l.tokens - 1 } t
    else { l with buffer := e :: t }
/-- The entries of a flush are in the flash. -/
def Fabric.flushed (f : Fabric) : Fabric := f.onLedger (fun l => { l.write l.buffer with flushFails := 0, flushing := false })

/-- A header part has been read for LEDGER_READ. -/
def Fabric.ledgerPart (f : Fabric) (bytes : BitVec 256) : Fabric :=
  match f.ledger.readReqs with
  | q :: t => (f.onLedger (fun l => { l with readReqs := t })).reply q { status := stOk, result := bytes }
  | [] => f

/-- A ledger access through the management block ends. -/
def Fabric.ledgerDone (f : Fabric) : LedgerOp → Fabric
  | .startUp ok time stress n80 n95 retired => f.ledgerRead ok time stress n80 n95 retired
  | .flush => f.flushed
  | .summary => f.summaryDone
  | .read bytes => f.ledgerPart bytes

/-- 60 s have passed: one erase token, at most 16. -/
def Fabric.refillToken (f : Fabric) : Fabric :=
  (f.advance (f.ledger.tokenAt + 60000000000)).onLedger (fun l => { l with tokens := min 16 (l.tokens + 1), tokenAt := l.tokenAt + 60000000000 })

/-- f_T from the highest valid temperature in eighths of a degree, f_V from the core rail in mV (R367). -/
def stressT (t : Option Int) : Nat :=
  match t with
  | none => 160
  | some t => if t < 480 then 10 else if t < 600 then 20 else if t < 680 then 30 else if t < 760 then 50 else if t < 840 then 80 else 160
def stressV (v : Option Nat) : Nat :=
  match v with
  | none => 36
  | some v => if v < 700 then 16 else if v < 750 then 20 else if v < 780 then 26 else 36
/-- The highest valid temperature. -/
def Fabric.hottest (f : Fabric) : Option Int :=
  match f.env.temps.filterMap (·.2) with
  | [] => none
  | t :: u => some (u.foldl max t)
/-- A life notice is sent once and written to the log (R368). -/
def Fabric.lifeNotice (f : Fabric) (pct : Nat) : Fabric :=
  (f.ledgerPut (.notice pct)).raise { source := srcTm, unit := unitId 9 0 0, cause := if pct = 80 then 0x0B01 else 0x0B02 }
/-- One second's stress at the end of that second, and the notices at 80 % and 95 % of the rated life (R367). -/
def Fabric.addStress (f : Fabric) : Fabric :=
  let f := f.advance (f.ledger.stressAt + 1000000000)
  let f := f.onLedger (fun l => { l with stress := l.stress + stressT f.hottest * stressV f.env.volt, stressAt := l.stressAt + 1000000000 })
  let rated := Config.ratedStressH f.rs.fuses.grade * 3600 * 400
  let past (pct : Nat) : Bool := decide (rated * pct ≤ f.ledger.stress * 100)
  let f := if past 80 && !f.ledger.life80 then (f.onLedger (fun l => { l with life80 := true })).lifeNotice 80 else f
  if past 95 && !f.ledger.life95 then (f.onLedger (fun l => { l with life95 := true })).lifeNotice 95 else f

def execFcRuleSet (p : Packet) (s : State) : Host.Outcome State Fault Refusal := s.run (control rowFcRuleSet p)
def execFcInject (p : Packet) (s : State) : Host.Outcome State Fault Refusal := s.run (control rowFcInject p)
def execFcErrClear (p : Packet) (s : State) : Host.Outcome State Fault Refusal := s.run (control rowFcErrClear p)
def execFcReactSet (p : Packet) (s : State) : Host.Outcome State Fault Refusal := s.run (control rowFcReactSet p)
def execUnitRetire (p : Packet) (s : State) : Host.Outcome State Fault Refusal := s.run (control rowUnitRetire p)
def execTestSet (p : Packet) (s : State) : Host.Outcome State Fault Refusal := s.run (control rowTestSet p)
def execLedgerRead (p : Packet) (s : State) : Host.Outcome State Fault Refusal := s.run (control rowLedgerRead p)
def execInjectUnconsumed (s : State) : Host.Outcome State Fault Refusal := s.run (fun f => f.injectLate)
def execInjectNoRecord (s : State) : Host.Outcome State Fault Refusal := s.run (fun f => f.injectSilent)
def execLedgerFlush (failed : Bool) (s : State) : Host.Outcome State Fault Refusal := s.run (fun f => f.flushLedger failed)
def execLedgerAccessDone (op : LedgerOp) (s : State) : Host.Outcome State Fault Refusal := s.run (fun f => f.ledgerDone op)
def execEraseTokenRefill (s : State) : Host.Outcome State Fault Refusal := s.run (fun f => f.refillToken)
def execStressAccumulate (s : State) : Host.Outcome State Fault Refusal := s.run (fun f => f.addStress)

end Sys2Proof.Machine
end

