-- ==== Sys2Proof/Machine/Pool.lean ====
section
/-! DEFINITION. The pool step of the key/value pool (R125 to R135). -/

namespace Sys2Proof.Machine

/-! ### Pages -/

/-- Pages that live sequences hold. -/
def Pool.held (p : Pool) : List Nat := p.seqs.flatMap (fun e => e.2.pages)
/-- Free pages. -/
def Pool.freeCount (p : Pool) : Nat := p.size - p.held.length - p.draining.length
/-- The `n` lowest-numbered pages from `k` on that are not in use; `fuel` pages are looked at. -/
def lowestPages (used : List Nat) : Nat → Nat → Nat → List Nat
  | 0, _, _ => []
  | _ + 1, 0, _ => []
  | fuel + 1, n + 1, k => if used.contains k then lowestPages used fuel (n + 1) (k + 1) else k :: lowestPages used fuel n (k + 1)
/-- The next `n` pages handed out. -/
def Pool.take (p : Pool) (n : Nat) : List Nat :=
  let used := p.held ++ p.draining
  lowestPages used (n + used.length) n 0
/-- Need of a sequence, within its window (R126, R128). -/
def Seqn.need (q : Seqn) : Nat := min 65536 (poolNeed q.tokens q.grow q.perPage)
def Seqn.isLow (q : Seqn) : Bool := decide (q.pages.length < poolNeed q.tokens q.grow q.perPage)
def Seqn.unbacked (q : Seqn) : Bool := decide (q.pages.length < ceilDiv q.tokens q.perPage)

/-- Pool pages that uncommitted bound descriptors of a slice cover (R131). -/
def Fabric.poolRefs (f : Fabric) (s : Nat) : List Nat :=
  ((f.descsOf s).filter (fun e => e.2.stage == .bound)).flatMap (fun e => e.2.poolPages)

def Fabric.onPool (f : Fabric) (s : Nat) (g : Pool → Pool) : Fabric := f.onSlice s (fun x => { x with pool := g x.pool })

/-! ### Operations -/

/-- A pool operation of a queue. -/
structure PoolOp where
  q : Nat
  seq : BitVec 32
  order : Nat
  fn : Nat
  ctx : Nat
  raw : BitVec 512
  tag : Nat
  deferred : Bool
  ready : Option Nat
deriving DecidableEq, Repr

/-- Pending pool operations of a slice that have been read, in admission order: by fabric time of acceptance, then by queue
number, then in ring order (R129). -/
def Fabric.poolOps (f : Fabric) (s : Nat) : List PoolOp :=
  sortBy (·.order) (f.sqs.flatMap (fun e =>
    if e.2.slice = s then
      e.2.descs.filterMap (fun d =>
        let v := d.view e.2
        if v.kind = 4 && d.stage != .accepted && d.belay == .bound && d.ending.isNone then
          some { q := e.1, seq := d.seq, order := admissionKey d.acceptedAt e.1 d.order, fn := e.2.fn, ctx := v.ctx, raw := d.raw, tag := v.tag,
                 deferred := d.deferred, ready := if d.stage == .bound then d.readyAt else none }
        else none)
    else []))

/-- The operation waits for a step no longer: it completes with a status. -/
def Fabric.endPoolOp (f : Fabric) (o : PoolOp) (status : Nat) : Fabric := f.pass o.q o.seq status 0

/-- Action 1: draining pages without a reference are free again. -/
def Fabric.poolDrain (f : Fabric) (s : Nat) : Fabric :=
  let refs := f.poolRefs s
  f.onPool s (fun p => { p with draining := p.draining.filter (fun k => refs.contains k) })

/-- A live sequence leaves: its window is unmapped, referenced pages drain (R131). -/
def Fabric.leaveSeq (f : Fabric) (s n : Nat) : Fabric :=
  let refs := f.poolRefs s
  f.onPool s (fun p => match p.seqs.find n with
    | some q => { p with seqs := p.seqs.del n, draining := p.draining ++ q.pages.filter (fun k => refs.contains k) }
    | none => p)

/-- Action 2: a LEAVE withdraws earlier JOINs of its sequence that are still pending, and a live sequence leaves (R132). -/
def Fabric.poolLeave (f : Fabric) (s n order : Nat) : Fabric :=
  let joins := (f.poolOps s).filter (fun o => poolOp o.raw == 0 && poolSeq o.raw == n && decide (o.order < order))
  (joins.foldl (fun f o => (f.endWaiting o.q o.seq 2)) f).leaveSeq s n

/-- Action 3: an ADVANCE of a context. -/
def Fabric.poolAdvance (f : Fabric) (s fn ctx : Nat) : Fabric :=
  f.onPool s (fun p => { p with seqs := p.seqs.each (fun _ q =>
    if q.ctx == ctx && q.fn == fn then { q with tokens := q.tokens + q.grow } else q) })

/-- A sequence takes pages, and what parked on them is walked again (R189). -/
def Fabric.mapPages (f : Fabric) (s n want : Nat) : Fabric :=
  let p := (f.slice s).pool
  match p.seqs.find n with
  | none => f
  | some q =>
    let l := p.take (min want p.freeCount)
    if l.isEmpty then f
    else
      (f.onPool s (fun p => { p with seqs := p.seqs.onKey n (fun q => { q with pages := q.pages ++ l }) })).retrySpan s q.tag
        ((Config.apertureBase + n * 2 ^ 32) / 65536 + q.pages.length) l.length

/-- Action 4: top-ups in join order. -/
def Fabric.poolTopUps (f : Fabric) (s : Nat) : Fabric :=
  (sortBy (fun e => e.2.joinedAt) (f.slice s).pool.seqs).foldl (fun f e => f.mapPages s e.1 (e.2.need - e.2.pages.length)) f

/-- Action 5: one JOIN; the flag says that an earlier one has been deferred in this step. -/
def Fabric.poolJoin (s : Nat) (a : Fabric × Bool) (o : PoolOp) : Fabric × Bool :=
  let f := a.1
  let p := (f.slice s).pool
  let n := poolSeq o.raw
  let earlier := (f.poolOps s).any (fun k => poolOp k.raw == 0 && poolSeq k.raw == n && decide (k.order < o.order))
  if (p.seqs.find n).isSome || earlier then
    let rec? := match f.sq? o.q, f.desc? o.q o.seq with
      | some x, some d => some (descRec o.q x d srcQm (centralUnit srcQm) 0x0712 (BitVec.ofNat 192 n))
      | _, _ => none
    let f : Fabric := match rec? with | some r => f.raise r | none => f
    (f.endPoolOp o 3, a.2)
  else
    let need := poolNeed (poolTokens o.raw) (poolGrow o.raw) (poolPerPage o.raw)
    if a.2 || decide (p.freeCount < need) then (f.onDesc o.q o.seq (fun d => { d with deferred := true }), true)
    else
      let q : Seqn := { tag := o.tag, ctx := o.ctx, fn := o.fn, tokens := poolTokens o.raw, grow := poolGrow o.raw,
                        perPage := poolPerPage o.raw, joinedAt := p.joins }
      let f := f.onPool s (fun p => { p with seqs := p.seqs.put n q, joins := p.joins + 1 })
      ((f.mapPages s n need).endPoolOp o 0, false)

/-- Sequences that have become low are named to the slice's VFs once (R133). The rule does not say at what moment of a pool
step a sequence becomes low: the model looks at its end, so that a sequence which an ADVANCE makes low and a top-up of the same
step restores is not reported (DESIGN CHOICE). -/
def Fabric.poolLow (f : Fabric) (s : Nat) : Fabric :=
  let fresh := (f.slice s).pool.seqs.filter (fun e => e.2.isLow && !e.2.low)
  let f := fresh.foldl (fun f e => f.raise
    { source := srcQm, unit := centralUnit srcQm, cause := 0x0713, owners := [s],
      syndrome := syn3 e.1 e.2.pages.length (poolNeed e.2.tokens e.2.grow e.2.perPage) }) f
  f.onPool s (fun p => { p with seqs := p.seqs.each (fun _ q => { q with low := q.isLow }) })

/-- The step of one slice at a boundary: the first 256 eligible operations in admission order, implicit LEAVEs among
them; JOINs deferred earlier wait beside them (R129, R130). -/
def Fabric.poolStep (f : Fabric) (s at_ : Nat) : Fabric :=
  let ops := (f.poolOps s).filter (fun o => match o.ready with | some t => decide (t < at_) | none => false)
  let late := ops.filter (fun o => o.deferred)
  let implicit := (f.slice s).pool.leaves.map (fun l => (l.2, (none : Option PoolOp), l.1))
  let all := sortBy (fun e => e.1) (implicit ++ (ops.filter (fun o => !o.deferred)).map (fun o => (o.order, some o, poolSeq o.raw)))
  let now := all.take 256
  let f := f.onPool s (fun p => { p with leaves := ((all.drop 256).filter (fun e => e.2.1.isNone)).map (fun e => (e.2.2, e.1)) })
  let f := f.poolDrain s
  let f := now.foldl (fun f e => match e.2.1 with
    | none => f.poolLeave s e.2.2 e.1
    | some o => if poolOp o.raw = 1 then (f.poolLeave s e.2.2 e.1).endPoolOp o 0 else f) f
  let f := now.foldl (fun f e => match e.2.1 with
    | some o => if poolOp o.raw = 2 then (f.poolAdvance s o.fn o.ctx).endPoolOp o 0 else f
    | none => f) f
  let f := f.poolTopUps s
  let joins := late ++ (now.filterMap (fun e => e.2.1)).filter (fun o => poolOp o.raw == 0)
  let live (f : Fabric) (o : PoolOp) : Bool := (f.poolOps s).any (fun k => k.q == o.q && k.seq == o.seq)
  let a := joins.foldl (fun a o => if live a.1 o then Fabric.poolJoin s a o else a) (f, false)
  (a.1.poolLow s).settle

/-- IRX_KV_POOL_STATUS and IRX_KV_POOL_DRAIN as a boundary publishes them (R135). -/
def Fabric.publishPool (f : Fabric) (s : Nat) : Fabric :=
  let p := (f.slice s).pool
  let deferred := ((f.poolOps s).filter (fun o => o.deferred)).length
  let status := bf p.freeCount 36 28 + bf p.seqs.length 23 13 + b2n (p.seqs.any (fun e => e.2.isLow))
  let drain := bf p.draining.length 36 28 + bf (min 0xFFFF deferred) 20 16 + bf (min 0x7F (p.seqs.filter (fun e => e.2.unbacked)).length) 13 7
  f.onSlice s (fun x => { x with
    poolPub := if p.size = 0 then 0 else BitVec.ofNat 64 status, drainPub := if p.size = 0 then 0 else BitVec.ofNat 64 drain })

end Sys2Proof.Machine
end

