-- ==== Sys2Proof/Machine/Slots.lean ====
section
/-! DEFINITION. What happens to a slot in its frame: the slot-owner latch and the start (R89), the slack start (R116), the
end of the issue window (R94, R95), the end of the slot (R95, R101), and trims (R102). -/

namespace Sys2Proof.Machine

/-- Valid entries of a pattern of a bank that start at an offset. -/
def startingAt (b : Bank) (pat start : Nat) : List (Nat × Entry) :=
  (bankValid b).filter (fun e => entPattern e.2 == pat && entStart e.2 == start)

/-- The boundary at which a slice's L3 ends has come (R382). -/
def Slice.l3Over (x : Slice) (at_ : Nat) : Bool := x.state == .resetting && decide (x.resetFrom + 200000 ≤ at_)

/-! ### Slot-owner latches (R89) -/

/-- What a latch holds for an engine of an entry: its slice, or none where the slice is not ACTIVE or the engine is not
its own. -/
def Fabric.latchValue (f : Fabric) (e : Entry) (k : Nat) (active retiring : Bool) : Option Nat :=
  if active && !retiring && f.grants e (entSlice e) k then some (entSlice e) else none

/-- Load the latches of entries with the values that they have in `g`. -/
def Fabric.loadLatches (f g : Fabric) (l : List (Nat × Entry)) (active : Nat → Bool) (retiring : Nat → Bool) : Fabric :=
  l.foldl (fun f e => f.each (bitsOf (entEngines e.2)) (fun k f =>
    f.onEngine k (fun x => { x with nextLatch := some (g.latchValue e.2 k (active (entSlice e.2)) (retiring k)) }))) f
/-- The fabric with the amendments that are fixed for the coming boundary in force (R89). -/
def Fabric.withAmends (f : Fabric) (fx : Fixed) : Fabric :=
  f.each fx.amend (fun s g => if (f.amendFault (f.slice s) fx.retire).isNone then g.onSlice s f.amendedSlice else g)

/-- 200 ns before a slot starts. A start within 200 ns of the boundary is the next frame's: its latches follow the
outcomes that are fixed with them. -/
def Fabric.latchLoad (f : Fabric) (start : Nat) : Fabric :=
  if f.rs.frozen then f
  else if start < 200 then
    let at_ := f.nextBoundary
    let f := (f.advance (at_ + start - 200)).fixBoundary
    let fx := f.frame.fixed.getD { retire := [], switch := false, amend := [], activate := [] }
    let pat := if fx.switch then hdrPattern f.frame.shadowBank.header 0 else f.frame.patternAt ((f.frame.seqPos + 1) % f.frame.seqLen)
    let active (s : Nat) : Bool := f.isActive s || fx.activate.contains s || (f.slice s).l3Over at_
    f.loadLatches (f.withAmends fx) (startingAt (if fx.switch then f.frame.shadowBank else f.frame.bank) pat start) active
      (fun k => fx.retire.contains (unitId 0 0 k))
  else if f.frame.boundaryAt + start ≤ f.now then f
  else
    let f := f.advance (f.frame.boundaryAt + start - 200)
    f.loadLatches f (startingAt f.frame.bank f.frame.pattern start) f.isActive (fun _ => false)
def execSlotOwnerLatchLoad (start : Nat) (s : State) : Host.Outcome State Fault Refusal := s.run (fun f => f.latchLoad start)

/-! ### Slot start (R89, R100, R101) -/

/-- A tile of another slice still runs when a slot begins: an intrusion, recorded with both slices (R101). -/
def Fabric.intrude (f : Fabric) (k s : Nat) : Fabric :=
  match (f.engine k).running with
  | some r =>
    if r.slice = s then f
    else f.raise { source := srcFs, unit := unitId 0 0 k, cause := 0x0502, owners := [r.slice], syndrome := syn3 r.slice s 0 }
  | none => f

/-- A slot begins on an engine: the latch takes effect, and the slice's charge shortens the window (R89, R100). A slot
whose latch was not loaded takes the value of this moment. -/
def Fabric.beginOn (f : Fabric) (x : Slot) (e : Entry) (k : Nat) : Fabric :=
  let s := entSlice e
  let v := (f.engine k).nextLatch.getD (f.latchValue e k (f.isActive s) false)
  let window := f.windowEnd x 0 - x.start
  let f := f.onEngine k (fun g =>
    let c := g.charges.getD s 0
    let a := if v = some s then min c window else 0
    { g with latch := v, nextLatch := none, applied := a, charges := if c = a then g.charges.del s else g.charges.put s (c - a) })
  if v = some s then (f.intrude k s).startNext k 9 else f

/-- The slots of the present frame that begin at an offset and have not begun yet. -/
def Fabric.beginSlots (f : Fabric) (start : Nat) : Fabric :=
  if f.rs.frozen then f
  else
    let l := (startingAt f.frame.bank f.frame.pattern start).filter (fun e => !f.frame.begun.contains e.1)
    let f := f.onFrame (fun fr => { fr with begun := fr.begun ++ l.map (·.1) })
    l.foldl (fun f e =>
      let x := f.slotOf f.frame.boundaryAt e
      f.each (bitsOf (entEngines e.2)) (fun k f => f.beginOn x e.2 k)) f

/-- A slot starts; collective steps whose gang slot opens send (R295). -/
def Fabric.slotBegins (f : Fabric) (start : Nat) : Fabric :=
  ((f.advance (f.frame.boundaryAt + start)).beginSlots start).pumpAll.settle
def execSlotStart (start : Nat) (s : State) : Host.Outcome State Fault Refusal :=
  s.run (fun f => if f.rs.frozen then f else f.slotBegins start)

/-! ### An entry in the present frame -/

/-- A valid entry of the pattern that runs. -/
def Fabric.entryNow (f : Fabric) (i : Nat) : Option Entry :=
  let e := bankEntry f.frame.bank i
  if !f.rs.frozen && entValid e && entPattern e == f.frame.pattern then some e else none
/-- The engines that an entry grants now. -/
def Fabric.granted (f : Fabric) (e : Entry) : List Nat := (bitsOf (entEngines e)).filter (fun k => f.grants e (entSlice e) k)

/-- The slack start of an entry (R114, R116): from now on an armed slice starts only conditional instances there. Engines
that bear different charges reach it at different times: the command stands for the next that none has passed. -/
def Fabric.slackBegins (f : Fabric) (i : Nat) : Fabric :=
  match f.entryNow i with
  | none => f
  | some e =>
    let x := f.slotOf f.frame.boundaryAt (i, e)
    let from_ (k : Nat) : Nat := f.slackAt x (f.engine k).applied
    let l := (f.granted e).filter (fun k => !f.frame.slackSeen.contains (i, k))
    if l.isEmpty then f
    else
      let f := f.advance (leastOf (l.map from_))
      let here := (l.filter (fun k => decide (from_ k ≤ f.now))).map (fun k => (i, k))
      let hold := f.isActive (entSlice e) && f.isArmed (entSlice e)
      f.onFrame (fun fr => { fr with slackSeen := fr.slackSeen ++ here, slackRun := if hold then fr.slackRun ++ here else fr.slackRun })
def execSlackStart (entry : Nat) (s : State) : Host.Outcome State Fault Refusal := s.run (fun f => f.slackBegins entry)

/-! ### End of the issue window (R94, R95, R99) -/

/-- E on one engine: tiles that have not started are withdrawn and pre-emption begins, unless the next slot is
contiguous; the lateness of a running tile counts from E. -/
def Fabric.closeWindow (f : Fabric) (x : Slot) (s k : Nat) : Fabric :=
  let e := f.windowEnd x (f.engine k).applied
  let f := match (f.engine k).running with
    | some r => if r.slice = s then f.onEngine k (fun g => { g with lateFrom := if g.lateFrom = 0 then e else g.lateFrom }) else f
    | none => f
  if (f.slotNext s k x).isSome then f
  else
    let f := (f.withdraw k (fun r => r.slice == s)).settleHangs
    match (f.engine k).running with
    | some r => if r.slice = s && !r.nonPreempt then f.preempt k none else f
    | none => f

/-- E of an entry. Engines that bear different charges reach it at different times (R100): the command stands for the next
that none has passed. -/
def Fabric.windowEnds (f : Fabric) (i : Nat) : Fabric :=
  match f.entryNow i with
  | none => f
  | some e =>
    let x := f.slotOf f.frame.boundaryAt (i, e)
    let end_ (k : Nat) : Nat := f.windowEnd x (f.engine k).applied
    let l := (f.granted e).filter (fun k => !f.frame.closed.contains (i, k))
    if l.isEmpty then f
    else
      let f := f.advance (leastOf (l.map end_))
      let here := l.filter (fun k => decide (end_ k ≤ f.now))
      let f := (here.map (fun k => (i, k))).foldl Fabric.endSlack f
      let f := f.onFrame (fun fr => { fr with closed := fr.closed ++ here.map (fun k => (i, k)) })
      (f.each here (fun k f => f.closeWindow x (entSlice e) k)).settle
def execIssueWindowEnd (entry : Nat) (s : State) : Host.Outcome State Fault Refusal := s.run (fun f => f.windowEnds entry)

/-! ### End of the slot (R95, R101) -/

/-- The slot ends on one engine; whether its guard band is exhausted there. -/
def Fabric.closeSlot (f : Fabric) (x : Slot) (s k : Nat) : Bool × Fabric :=
  if (f.slotNext s k x).isSome then (false, f)
  else
    let f := (f.withdraw k (fun r => r.slice == s)).settleHangs
    match (f.engine k).running with
    | some r =>
      if r.slice ≠ s then (false, f)
      else
        let f := f.onLive s (fun c => { c with exhaust := (c.exhaust + 1) % 2 ^ 64 })
        let f := f.onEngine k (fun g => { g with running := g.running.map (fun r => { r with preempt := true }) })
        (true, if r.nonPreempt then f else f.abortRun k)
    | none => (false, f)

/-- What an entry's trim record keeps of a frame in which it ran (R102). -/
def Trim.after (t : Trim) (exhausted : Bool) : Trim :=
  { t with history := (exhausted :: t.history).take 16, clean := if exhausted then 0 else t.clean + 1 }

/-- S + L of an entry. A vacant entry did not run. -/
def Fabric.slotEnds (f : Fabric) (i : Nat) : Fabric :=
  match f.entryNow i with
  | none => f
  | some e =>
    if f.frame.ended.contains i then f
    else
      let x := f.slotOf f.frame.boundaryAt (i, e)
      let s := entSlice e
      let f := (f.advance x.stop).onFrame (fun fr => { fr with ended := fr.ended ++ [i] })
      let a := (f.granted e).foldl (fun (a : Bool × Fabric) k => let r := a.2.closeSlot x s k; (a.1 || r.1, r.2)) (false, f)
      let f := if a.2.isActive s then a.2.onFrame (fun fr => { fr with trims := fr.trims.upd i {} (fun t => t.after a.1) }) else a.2
      f.tryTests.settle
def execSlotEnd (entry : Nat) (s : State) : Host.Outcome State Fault Refusal := s.run (fun f => f.slotEnds entry)

/-! ### Trims (R102) -/

/-- An entry exhausted its band in 4 or more of its last 16 frames, and carries fewer than 4 steps. -/
def Trim.tooLate (t : Trim) : Bool := decide (4 ≤ (t.history.filter id).length) && decide (t.steps < 4)
/-- 64 frames in a row without exhaustion, with a step to restore. -/
def Trim.recovered (t : Trim) : Bool := decide (64 ≤ t.clean) && decide (0 < t.steps)

/-- One step of trim or of restoration of an entry, where it is due, with its NOTE to the slice's VFs. -/
def Fabric.trimEntry (f : Fabric) (i : Nat) : Fabric :=
  let t := f.frame.trims.getD i {}
  let s := entSlice (bankEntry f.frame.bank i)
  let note (cause : BitVec 16) (steps : Nat) (f : Fabric) : Fabric :=
    f.raise { source := srcFs, unit := centralUnit srcFs, cause := cause, owners := [s], syndrome := syn3 i steps 0 }
  let set (t : Trim) : Fabric := f.onFrame (fun fr => { fr with trims := fr.trims.put i t })
  if t.tooLate then note 0x0505 (t.steps + 1) (set { steps := t.steps + 1 })
  else if t.recovered then note 0x0506 (t.steps - 1) (set { t with steps := t.steps - 1, clean := 0 })
  else f

/-- The next boundary trims or restores an entry. A switch at that boundary has cleared every trim before (R70). -/
def Fabric.trimAtBoundary (f : Fabric) (i : Nat) : Fabric :=
  if f.rs.frozen || f.frame.switchNext then f else (f.advance f.nextBoundary).trimEntry i
def execSlotTrim (entry : Nat) (s : State) : Host.Outcome State Fault Refusal := s.run (fun f => f.trimAtBoundary entry)

end Sys2Proof.Machine
end

