-- ==== Sys2Proof/Machine/Boundary.lean ====
section
/-! DEFINITION. The frame boundary: the actions of R70 in their order, what the rules place after them, and the
figures that a boundary publishes. -/

namespace Sys2Proof.Machine

/-! ### Action 1 -/

/-- Tests that were postponed to the next frame may borrow again (R363). -/
def Fabric.freeTests (f : Fabric) : Fabric :=
  { f with engines := f.engines.each (fun _ e => { e with testHeld := false }) }
/-- Fabric time reaches the boundary; the frame number and the position in the sequence advance (R70). -/
def Fabric.beginFrame (f : Fabric) : Fabric :=
  let t := f.nextBoundary
  let f := f.advance t
  let f := f.frame.slackRun.foldl Fabric.endSlack f
  f.onFrame (fun fr => { fr with frameNum := (fr.frameNum + 1) % 2 ^ 48, seqPos := (fr.seqPos + 1) % max 1 fr.seqLen,
                                 boundaryAt := t, begun := [], ended := [], slackRun := [],
                                 slackSeen := [], closed := [], fixed := none }) |>.freeTests

/-! ### Action 2: retirements (R53, R54) -/

/-- The unit leaves the pool. What waits at a retired port leaves with it; chunks go by another port (R54, R291). -/
def Fabric.leavePool (f : Fabric) (u : BitVec 32) : Fabric :=
  let i := unitIdx u
  match unitType u with
  | 0 =>
    let req := (f.engine i).resetReq
    let f := f.onEngine i (fun e => { e with state := .retired, resetReq := none, resetWait := false })
    let f : Fabric := { f with slices := f.slices.each (fun _ x => if x.hasEngine i then { x with leftEngines := x.leftEngines ++ [i] } else x) }
    (f.unwatch i).replyOpt req (rep stAborted)
  | 1 => { f with units := { f.units with dmaRetired := f.units.dmaRetired ||| BitVec.ofNat 64 (2 ^ i) } }
  | 2 => { f with units := { f.units with degraded := f.units.degraded ||| BitVec.ofNat 16 (2 ^ i) } }
  | 4 =>
    let f : Fabric := { f with units := { f.units with portRetired := f.units.portRetired ||| BitVec.ofNat 32 (2 ^ i) } }
    ((f.onReg (16 + i) (fun g => { g with waiting := [] })).resendFrom i).breakUnreached
  | _ => f

/-- One retirement, with its ledger entry, its record and its reply (R53, R361, R428). -/
def Fabric.retireUnit (f : Fabric) (r : Retire) : Fabric :=
  let owners := f.unitOwners r.unit
  let f : Fabric := { f with units := { f.units with retiring := f.units.retiring.filter (fun t => t.unit != r.unit) } }
  let f := (f.leavePool r.unit).onLedger (fun l => { l with retired := if l.retired.contains r.unit then l.retired else l.retired ++ [r.unit] })
  let f := (f.ledgerPut (.retired r.unit)).raise
    { source := srcTm, unit := r.unit, cause := 0x0B04, owners := owners }
  f.replyOpt r.req (repOk)

def Fabric.retireDue (f : Fabric) (fx : Fixed) : Fabric :=
  (f.units.retiring.filter (fun r => fx.retire.contains r.unit)).foldl Fabric.retireUnit f

/-! ### Action 4: amendments (R64, R65) -/

def Fabric.applyAmend (f : Fabric) (s : Nat) : Fabric :=
  let x := f.slice s
  match x.amend with
  | none => f
  | some req =>
    match f.amendFault x [] with
    | some n => (f.onSlice s (fun x => { x with amend := none })).reply req (repCheck n)
    | none => (f.onSlice s f.amendedSlice).reply req (repOk [(0x20, 8, f.frame.frameNum)])
def Fabric.amendDue (f : Fabric) (fx : Fixed) : Fabric := f.each fx.amend (fun s f => f.applyAmend s)

/-! ### Action 5: activations (R63), ends of L3 (R382), and compensation for tests (R363) -/

/-- The slice becomes ACTIVE, and its doorbells are looked at again (R142). -/
def Fabric.becomeActive (f : Fabric) (s : Nat) : Fabric :=
  f.each (f.queuesOf (fun x => x.slice == s)) (fun q f => f.recheckTail q)

def Fabric.activateSlice (f : Fabric) (s : Nat) : Fabric :=
  match (f.slice s).activate with
  | some (req, _) =>
    ((f.onSlice s (fun x => { x with state := .active, activate := none })).becomeActive s).reply req (repOk [(0x20, 8, f.frame.frameNum)])
  | none => f

/-- A frame passes for a SLICE_ACTIVATE whose conditions do not hold; the 64th answers it TIMEOUT (R63). -/
def Fabric.awaitActive (f : Fabric) (s : Nat) : Fabric :=
  match (f.slice s).activate with
  | some (req, n) =>
    if n ≤ 1 then (f.onSlice s (fun x => { x with activate := none })).reply req (rep stTimeout)
    else f.onSlice s (fun x => { x with activate := some (req, n - 1) })
  | none => f

/-- L3 of a slice ends (R382): its reaction timer stops, and every SLICE_RESET that waited is answered. Its queues have been
open throughout, so no TAIL is looked at again (R142). -/
def Fabric.endL3 (f : Fabric) (s : Nat) : Fabric :=
  let reqs := (f.slice s).resetReq
  let f := f.onSlice s (fun x => { x with state := .active, resetReq := [], l3Engines := [] })
  let f := f.onFc (fun c => { c with timers := c.timers.del s })
  reqs.foldl (fun f r => f.reply r (repOk)) f

/-- The owner of a borrowed engine is compensated (R363). -/
def Fabric.compensate (f : Fabric) (k : Nat) : Fabric :=
  match (f.engine k).testComp with
  | some (s, ns) =>
    let f := f.onEngine k (fun e => { e with testComp := none, charges := e.charges.del s })
    let f := f.onFrame (fun fr => { fr with trims := fr.trims.filter (fun t =>
      let e := bankEntry fr.bank t.1
      !(entSlice e == s && bitAt (entEngines e) k)) })
    f.onSlice s (fun x => { x with testCredit := (x.testCredit + ns) % 2 ^ 32 })
  | none => f

def Fabric.activateDue (f : Fabric) (fx : Fixed) : Fabric :=
  let f := f.each fx.activate (fun s f => f.activateSlice s)
  let f := f.each (f.slices.keysOf (fun s x => x.activate.isSome && !fx.activate.contains s)) (fun s f => f.awaitActive s)
  let f := f.each (f.slices.keysOf (fun _ x => x.l3Over f.now)) (fun s f => f.endL3 s)
  f.each (f.engines.keysOf (fun _ e => e.testComp.isSome)) (fun k f => f.compensate k)

/-! ### Action 6: trims (R102), and the watch list (R254) -/

def Fabric.trimDue (f : Fabric) : Fabric := f.each (f.frame.trims.map (·.1)) (fun i f => f.trimEntry i)

/-- 600 s since its last cause and 1,024 clean checked executions (R254). -/
def Watch.done (w : Watch) (now : Nat) : Bool := w.on && decide (w.lastAt + 600000000000 ≤ now) && decide (1024 ≤ w.clean)
def Fabric.exitWatch (f : Fabric) (k : Nat) : Fabric := if (f.belay.watch.getD k {}).done f.now then f.unwatch k else f
def Fabric.watchDue (f : Fabric) : Fabric := f.each (f.belay.watch.map (·.1)) (fun k f => f.exitWatch k)

/-! ### Drag (R214, R215) -/

/-- The figures of an engine for a slice over one frame. A frame without active time clears no sum: what else it added carries
on (R214). `open_` fills the shares of a run that reports active cycles and took no time. -/
def Drag.close (d : Drag) (open_ : Word) : Drag :=
  let last := min 0xFFFF (d.busy * 256 / d.act)
  let pct (n i : Nat) : Nat := if d.busy = 0 then (open_.extractLsb' (8 * i) 8).toNat else 100 * n / d.busy % 256
  if d.act = 0 then { d with last := 0, memPct := 0, linkPct := 0, stallPct := 0, stretchPct := 0 }
  else
    { avg := if d.avg = 0 then last else ((d.avg : Int) + ((last : Int) - (d.avg : Int)).tdiv 16).toNat
      last := last, memPct := pct d.memNs 0, linkPct := pct d.linkNs 1, stallPct := pct d.stallNs 2
      stretchPct := pct d.stretchNs 3, noted := d.noted }

/-- One engine of a slice: its figures, and the NOTE of R215 with the slice-local engine and the value. -/
def Fabric.dragOf (f : Fabric) (s k : Nat) : Fabric :=
  let d := (f.slice s).drags.getD k {}
  let r := if d.act ≠ 0 ∧ d.busy = 0 then f.drawWord else (0, f)
  let n := d.close r.1
  let tell := decide (384 ≤ n.avg) && !n.noted
  let f := r.2.onSlice s (fun x => { x with drags := x.drags.put k { n with noted := decide (320 ≤ n.avg) && (n.noted || tell) } })
  if tell then
    f.raise { source := srcTm, unit := centralUnit srcTm, cause := 0x0714, owners := [s],
              syndrome := syn3 (idxOr (f.slice s).engines k) n.avg 0 }
  else f
def Fabric.dragAll (f : Fabric) (s : Nat) : Fabric := f.each ((f.slice s).drags.map (·.1)) (fun k f => f.dragOf s k)

/-! ### Publication (R99, R116, R135, R210, R212, R214, R277, R429) -/

/-- The counters of a slice as registers and telemetry show them until the next boundary; those of a slice that is being
removed stand still until FREE (R338). -/
def Fabric.publishSlice (f : Fabric) (s : Nat) : Fabric :=
  if leaving (f.slice s).state then f
  else
  let f := f.onSlice s (fun x => { x with
    seen := x.live, condNsPub := min 0xFFFFFFFF x.condNs, slackHeldPub := min 0xFFFFFFFF x.slackHeld, condNs := 0, slackHeld := 0 })
  (f.publishPool s).dragAll s

/-- The chip's figures (R429). -/
def Fabric.publishChip (f : Fabric) : Fabric :=
  let sums := (f.env.atSecond (f.now / 1000000000)).lastSums
  let held := f.cleat.throttleNs + (if f.throttled then f.now - f.cleat.droopFrom else 0)
  let fig : ChipFigures :=
    { powerMw := if sums.powerN = 0 then f.env.chipPub.powerMw else sums.powerSum * 1000 / sums.powerN
      temp := match f.env.temps.filterMap (·.2) with | [] => none | t :: l => some (l.foldl max t)
      volt := f.env.volt, droops := f.cleat.droopEventsAll, throttleUs := held / 1000 }
  f.onEnv (fun e => { e with chipPub := fig })

/-! ### What a boundary does beside R70 -/

/-- New audit windows take effect (R252). -/
def Fabric.auditDue (f : Fabric) (s : Nat) : Fabric :=
  let l := (f.slice s).auditNext
  l.foldl (fun f e => ((f.onSlice s (fun x => { x with auditLog2 := e.1 })).restartAudits s).reply e.2 (repOk))
    (f.onSlice s (fun x => { x with auditNext := [] }))

/-- A sync message, a pulse, or the count of a frame without a message (R75, R77, R78). -/
def Fabric.syncDue (f : Fabric) : Fabric :=
  let y := f.frame.sync
  match y.mode with
  | 1 => f.sendPort y.port (.sync f.now f.frame.frameNum f.frame.periodNs)
  | 3 => f.emit .syncOut
  | _ => f

/-- The port's frame with REPLAY or AUTH drops is recorded (R315). -/
def Fabric.dropDue (f : Fabric) (p : Nat) : Fabric :=
  (f.onKeys (fun k => { k with drops := k.drops.onKey p (fun d => { d with seen := false }) })).raise
    { source := srcPort p, unit := unitId 4 0 p, cause := 0x0801, owners := f.portOwners p }

/-- A chip number that waits takes effect (R280). -/
def Fabric.chipDue (f : Fabric) : Fabric :=
  match f.splice.chipNext with
  | some n => { f with splice := { f.splice with chip := n, chipNext := none } }
  | none => f

/-- Once-a-frame marks begin afresh, and the remainders no longer count what slices freed in the last frame held (R208, R211,
R461). -/
def Fabric.clearMarks (f : Fabric) : Fabric :=
  f.onCleat (fun c => { c with freed := [], regs := c.regs.each (fun _ g => { g with lateFrame := false }), droopNoted := false })

/-! ### Loss of sync input (R78) -/

/-- SYNC_LOCKED clears, with a record where it was set (R78), and the next step that starts is noted (R297). From now on the chip runs on its own fabric time, until input
steers it again. -/
def Fabric.unlock (f : Fabric) (syn : BitVec 192) : Fabric :=
  let was := f.frame.sync.locked
  let f := f.onSync (fun y => { y with locked := false, okFrames := 0, steerPpm := 0, unlockedNoted := y.unlockedNoted && !was })
  if was then f.raiseCentral srcFs 0x0503 [] syn else f

/-- A frame of a link follower that ends without a message; the fourth in a row unlocks it (R78). -/
def Fabric.missMessage (f : Fabric) : Fabric :=
  let n := f.frame.sync.missRun + 1
  let f := f.onSync (fun y => { y with missRun := n, missCnt := satAdd 16 y.missCnt 1, missed := true, okFrames := 0 })
  if n = 4 then f.unlock (syn3 1 0 0) else f
/-- The frame that ends is counted where it brought no message and has not been counted yet, and it counts toward the next
measurement of the path delay (R75). -/
def Fabric.countMissed (f : Fabric) : Fabric :=
  let y := f.frame.sync
  let f := if y.mode = 2 ∧ y.seen = false ∧ y.missed = false then f.missMessage else f
  f.onSync (fun y => { y with seen := false, missed := false, delayIn := y.delayIn - 1 })

/-! ### The boundary -/

/-- Everything after action 1, on a chip that is not frozen. -/
def Fabric.boundaryActions (f : Fabric) (fx : Fixed) : Fabric :=
  let all := f.slices.map (·.1)
  let f := f.retireDue fx
  let f := if fx.switch then f.applySwitch else f
  let f := ((f.amendDue fx).activateDue fx).trimDue.watchDue
  let f := f.each all (fun s f => f.updateCaps s)
  let f := f.beginSlots 0 |>.skipThirds
  let f := f.censusAll.revokeCensus
  let f := f.each (f.slicesIn (· == .active)) (fun s f => f.poolStep s f.now)
  let f := f.each all (fun s f => f.auditDue s)
  let f := f.each all (fun s f => f.publishSlice s)
  let f := f.publishChip.chipDue.applySyncSets.syncDue
  let f := f.each all (fun s f => f.writeReports s)
  let f := f.each (f.keys.drops.keysOf (fun _ d => d.seen)) (fun p f => f.dropDue p)
  f.clearMarks.tryTests.settleFlr.pumpAll.settle

/-- The boundary of a frozen chip. No tile issues and no packet's effect is due (R384, R421); what R70 leaves are retirements,
and until stage 4 resets the FS also trims and capability tables. A slice's L3 counts as complete at stage 4 (R389), so none
ends here. -/
def Fabric.frozenActions (f : Fabric) (fx : Fixed) : Fabric :=
  let f := f.retireDue fx
  let f := if f.rs.l4Stage ≤ 3 then f.trimDue.each (f.slices.map (·.1)) (fun s f => f.updateCaps s) else f
  let f := f.watchDue.chipDue.syncDue
  (f.each (f.keys.drops.keysOf (fun _ d => d.seen)) (fun p f => f.dropDue p)).clearMarks

/-- A frame boundary; at stage 10 of L4 it reinstates the frame table (R385). -/
def Fabric.boundary (f : Fabric) : Fabric :=
  let f := f.advance f.nextBoundary
  let fx := f.frame.fixed.getD { retire := [], switch := false, amend := [], activate := [] }
  let f := f.countMissed.beginFrame
  if f.rs.frozen then if f.atStage 10 then f.endL4.boundaryActions fx else f.frozenActions fx
  else f.boundaryActions fx

def execFrameBoundary (s : State) : Host.Outcome State Fault Refusal := s.run Fabric.boundary

/-- The 64th frame passes for a slice without its conditions: the next boundary answers TIMEOUT (R63). -/
def Fabric.activateLate (f : Fabric) (s : Nat) : Fabric :=
  match (f.slice s).activate with
  | some (_, n) =>
    if f.rs.frozen || decide (1 < n) then f
    else
      let f := f.advance f.nextBoundary
      if (f.frame.fixed.map (·.activate)).getD [] |>.contains s then f else f.awaitActive s
  | none => f
def execActivateTimeout (slice : Nat) (s : State) : Host.Outcome State Fault Refusal := s.run (fun f => f.activateLate slice)

/-- The boundary at which an engine leaves the watch list (R254). -/
def Fabric.watchExit (f : Fabric) (k : Nat) : Fabric :=
  if f.rs.frozen || !(f.belay.watch.getD k {}).done f.nextBoundary then f else (f.advance f.nextBoundary).exitWatch k
def execWatchListExit (k : Nat) (s : State) : Host.Outcome State Fault Refusal := s.run (fun f => f.watchExit k)

end Sys2Proof.Machine
end

