-- ==== Sys2Proof/Machine/Sync.lean ====
section
/-! DEFINITION. Alignment across chips: sync messages and the path delay on VL 7 (R75, R76, R78), and the FRAME_SYNC_IN
pin (R77). -/

namespace Sys2Proof.Machine

/-- No slice is ACTIVE and the follower has not taken the master's time: the next valid input is taken directly (R76). -/
def Fabric.mayStep (f : Fabric) : Bool := !f.frame.sync.adopted && (f.slicesIn (· == .active)).isEmpty

/-- A duration that began before a step of fabric time keeps its length. -/
def shiftTime (t old new : Nat) : Nat := (t + new) - old

/-- The follower takes the master's fabric time, boundary and frame number, with a NOTE of the old and new times (R76). -/
def Fabric.stepTime (f : Fabric) (time boundary frameNum : Nat) : Fabric :=
  let old := f.now
  let f := f.onFrame (fun fr => { fr with time := time, boundaryAt := boundary, frameNum := frameNum, fixed := none })
  let f := f.onRs (fun r => { r with hbAt := shiftTime r.hbAt old time, restart := r.restart.map (fun t => shiftTime t old time),
                                     reqAt := shiftTime r.reqAt old time })
  let f := f.onLedger (fun l => { l with flushAt := shiftTime l.flushAt old time, tokenAt := shiftTime l.tokenAt old time,
                                         stressAt := shiftTime l.stressAt old time })
  let f := f.onEnv (fun e => { e with askedAt := shiftTime e.askedAt old time, published := time / 1000000000 })
  let f := f.onFc (fun c => { c with sites := c.sites.each (fun _ t => { t with polledAt := shiftTime t.polledAt old time }) })
  (f.onSync (fun y => { y with adopted := true })).raiseCentral srcFs 0x0504 [] (syn3 old time 0)

/-- A measured offset: the register shows it, the rate is steered toward 0, at the limit of 100 ppm while SYNC_LOCKED is clear,
16 frames in a row within 50 ns set SYNC_LOCKED, and an offset above 1 µs clears it (R75, R78). `first` says that the frame had
no measurement before, `agrees` that the input names the local period. -/
def Fabric.takeOffset (f : Fabric) (offset : Int) (first agrees : Bool) : Fabric :=
  let r := f.drawWord
  let f := if 1000 < offset.natAbs then r.2.unlock (syn3 2 offset.natAbs 0) else r.2
  let near := agrees && decide (offset.natAbs ≤ 50)
  let ok := if near then f.frame.sync.okFrames + b2n first else 0
  let locked := f.frame.sync.locked || (near && decide (16 ≤ ok))
  let rate : Int := if locked then r.1.toNat % 101 else 100
  let steer : Int := if 0 < offset then rate else if offset < 0 then -rate else 0
  f.onSync (fun y => { y with offset := offset, steerPpm := steer, okFrames := ok, locked := locked })

/-! ### Link follower (R75, R76, R78) -/

/-- A valid message of the master. -/
def Fabric.followMessage (f : Fabric) (masterTime frameNum period : Nat) : Fabric :=
  let y := f.frame.sync
  let at_ := masterTime + y.pathDelay
  let first := !y.seen
  let f := if f.mayStep then f.stepTime at_ masterTime frameNum else f.onSync (fun y => { y with adopted := true })
  let f := f.onSync (fun y => { y with seen := true, missRun := 0 })
  let agrees := decide (period = f.frame.periodNs)
  let f := if agrees then f else f.unlock (syn3 3 period 0)
  f.takeOffset ((at_ : Int) - (f.now : Int)) first agrees

def Fabric.takeSync (f : Fabric) (u : LinkUnit) (masterTime frameNum period : Nat) : Fabric :=
  let r := f.ingress u
  if r.1 = some wireCluster ∧ f.frame.sync.mode = 2 ∧ u.port = f.frame.sync.port then
    r.2.followMessage masterTime (frameNum % 2 ^ 48) period
  else r.2
def execSyncMessage (u : LinkUnit) (masterTime frameNum period : Nat) (s : State) : Host.Outcome State Fault Refusal :=
  s.run (fun f => f.takeSync u masterTime frameNum period)

/-- Every 1,024 frames, and first when it enters the mode, a link follower asks for the path delay; the master answers, and
half the round trip is taken (R75). -/
def Fabric.askDelay (f : Fabric) : Fabric :=
  let y := f.frame.sync
  if y.mode = 2 ∧ y.delayIn = 0 then
    (f.onSync (fun y => { y with delayIn := 1024, delayAsked := true })).sendPort y.port .delayRequest
  else f
def execPathDelayMeasure (s : State) : Host.Outcome State Fault Refusal := s.run Fabric.askDelay
def Fabric.answerDelay (f : Fabric) (port : Nat) : Fabric :=
  if f.frame.sync.mode = 1 ∧ port = f.frame.sync.port then f.sendPort port .delayResponse else f
def execPathDelayRequest (u : LinkUnit) (s : State) : Host.Outcome State Fault Refusal := s.run (fun f => f.fromPeer u (·.answerDelay u.port))
def Fabric.takeDelay (f : Fabric) (roundTrip : Nat) : Fabric :=
  let y := f.frame.sync
  if y.mode = 2 ∧ y.delayAsked = true then f.onSync (fun y => { y with pathDelay := roundTrip / 2, delayAsked := false }) else f
def execPathDelayResponse (m : Arrival Nat) (s : State) : Host.Outcome State Fault Refusal :=
  s.run (fun f => f.fromPeer m.unit (·.takeDelay m.body))

/-- The frame ends without a message: it is counted, and the fourth in a row clears SYNC_LOCKED (R78). -/
def Fabric.noMessage (f : Fabric) : Fabric :=
  let y := f.frame.sync
  if y.mode = 2 ∧ y.seen = false ∧ y.missed = false then (f.advance f.nextBoundary).missMessage else f
def execSyncMessageMissing (s : State) : Host.Outcome State Fault Refusal := s.run Fabric.noMessage

/-! ### Pin follower (R77, R78) -/

/-- The predicted boundary nearest to a moment. -/
def Fabric.nearBoundary (f : Fabric) (t : Nat) : Nat := if t ≤ f.frame.boundaryAt + f.frame.periodNs / 2 then f.frame.boundaryAt else f.nextBoundary

/-- A pin follower's first accepted edge while a slice is ACTIVE: fabric time is not stepped, but the frame that the edge begins
takes the number that FRAME_SYNC_SET named (R77). An edge that comes before its local boundary names the coming frame. -/
def Fabric.adoptFrame (f : Fabric) (b : Nat) : Fabric :=
  let n := f.frame.sync.adopt
  (f.onFrame (fun fr => { fr with frameNum := if b = fr.boundaryAt then n else (n + (2 ^ 48 - 1)) % 2 ^ 48 })).onSync
    (fun y => { y with adopted := true })
/-- A rising edge of FRAME_SYNC_IN, with the length of its high pulse. -/
def Fabric.pinEdge (f : Fabric) (highNs : Nat) : Fabric :=
  let y := f.frame.sync
  if y.mode ≠ 4 ∨ highNs < 8 then f
  else
    let m := f.now - y.pinDelay
    let b := f.nearBoundary m
    if f.mayStep then (f.stepTime (b + y.pinDelay) b y.adopt).onSync (fun y => { y with window := some b, missRun := 0 })
    else if b + 200 < m ∨ m + 200 < b then f.onSync (fun y => { y with glitchCnt := satAdd 16 y.glitchCnt 1 })
    else
      let f := if y.adopted then f else f.adoptFrame b
      (f.onSync (fun y => { y with window := some b, missRun := 0 })).takeOffset ((b : Int) - (m : Int)) (y.window != some b) true
def execFrameSyncInEdge (highNs : Nat) (s : State) : Host.Outcome State Fault Refusal := s.run (fun f => f.pinEdge highNs)

/-- The window of a predicted boundary closes without an edge; the third in a row clears SYNC_LOCKED (R77, R78). -/
def Fabric.missWindow (f : Fabric) : Fabric :=
  let y := f.frame.sync
  let b := f.nearBoundary f.now
  if y.mode ≠ 4 ∨ y.window = some b then f
  else
    let f := (f.advance (b + 200 + y.pinDelay)).onSync (fun y =>
      { y with missCnt := satAdd 16 y.missCnt 1, missRun := y.missRun + 1, window := some b, okFrames := 0 })
    if f.frame.sync.missRun = 3 then f.unlock (syn3 4 0 0) else f
def execSyncWindowMiss (s : State) : Host.Outcome State Fault Refusal := s.run Fabric.missWindow

end Sys2Proof.Machine
end

