-- ==== Sys2Proof/Machine/Telemetry.lean ====
section
/-! DEFINITION. The telemetry packets (R429): figures as of the last boundary. -/

namespace Sys2Proof.Machine

def rowTmGuard : Row :=
  { pf := true, vf := true, slice := true,
    body := fun p _ f =>
      let c := (f.slice (pslice p)).seen
      (f, some (repOk [(0x20, 8, c.guardStall), (0x28, 8, c.guardStretch), (0x30, 8, c.overrun), (0x38, 8, c.exhaust)])) }

/-- The resource that a sender names: the PF and the operator by the index of R216, a VF by the slice-local index of a
stack or port; 48 is the host port. -/
def Slice.resource (x : Slice) (path : Path) (n : Nat) : Option Nat :=
  match path with
  | .mailbox _ => some n
  | .fn 0 => some n
  | .fn _ => if n < 16 then x.stackList[n]? else if n < 48 then (x.ports[n - 16]?).map (· + 16) else some n

def rowTmResource : Row :=
  { pf := true, vf := true, slice := true, params := [(0x18, 1), (0x19, 1)],
    range := fun f p => decide (pfield p 0x18 1 ≤ 48) && decide (pfield p 0x19 1 ≤ 7)
      && (((f.slice (pslice p)).resource p.path (pfield p 0x18 1)).map (heldBy (f.slice (pslice p)))).getD false,
    body := fun p _ f =>
      let x := f.slice (pslice p)
      let r := (x.resource p.path (pfield p 0x18 1)).getD 0
      let k := r * 8 + pfield p 0x19 1
      let short := if regKind r = 1 then x.seen.shortfall.getD k 0 / 65536 else 0
      (f, some (repOk [(0x20, 8, x.seen.bytes.getD k 0), (0x28, 8, short), (0x30, 4, minOf x r)])) }

/-- A figure whose sensor is not valid has no stated value. -/
def rowTmChip : Row :=
  { pf := true,
    body := fun _ _ f =>
      let g := f.env.chipPub
      let w := f.drawWord
      let temp := match g.temp with | some t => (BitVec.ofInt 16 t).toNat | none => w.1.toNat % 65536
      let volt := match g.volt with | some v => v | none => w.1.toNat / 65536 % 65536
      (if g.temp.isSome ∧ g.volt.isSome then f else w.2,
        some (repOk [(0x20, 4, g.powerMw), (0x24, 2, temp), (0x26, 2, volt), (0x28, 4, g.droops), (0x2C, 4, g.throttleUs)])) }

/-- TM_GUARD. -/
def execTmGuard (p : Packet) (s : State) : Host.Outcome State Fault Refusal := s.run (control rowTmGuard p)
/-- TM_RESOURCE. -/
def execTmResource (p : Packet) (s : State) : Host.Outcome State Fault Refusal := s.run (control rowTmResource p)
/-- TM_CHIP. -/
def execTmChip (p : Packet) (s : State) : Host.Outcome State Fault Refusal := s.run (control rowTmChip p)

end Sys2Proof.Machine
end

