-- ==== Sys2Proof/Machine/Flags.lean ====
section
/-! DEFINITION. The words of the status and counter registers, formed from the state as their field maps say. -/

namespace Sys2Proof.Machine

/-- A word from numbers that are already in their places. -/
def wd (l : List Nat) : Word := BitVec.ofNat 64 l.sum

/-! ### Queues, fences and rings of a function (R165, R370, R432, R343) -/

def Fabric.sqOf (f : Fabric) (fn j : Nat) : Option Sq := ((f.fn fn).sqs.find j).bind f.sq?
def Fabric.sqPos0 (f : Fabric) (fn j : Nat) : Word :=
  match f.sqOf fn j with | some q => wd [bf q.tail.toNat 32 32, q.accepted.toNat] | none => 0
def Fabric.sqPos1 (f : Fabric) (fn j : Nat) : Word :=
  match f.sqOf fn j with | some q => wd [bf q.issue.toNat 32 32, q.commit.toNat] | none => 0
def Fabric.sqStatus (f : Fabric) (fn j : Nat) : Word :=
  match f.sqOf fn j with
  | some q => wd [bf q.dbErr 48 16, bf q.dbShut 32 16, bf q.formErr 16 16, bf q.cq 8 8, bf (if q.state = 0 then 0 else q.gen) 4 2, bf q.state 0 2]
  | none => if j = 0 then wd [bf (f.fn fn).dbShut0 32 16] else 0
def Fabric.cqStatus (f : Fabric) (fn k : Nat) : Word :=
  match f.cq? fn k with
  | some c => wd [bf c.tail.toNat 32 32, bf c.fullStall 16 16, bf (b2n c.headErr) 2 1, bf (b2n (decide ((c.tail - c.head).toNat = 2 ^ c.log2))) 1 1,
      b2n (c.tail.toNat / 2 ^ c.log2 % 2 == 0)]
  | none => 0
def Fabric.fenceWord (f : Fabric) (fn n : Nat) : Word :=
  let x := (f.fn fn).fences.getD n {}
  wd [bf (b2n x.error) 63 1, bf (b2n x.irqEn) 62 1, bf x.vector 56 6, x.value.toNat]
def Ring.word (r : Ring) : Word := wd [bf r.addr 12 52, bf r.log2 8 4, bf r.vector 2 6, b2n r.enable]
def Fabric.faultPos (f : Fabric) (fn : Nat) : Word :=
  let r := (f.fn fn).faultRing
  wd [bf r.tail.toNat 32 32, bf r.lost 16 16, b2n r.headErr]
/-- The BUSY responder is enabled: from the release of reset to the first heartbeat, in a restart and in an L4 (R31, R419,
R453). -/
def Fabric.busyOn (f : Fabric) : Bool := !f.inReset && !f.coresUp
def Fabric.ctlStatus (f : Fabric) (fn : Nat) : Word :=
  let x := f.fn fn
  wd [bf x.ctlRing.tail.toNat 32 32, bf x.ctlRing.lost 16 16, bf (min 16 x.intake.length) 8 5, bf (b2n x.ctlRing.headErr) 2 1,
    bf (b2n (!x.waiting.isEmpty)) 1 1, b2n f.busyOn]

/-! ### Slices (R135, R200, R277, R210, R216, R343, R370) -/

def Fabric.condStats (f : Fabric) (s : Nat) : Word :=
  let x := f.slice s
  if x.state == .free then 0 else wd [bf x.condNsPub 32 32, bf x.slackHeldPub 0 32]
def Fabric.poolStatus (f : Fabric) (s : Nat) : Word := if (f.slice s).state == .free then 0 else (f.slice s).poolPub
def Fabric.poolDrainWord (f : Fabric) (s : Nat) : Word := if (f.slice s).state == .free then 0 else (f.slice s).drainPub
def Fabric.xlateStatus (f : Fabric) (s : Nat) : Word :=
  wd [bf (f.slice s).tu.walkReads 32 32, bf (min 0xFFFF (f.parkedCount s)) 16 16, bf (f.slice s).tu.faults.length 0 5]
def Fabric.wgRefused (f : Fabric) (s : Nat) : Word :=
  wd ((f.slice s).tu.windowCnt.zipIdx.map (fun e => bf e.1 (48 - 12 * e.2) 12))
def Fabric.belayCtrl (f : Fabric) (s : Nat) : Word := wd [bf (f.slice s).auditLog2 0 5]
def Fabric.belayStats0 (f : Fabric) (s : Nat) : Word := wd [bf (f.slice s).seen.checked 32 32, bf (f.slice s).seen.extraRuns 0 32]
def Fabric.belayStats1 (f : Fabric) (s : Nat) : Word :=
  let c := (f.slice s).seen
  wd [bf (min 0xFFFF c.arbitrations) 48 16, bf (min 0xFFFF c.heldCnt) 32 16, bf (min 0xFFFF c.unverified) 16 16, bf (min 0x7FFF c.mismatch) 1 15, b2n c.sameEngine]
def Fabric.belayStats2 (f : Fabric) (s : Nat) : Word := wd ((f.slice s).seen.trig.zipIdx.map (fun e => bf e.1 (54 - 10 * e.2) 10))
def Fabric.exposureWord (f : Fabric) (s : Nat) : Word :=
  wd [bf (f.slice s).exposure 32 32, bf (f.slice s).packages 16 16, bf (f.keysInstalled s) 0 16]
def Fabric.testStatus (f : Fabric) (s : Nat) : Word :=
  let x := f.slice s
  wd [bf x.testCredit 32 32, bf x.testsRun 16 16, bf x.testFails 8 8, bf x.testPostponed 0 8]
def counterAt (l : List Nat) (c : Nat) : Word := BitVec.ofNat 64 (l.getD c 0)
def Fabric.dragWord (f : Fabric) (s k : Nat) : Word :=
  let x := f.slice s
  let d := x.drags.getD k {}
  if x.hasEngine k then wd [bf d.avg 48 16, bf d.last 32 16, bf d.memPct 24 8, bf d.linkPct 16 8, bf d.stallPct 8 8, bf d.stretchPct 0 8] else 0

/-! ### Regulators (R216, R213) -/

/-- A resource that the module has. -/
def Fabric.resPresent (f : Fabric) (r : Nat) : Bool :=
  match regKind r with
  | 0 => f.stackIn r
  | 1 => bitAt f.units.portPresent (r - 16)
  | 2 => true
  | _ => false
def Fabric.cleatCfg (f : Fabric) (r : Nat) : Word :=
  let st := match regKind r with
    | 0 => if bitAt f.units.degraded r then 2 else 1
    | 1 => if bitAt f.units.portRetired (r - 16) then 3 else 1
    | _ => 1
  if !f.resPresent r then 0
  else wd [bf (regPool r) 48 16, bf (regLat r) 36 12, bf (regFabCred r) 24 12, bf (f.ratedOf r) 12 12, bf (regFabRate r) 4 8, bf (regKind r) 2 2, st]
def Fabric.cleatMin (f : Fabric) (s r : Nat) : Word :=
  let x := f.slice s
  if !f.resPresent r || !heldBy x r then 0
  else wd [bf (minCredits x r) 32 16, bf (weightOf x) 24 8, bf (b2n (recRealtime x.record && regKind r != 2)) 13 1, bf (b2n (recSealed x.record)) 12 1,
    bf (minOf x r) 0 12]
def Fabric.cleatStatus (f : Fabric) (r : Nat) : Word :=
  let g := f.reg r
  if !f.resPresent r then 0
  else wd [bf g.out.length 48 16, bf ((dirsOf r).map (g.heldRem r)).sum 32 16, bf g.late 16 16, b2n (f.throttled && regKind r != 2)]
def Fabric.droopStatus (f : Fabric) : Word :=
  let ns := f.cleat.throttleNs + (if f.throttled then f.now - f.cleat.droopFrom else 0)
  wd [bf (ns / 1000) 32 32, bf f.cleat.droopEvents 16 16, bf 0x32 8 8, b2n f.throttled]

/-! ### CAU and Belay (R243, R277) -/

def Fabric.cauStatus (f : Fabric) : Word :=
  let c := f.cau
  wd [bf c.arbCnt 48 16, bf c.mismatchCnt 32 16, bf c.uncheckedCnt 16 16, bf (min 0xFF (c.jobs.filter (fun j => j.lane.isNone)).length) 8 8,
    bf (b2n c.keyLoaded) 4 1, (ofBits 4 (c.jobs.filterMap (·.lane))).toNat]
def Fabric.cauCounts (f : Fabric) : Word := wd [bf f.cau.projCnt 32 32, bf (f.cau.digestBytes / 2 ^ 20) 0 32]
/-- A descriptor whose own check or an instance's check is in progress. -/
def Desc.inCheck (d : Desc) : Bool := d.belay == .checking || d.insts.any (fun i => i.2.belay == .checking)
def Fabric.belayStatus (f : Fabric) : Word :=
  wd [bf ((f.slices.map (fun x => x.2.uncommitted)).sum) 47 17, bf (f.belay.watch.filter (fun w => w.2.on)).length 38 9,
    bf (min 0xFFFF (f.allDescs.filter (fun e => e.2.inCheck)).length) 22 16]
def Fabric.watchWord (f : Fabric) (k : Nat) : Word :=
  let w := f.belay.watch.getD k {}
  wd [bf w.confirmed 48 16, bf (min 0xFFFF w.clean) 32 16, bf (if w.cause = 0 then 0 else min 0xFFFFF ((f.now - w.lastAt) / 1000000000)) 12 20,
    bf w.cause 4 4, b2n w.on]
def Fabric.replicaWord (f : Fabric) (n : Nat) : Word := wd [bf (f.replica n).result 32 4, bf (f.replica n).states 0 32]
def Fabric.digestWord (f : Fabric) (n m w : Nat) : Word := (((f.replica n).members.getD m {}).digest).extractLsb' (64 * w) 64

/-! ### Translation and windows (R200) -/

def Fabric.astagWord (f : Fabric) (n : Nat) : Word :=
  match f.tag? n with
  | some t => wd [bf t.epoch.toNat 32 32, bf t.fn 24 8, bf t.slice 18 6, bf (b2n t.accEn) 17 1, bf (b2n t.parkEn) 16 1, bf t.timeoutMs 6 10, 1]
  | none => 0
def Fabric.mapqPos (f : Fabric) (s : Nat) : Word := wd [bf (f.slice s).tu.applied.toNat 32 32, (f.slice s).tu.retired.toNat]
def Fabric.mapqStatus (f : Fabric) (s : Nat) : Word :=
  let u := (f.slice s).tu
  wd [bf u.dbErr 48 16, bf u.pendingAcks 43 5, bf (f.tableFrames s) 28 15, b2n u.stalled]
def Fabric.windowWord (f : Fabric) (w : Nat) : Word :=
  let x := f.window w
  if x.state = 0 then 0 else wd [bf x.reqCnt 32 32, bf x.slice 16 6, bf x.tag 4 12, bf (b2n x.scratch) 3 1, bf x.state 0 2]

/-! ### Splice (R302, R280) -/

def Fabric.spliceAlu (f : Fabric) (p : Nat) : Word :=
  let used := (f.slices.map (fun e => f.pairUsed p e.1)).sum
  let held := (f.splice.groups.map (fun e => (e.2.sent.filter (fun c => c.port / 2 == p)).length)).sum
  wd [bf (ceilDiv used 1024) 52 12, bf (f.splice.aluCrcErr.getD p 0) 36 16, bf (f.splice.aluWait.getD p 0) 20 16, min 0xFF held]
def Fabric.chipNumWord (f : Fabric) : Word := wd [bf (b2n f.splice.chipNext.isSome) 16 1, bf f.splice.chip 0 16]

/-! ### Security (R343) -/

def Fabric.keySlotWord (f : Fabric) (n : Nat) : Word :=
  let k := f.keys.mem.getD n {}
  wd [bf k.keyId.toNat 32 32, bf k.slice 26 6, bf k.selector 17 9, bf k.kind 14 3, bf k.state 0 2]
def Fabric.linkKeyWord (f : Fabric) (n : Nat) : Word :=
  let k := f.keys.links.getD n {}
  wd [bf k.tag.toNat 48 16, bf k.slice 42 6, bf k.loc 32 10, bf k.state 0 2]
def Fabric.linkDropWord (f : Fabric) (p : Nat) : Word :=
  let d := f.keys.drops.getD p {}
  wd [bf d.len 54 10, bf d.crc 44 10, bf d.unknown 34 10, bf d.removed 24 10, bf d.replay 14 10, bf d.auth 4 10, bf (f.keys.hop.getD p 0) 0 2]
/-- Control-key registers that are loaded (R342, R343). -/
def Fabric.ctlKeys (f : Fabric) : List Nat := (f.ctl.sessions.filter (fun s => !s.keyLost)).map (·.place)
def Fabric.secStatus (f : Fabric) : Word :=
  wd [bf f.keys.tapExposure 32 32, (ofBits 4 (f.keys.dbg.map (·.1))).toNat * 256, bf (ofBits 2 f.ctlKeys).toNat 6 2, bf (b2n f.tapOpen) 5 1,
    bf (b2n (f.keys.cluster == 1)) 4 1, bf (b2n (!f.keys.imports.isEmpty)) 3 1, bf (f.keys.imports.length - 1) 0 3]
def Fabric.removalWord (f : Fabric) (s : Nat) : Word :=
  let x := f.slice s
  wd [bf x.revokedRecs 48 16, bf x.revokedLost 32 16, bf x.peerDrops 16 16, bf x.phase 1 3, b2n x.zero]
def Fabric.envWord (f : Fabric) : Word :=
  let e := f.env
  wd [bf e.updateSeq 48 16, bf (b2n e.invalid) 33 1, bf (b2n e.frozen) 32 1, bf e.powerW 16 16, (BitVec.ofInt 16 e.tempC).toNat]

/-! ### Faults and the ledger (R370) -/

def Fabric.fcStatus (f : Fabric) : Word :=
  let c := f.fc
  wd [bf c.recordSeq.toNat 32 32, bf c.operLost 16 16, bf (min 0xFF c.queue.length) 8 8, bf (b2n c.inject.isSome) 4 1,
    bf (b2n c.terminalSeen) 3 1, bf c.pinClass 1 2, b2n c.errOut]
def Fabric.histPtr (f : Fabric) : Word := wd [bf (b2n f.fc.first.isSome) 7 1, bf f.fc.hist.length 0 7]
def recWord (r : Option FRec) (w : Nat) : Word := match r with | some r => r.image.extractLsb' (64 * w) 64 | none => 0
def Rule.word (u : Rule) : Word :=
  wd [bf u.windowMs 32 32, bf u.cause.toNat 16 16, bf u.unitType 12 4, bf (u.n - 1) 8 4, bf u.action 5 3, bf (b2n u.persist) 4 1, b2n u.valid]
def Fabric.lanyardWord (f : Fabric) (p : Nat) : Word :=
  let t := f.site p
  wd [bf t.brokenCnt 48 16, bf t.lostCnt 32 16, bf (if f.rs.boot == .held || f.rs.boot == .fuses then 0 else t.lanyard) 0 2]
def Fabric.ledgerWord (f : Fabric) : Word :=
  let l := f.ledger
  wd [bf (l.stress / 1440000) 32 32, bf (min 0xFF l.buffer.length) 24 8, bf l.tokens 19 5, bf (b2n l.ioError) 3 1, bf (b2n l.life95) 2 1,
    bf (b2n l.life80) 1 1, b2n l.valid]
def Fabric.mboxWord (f : Fabric) : Word :=
  wd [bf f.ctl.authFail 48 16, bf f.ctl.stale 32 16, bf f.ctl.drop 16 16, bf (min 16 f.ctl.mailbox.length) 8 5, bf f.ctlKeys.length 0 2]

end Sys2Proof.Machine
end

