-- ==== Sys2Proof/Machine/Registers.lean ====
section
/-! DEFINITION. The register map (R433 to R447): where each register lies in the PF's and in a VF's space, reads with
their RC fields, writes, the enable-locked rings, and the ring window. -/

namespace Sys2Proof.Machine

/-! ### Places -/

/-- A run of equally spaced words: base, number of places of 8 bytes, and what stands at a place. -/
structure Area (α : Type) where
  base : Nat
  places : Nat
  at_ : Nat → α

/-- What the area that covers an offset holds there. -/
def lookArea {α : Type} (l : List (Area α)) (none_ : α) (o : Nat) : α :=
  match l.find? (fun a => decide (a.base ≤ o) && decide (o < a.base + 8 * a.places)) with
  | some a => a.at_ ((o - a.base) / 8)
  | none => none_

/-- Word of the common page (R441). -/
def Fabric.commonWord (f : Fabric) (pf : Bool) (i : Nat) : Word :=
  match i with
  | 0 => BitVec.ofNat 64 f.now
  | 1 => f.frameStatusWord
  | 2 => f.envWord
  | 3 => f.recoveryWord pf
  | _ => 0
/-- Chip register (R441). -/
def Fabric.chipWord (f : Fabric) (i : Nat) : Word :=
  match i with
  | 0 => f.frameCtrlWord
  | 1 => f.syncCtrlWord
  | 2 => f.syncStatusWord
  | 3 => f.droopStatus
  | 4 => f.cauStatus
  | 5 => f.cauCounts
  | 6 => f.belayStatus
  | 7 => f.fcStatus
  | 8 => f.histPtr
  | 9 => f.ledgerWord
  | 10 => f.secStatus
  | 11 => f.mboxWord
  | 12 => f.heartbeatWord
  | 13 => f.trayWord
  | 14 => f.dumpWord
  | 15 => f.chipNumWord
  | _ => 0
/-- Word of a group's block (R442). -/
def Fabric.groupWord (f : Fabric) (i : Nat) : Word :=
  match i % 4 with
  | 0 => f.spliceGrp (i / 4)
  | 1 => f.spliceStep (i / 4)
  | 2 => f.spliceLag (i / 4)
  | _ => f.spliceWait (i / 4)

/-- Word of a slice block (R443). A VF numbers the engines of IRX_DRAG as its slice does. -/
def Fabric.sliceWord (f : Fabric) (s : Nat) (pf : Bool) (o : Nat) : Word :=
  let drag (n : Nat) : Word := if pf then f.dragWord s n else match (f.slice s).engines[n]? with | some k => f.dragWord s k | none => 0
  let seen := (f.slice s).seen
  lookArea
    [⟨0x0000, 512, fun i => f.capWord s (8 * i)⟩, ⟨0x1000, 1, fun _ => f.slotTrimWord s⟩, ⟨0x1008, 1, fun _ => f.condStats s⟩,
     ⟨0x1010, 1, fun _ => f.poolStatus s⟩, ⟨0x1018, 1, fun _ => f.poolDrainWord s⟩, ⟨0x1020, 1, fun _ => f.xlateStatus s⟩,
     ⟨0x1028, 1, fun _ => f.wgRefused s⟩, ⟨0x1030, 1, fun _ => f.belayCtrl s⟩, ⟨0x1038, 1, fun _ => f.belayStats0 s⟩,
     ⟨0x1040, 1, fun _ => f.belayStats1 s⟩, ⟨0x1048, 1, fun _ => f.belayStats2 s⟩, ⟨0x1050, 1, fun _ => f.exposureWord s⟩,
     ⟨0x1058, 1, fun _ => f.testStatus s⟩, ⟨0x1060, 1, fun _ => f.resetCountsWord s⟩, ⟨0x1100, 8, counterAt seen.bwMem⟩,
     ⟨0x1140, 8, counterAt seen.bwLink⟩, ⟨0x1180, 8, counterAt seen.bwHost⟩, ⟨0x2000, 256, drag⟩] 0 o

/-- Word of a function block (R444); WO registers read 0. -/
def Fabric.fnWord (f : Fabric) (n o : Nat) : Word :=
  let sq (i : Nat) : Word := match i % 4 with
    | 1 => f.sqPos0 n (i / 4)
    | 2 => f.sqPos1 n (i / 4)
    | 3 => f.sqStatus n (i / 4)
    | _ => 0
  lookArea
    [⟨0x0000, 256, sq⟩, ⟨0x0800, 128, fun i => if i % 2 = 1 then f.cqStatus n (i / 2) else 0⟩, ⟨0x1000, 1, fun _ => (f.fn n).faultRing.word⟩,
     ⟨0x1010, 1, fun _ => f.faultPos n⟩, ⟨0x1018, 1, fun _ => (f.fn n).ctlRing.word⟩, ⟨0x1028, 1, fun _ => f.ctlStatus n⟩,
     ⟨0x1030, 1, fun _ => (f.fn n).attest⟩, ⟨0x2000, 1024, f.fenceWord n⟩] 0 o

/-- The word at an offset of the PF's BAR0 (R440 to R444). -/
def Fabric.pfWord (f : Fabric) (o : Nat) : Word :=
  let mapq (i : Nat) : Word := match i % 4 with
    | 0 => (f.slice (i / 4)).tu.base
    | 2 => f.mapqPos (i / 4)
    | 3 => f.mapqStatus (i / 4)
    | _ => 0
  let digest (i : Nat) : Word := if i % 8 < 6 then f.digestWord (i / 64) (i / 8 % 8) (i % 8) else 0
  lookArea
    [⟨0x0000, 4, f.commonWord true⟩, ⟨0x1000, 16, f.chipWord⟩, ⟨0x2000, 8, recWord f.fc.first⟩,
     ⟨0x2040, 16, fun i => (f.fc.rules.getD i {}).word⟩, ⟨0x3000, 512, fun i => recWord (f.fc.hist[i / 8]?) (i % 8)⟩,
     ⟨0x4000, 64, f.peerDownWord⟩, ⟨0x4200, 64, fun i => f.splice.attest.getD i 0⟩, ⟨0x4400, 16, f.replicaWord⟩,
     ⟨0x4800, 256, f.watchWord⟩, ⟨0x5000, 1024, digest⟩, ⟨0x7000, 315, f.lanyardWord⟩, ⟨0x8000, 49, f.cleatCfg⟩,
     ⟨0x8200, 49, f.cleatStatus⟩, ⟨0x8400, 32, f.linkDropWord⟩, ⟨0x8500, 16, f.spliceAlu⟩, ⟨0x8800, 256, mapq⟩,
     ⟨0x9000, 512, f.keySlotWord⟩, ⟨0xA000, 1024, f.linkKeyWord⟩, ⟨0xC000, 1024, f.windowWord⟩,
     ⟨0xE000, 256, fun i => if i = 0 then 0 else f.vfResetWord i⟩, ⟨0xE800, 64, f.removalWord⟩,
     ⟨0x10000, 4096, fun i => if i % 64 < 49 then f.cleatMin (i / 64) (i % 64) else 0⟩, ⟨0x20000, 4096, f.astagWord⟩,
     ⟨0x28000, 1024, f.groupWord⟩, ⟨0x100000, 524288, fun i => f.sliceWord (i / 8192) true (i % 8192 * 8)⟩,
     ⟨0x800000, 524288, fun i => f.fnWord (i / 2048) (i % 2048 * 8)⟩] 0 o

/-- A group of the function. -/
def Fabric.ownGroup (f : Fabric) (n g : Nat) : Bool := (f.group g).state != 0 && gFn (f.group g).record == n
/-- The word at an offset of a VF's BAR0 (R445). -/
def Fabric.vfWord (f : Fabric) (n s o : Nat) : Word :=
  lookArea
    [⟨0x0000, 4, f.commonWord false⟩, ⟨0x10000, 8192, fun i => f.sliceWord s false (8 * i)⟩, ⟨0x20000, 2048, fun i => f.fnWord n (8 * i)⟩,
     ⟨0x40000, 4096, fun i => if (f.tag? i).any (fun t => t.fn == n) then f.astagWord i else 0⟩,
     ⟨0x48000, 1024, fun i => if f.ownGroup n (i / 4) then f.groupWord i else 0⟩] 0 o
/-- The word that a function reads at an aligned offset (R433). -/
def Fabric.regWord (f : Fabric) (n o : Nat) : Word :=
  if n = 0 then f.pfWord o else match (f.fn n).slice with | some s => f.vfWord n s o | none => 0

/-! ### RC fields (R435, R437) -/

/-- An RC field: its lowest bit, its width, and what its clearing does. -/
structure RcField where
  lo : Nat
  width : Nat
  clear : Fabric → Fabric

def rcOfChip (i : Nat) : List RcField :=
  match i with
  | 2 => [⟨16, 16, fun f => f.onSync (fun y => { y with missCnt := 0 })⟩, ⟨32, 16, fun f => f.onSync (fun y => { y with glitchCnt := 0 })⟩]
  | 3 => [⟨16, 16, fun f => f.onCleat (fun c => { c with droopEvents := 0 })⟩]
  | 4 => [⟨48, 16, fun f => f.onCau (fun c => { c with arbCnt := 0 })⟩, ⟨32, 16, fun f => f.onCau (fun c => { c with mismatchCnt := 0 })⟩,
          ⟨16, 16, fun f => f.onCau (fun c => { c with uncheckedCnt := 0 })⟩]
  | 7 => [⟨16, 16, fun f => f.onFc (fun c => { c with operLost := 0 })⟩]
  | 11 => [⟨48, 16, fun f => f.onCtl (fun c => { c with authFail := 0 })⟩, ⟨32, 16, fun f => f.onCtl (fun c => { c with stale := 0 })⟩,
           ⟨16, 16, fun f => f.onCtl (fun c => { c with drop := 0 })⟩]
  | 12 => [⟨16, 16, fun f => f.onRs (fun r => { r with badBeat := 0 })⟩]
  | 13 => [⟨48, 16, fun f => f.onRs (fun r => { r with strayAck := 0 })⟩]
  | _ => []
def rcOfLanyard (p : Nat) : List RcField :=
  [⟨48, 16, fun f => f.onSite p (fun t => { t with brokenCnt := 0 })⟩, ⟨32, 16, fun f => f.onSite p (fun t => { t with lostCnt := 0 })⟩]
def rcOfDrop (p : Nat) : List RcField :=
  let on (g : LinkDrop → LinkDrop) (f : Fabric) : Fabric := f.onKeys (fun k => { k with drops := k.drops.onKey p g })
  [⟨54, 10, on (fun d => { d with len := 0 })⟩, ⟨44, 10, on (fun d => { d with crc := 0 })⟩, ⟨34, 10, on (fun d => { d with unknown := 0 })⟩,
   ⟨24, 10, on (fun d => { d with removed := 0 })⟩, ⟨14, 10, on (fun d => { d with replay := 0 })⟩, ⟨4, 10, on (fun d => { d with auth := 0 })⟩]
def rcOfAlu (p : Nat) : List RcField :=
  [⟨36, 16, fun f => { f with splice := { f.splice with aluCrcErr := f.splice.aluCrcErr.del p } }⟩,
   ⟨20, 16, fun f => { f with splice := { f.splice with aluWait := f.splice.aluWait.del p } }⟩]
def rcOfMapq (i : Nat) : List RcField := if i % 4 = 3 then [⟨48, 16, fun f => f.onTu (i / 4) (fun u => { u with dbErr := 0 })⟩] else []
def rcOfGroup (i : Nat) : List RcField :=
  match i % 4 with
  | 1 => [⟨32, 16, fun f => f.onGroup (i / 4) (fun g => { g with abortCnt := 0 })⟩, ⟨16, 16, fun f => f.onGroup (i / 4) (fun g => { g with retryCnt := 0 })⟩,
          ⟨8, 8, fun f => f.onGroup (i / 4) (fun g => { g with nanCnt := 0 })⟩]
  | 3 => [⟨16, 16, fun f => f.onGroup (i / 4) (fun g => { g with unlocked := 0 })⟩]
  | _ => []
/-- IRX_WG_REFUSED, the one register of a slice block with RC fields. -/
def rcOfSlice (s o : Nat) : List RcField :=
  if o = 0x1028 then (List.range 5).map (fun i => ⟨48 - 12 * i, 12, fun f => f.onTu s (fun u => { u with windowCnt := u.windowCnt.set i 0 })⟩) else []
/-- IRX_SQ_STATUS of a local index; DB_SHUT_CNT of index 0 counts without a queue (R143). -/
def rcOfSq (n j : Nat) : List RcField :=
  let on (g : Sq → Sq) (f : Fabric) : Fabric := match (f.fn n).sqs.find j with | some q => f.onSq q g | none => f
  [⟨48, 16, on (fun q => { q with dbErr := 0 })⟩,
   ⟨32, 16, fun f =>
     let f := on (fun q => { q with dbShut := 0 }) f
     if j = 0 ∧ ((f.fn n).sqs.find 0).isNone = true then f.onFn n (fun x => { x with dbShut0 := 0 }) else f⟩,
   ⟨16, 16, on (fun q => { q with formErr := 0 })⟩]
def rcOfFn (n o : Nat) : List RcField :=
  lookArea
    [⟨0x0000, 256, fun i => if i % 4 = 3 then rcOfSq n (i / 4) else []⟩,
     ⟨0x0800, 128, fun i => if i % 2 = 1 then [⟨16, 16, fun f => f.onCq n (i / 2) (fun c => { c with fullStall := 0 })⟩] else []⟩,
     ⟨0x1010, 1, fun _ => [⟨16, 16, fun f => f.onFn n (fun x => { x with faultRing := { x.faultRing with lost := 0 } })⟩]⟩,
     ⟨0x1028, 1, fun _ => [⟨16, 16, fun f => f.onFn n (fun x => { x with ctlRing := { x.ctlRing with lost := 0 } })⟩]⟩] [] o

/-- RC fields at an aligned offset of the PF's space; a read of another function's block clears nothing (R437). -/
def rcOfPf (o : Nat) : List RcField :=
  lookArea
    [⟨0x1000, 16, rcOfChip⟩, ⟨0x7000, 315, rcOfLanyard⟩, ⟨0x8200, 49, fun r => [⟨16, 16, fun f => f.onReg r (fun g => { g with late := 0 })⟩]⟩,
     ⟨0x8400, 32, rcOfDrop⟩, ⟨0x8500, 16, rcOfAlu⟩, ⟨0x8800, 256, rcOfMapq⟩, ⟨0x28000, 1024, rcOfGroup⟩,
     ⟨0x100000, 524288, fun i => rcOfSlice (i / 8192) (i % 8192 * 8)⟩, ⟨0x800000, 2048, fun i => rcOfFn 0 (8 * i)⟩] [] o
/-- RC fields of a VF's space. -/
def Fabric.rcOfVf (f : Fabric) (n s o : Nat) : List RcField :=
  lookArea
    [⟨0x10000, 8192, fun i => rcOfSlice s (8 * i)⟩, ⟨0x20000, 2048, fun i => rcOfFn n (8 * i)⟩,
     ⟨0x48000, 1024, fun i => if f.ownGroup n (i / 4) then rcOfGroup i else []⟩] [] o
def Fabric.rcFields (f : Fabric) (n o : Nat) : List RcField :=
  if n = 0 then rcOfPf o else match (f.fn n).slice with | some s => f.rcOfVf n s o | none => []

/-! ### Reads (R434 to R438) -/

/-- An access of 4 or 8 bytes, naturally aligned. -/
def goodAccess (o size : Nat) : Bool := (size == 4 || size == 8) && decide (o % size = 0)
/-- The bytes of a word that an access reads. -/
def accessPart (w : Word) (o size : Nat) : Word := if size = 8 then w else (w >>> (8 * (o % 8))) &&& 0xFFFFFFFF

/-- A read by a function: its value, and the state with the RC fields wholly within the bytes read cleared. While the
chip is frozen every register but IRX_RECOVERY_STATUS reads all ones (R384). -/
def Fabric.readReg (f : Fabric) (n o size : Nat) : Word × Fabric :=
  let a := o / 8 * 8
  if !goodAccess o size then (BitVec.allOnes 64, f)
  else if f.rs.frozen && f.fnLive n && a != 0x18 then (accessPart (BitVec.allOnes 64) o size, f)
  else
    let lo := 8 * (o % 8)
    let hit := (f.rcFields n a).filter (fun c => decide (lo ≤ c.lo) && decide (c.lo + c.width ≤ lo + 8 * size))
    (accessPart (f.regWord n a) o size, hit.foldl (fun f c => c.clear f) f)
def Fabric.answerRead (f : Fabric) (n o size : Nat) : Fabric :=
  let r := f.readReg n o size
  r.2.emit (.readData n o size r.1)
def execRegisterRcRead (fn o size : Nat) (s : State) : Host.Outcome State Fault Refusal := s.run (fun f => f.answerRead fn o size)

/-! ### Enable-locked rings (R446) -/

def ringEnableBit (v : Word) : Bool := bitAt v 0
def ringVector (v : Word) : Nat := (v.extractLsb' 2 6).toNat
/-- The ring with the fields of a write that finds ENABLE 0. -/
def Ring.configure (r : Ring) (v : Word) : Ring :=
  { r with addr := (v.extractLsb' 12 52).toNat, log2 := (v.extractLsb' 8 4).toNat, vector := ringVector v, enable := ringEnableBit v
           head := if ringEnableBit v then 0 else r.head, tail := if ringEnableBit v then 0 else r.tail }

/-- A write of IRX_FAULT_RING. -/
def Fabric.writeFaultRing (f : Fabric) (n : Nat) (v : Word) : Fabric :=
  if f.rs.frozen || !f.fnLive n then f
  else f.onFn n (fun x =>
    { x with faultRing :=
        if x.faultRing.enable then { x.faultRing with vector := ringVector v, enable := ringEnableBit v } else x.faultRing.configure v })
/-- A write of IRX_CTL_RING; one that clears ENABLE is held until no reply is pending or waiting. -/
def Fabric.writeCtlRing (f : Fabric) (n : Nat) (v : Word) : Fabric :=
  if f.rs.frozen || !f.fnLive n then f
  else
    let r := (f.fn n).ctlRing
    let set (r : Ring) (f : Fabric) : Fabric := f.onFn n (fun x => { x with ctlRing := r })
    if !r.enable then set (r.configure v) f
    else if ringEnableBit v then set { r with vector := ringVector v } f
    else (set { r with disableHeld := true, heldVector := ringVector v } f).settleDisable n
/-- A write of IRX_MAPQ_BASE; one that clears ENABLE is ignored while records or acknowledgements are pending. -/
def Fabric.writeMapqBase (f : Fabric) (s : Nat) (v : Word) : Fabric :=
  let keep : Word := v &&& ~~~2
  if f.rs.frozen || decide (64 ≤ s) then f
  else f.onTu s (fun u =>
    if !mapqEnable u.base then
      if mapqEnable v then { u with base := keep, tail := 0, applied := 0, retired := 0, unretired := [], stalled := false } else { u with base := keep }
    else
      let vec : Word := (u.base &&& ~~~0xFC) ||| (v &&& 0xFC)
      if mapqEnable v then { u with base := vec }
      else if u.applied != u.tail || u.pendingAcks != 0 then u
      else { u with base := vec &&& ~~~1 })

/-- FAULT_RING_ENABLE and FAULT_RING_DISABLE are the writes of IRX_FAULT_RING that set and clear ENABLE. -/
def execFaultRingEnable (fn : Nat) (v : Word) (s : State) : Host.Outcome State Fault Refusal := s.run (fun f => f.writeFaultRing fn (v ||| 1))
def execFaultRingDisable (fn : Nat) (v : Word) (s : State) : Host.Outcome State Fault Refusal := s.run (fun f => f.writeFaultRing fn (v &&& ~~~1))
def execCtlRingEnable (fn : Nat) (v : Word) (s : State) : Host.Outcome State Fault Refusal := s.run (fun f => f.writeCtlRing fn (v ||| 1))
def execCtlRingDisable (fn : Nat) (v : Word) (s : State) : Host.Outcome State Fault Refusal := s.run (fun f => f.writeCtlRing fn (v &&& ~~~1))
def execMapqEnable (slice : Nat) (v : Word) (s : State) : Host.Outcome State Fault Refusal := s.run (fun f => f.writeMapqBase slice (v ||| 1))
def execMapqDisable (slice : Nat) (v : Word) (s : State) : Host.Outcome State Fault Refusal := s.run (fun f => f.writeMapqBase slice (v &&& ~~~1))

/-! ### Heads (R353, R411) -/

/-- A fault ring head write; one that moves back or past the tail is ignored and marked. -/
def Fabric.faultHead (f : Fabric) (n : Nat) (v : BitVec 32) : Fabric :=
  if f.rs.frozen || !f.fnLive n then f
  else f.onFn n (fun x =>
    let r := x.faultRing
    { x with faultRing := if headOk r.head r.tail v then { r with head := v } else { r with headErr := true } })
def execFaultHead (fn : Nat) (head : BitVec 32) (s : State) : Host.Outcome State Fault Refusal := s.run (fun f => f.faultHead fn head)
/-- A reply ring head write; freed entries take the replies that wait, in order. -/
def Fabric.ctlHead (f : Fabric) (n : Nat) (v : BitVec 32) : Fabric :=
  let r := (f.fn n).ctlRing
  if f.rs.frozen || !f.fnLive n then f
  else if headOk r.head r.tail v then
    ((f.onFn n (fun x => { x with ctlRing := { r with head := v } })).drainReplies n (f.fn n).waiting.length).settleDisable n
  else f.onFn n (fun x => { x with ctlRing := { r with headErr := true } })
def execCtlHead (fn : Nat) (head : BitVec 32) (s : State) : Host.Outcome State Fault Refusal := s.run (fun f => f.ctlHead fn head)

/-! ### Intakes (R408, R410, R419) -/

/-- A packet reaches a function's intake, or the BUSY responder while it is enabled. -/
def Fabric.fnPacket (f : Fabric) (n : Nat) (p : Packet) : Fabric :=
  if f.busyOn && (f.fn n).ctlRing.enable then f.busyAnswer p else f.intakeFn n p
/-- A packet reaches the mailbox, or the BUSY responder. -/
def Fabric.mailPacket (f : Fabric) (p : Packet) : Fabric :=
  match p.path with
  | .fn _ => f
  | .mailbox _ =>
    if f.busyOn then f.busyAnswer p
    else if f.ctl.mailbox.length < 16 then f.onCtl (fun c => { c with mailbox := c.mailbox ++ [p] })
    else f.onCtl (fun c => { c with drop := satAdd 16 c.drop 1 })
def execMailboxPacket (p : Packet) (s : State) : Host.Outcome State Fault Refusal := s.run (fun f => f.mailPacket p)

/-- The packet that eight words of IRX_CTL_REQ spell (R410). -/
def packetOf (n : Nat) (w : List Word) : Packet :=
  let b : BitVec 512 := (List.range 8).foldl (fun b i => setField b (8 * i) 8 (w.getD i 0).toNat) 0
  { path := .fn n, opcode := BitVec.ofNat 16 (field b 0 2), len := BitVec.ofNat 8 (field b 2 1), sliceByte := BitVec.ofNat 8 (field b 3 1),
    seq := BitVec.ofNat 32 (field b 4 4), tag := b.extractLsb' 64 128, params := b.extractLsb' 192 320 }
/-- A write of a word of IRX_CTL_REQ; word 7 submits the packet. -/
def Fabric.writeCtlReq (f : Fabric) (n w : Nat) (v : Word) : Fabric :=
  if !f.fnLive n then f
  else if w < 7 then f.onFn n (fun x => { x with ctlReq := x.ctlReq.put w v })
  else f.fnPacket n (packetOf n ((List.range 7).map (fun i => (f.fn n).ctlReq.getD i 0) ++ [v]))
def execCtlReqSubmit (fn : Nat) (word7 : Word) (s : State) : Host.Outcome State Fault Refusal := s.run (fun f => f.writeCtlReq fn 7 word7)

/-! ### Writes (R434, R436, R437) -/

/-- Writes that the fabric takes even while it is frozen, and that a 4-byte write of the low half may make: doorbells
and heads; heads are discarded during the freeze (R384). The offset lies in the function's own block. -/
def Fabric.writeBell (f : Fabric) (n o : Nat) (v : BitVec 32) : Option Fabric :=
  if o < 0x800 then (if o % 0x20 = 0 then some (f.ringSq n (o / 0x20) v) else none)
  else if o < 0xC00 then (if o % 0x10 = 0 then some (f.cqHead n ((o - 0x800) / 0x10) v) else none)
  else if o = 0x1008 then some (f.faultHead n v)
  else if o = 0x1020 then some (f.ctlHead n v)
  else none
/-- Writes of a whole word into the function's own block. -/
def Fabric.writeOwn (f : Fabric) (n o : Nat) (v : Word) : Fabric :=
  if 0x1040 ≤ o ∧ o < 0x1080 then f.writeCtlReq n ((o - 0x1040) / 8) v
  else if f.rs.frozen then f
  else if 0x800 ≤ o ∧ o < 0xC00 then (if bitAt v 2 then f.onCq n ((o - 0x800) / 0x10) (fun c => { c with headErr := false }) else f)
  else if 0x2000 ≤ o then f.writeFence n ((o - 0x2000) / 8) v
  else match o with
    | 0x1000 => f.writeFaultRing n v
    | 0x1010 => if bitAt v 0 then f.onFn n (fun x => { x with faultRing := { x.faultRing with headErr := false } }) else f
    | 0x1018 => f.writeCtlRing n v
    | 0x1028 => if bitAt v 2 then f.onFn n (fun x => { x with ctlRing := { x.ctlRing with headErr := false } }) else f
    | 0x1030 => f.onFn n (fun x => { x with attest := v &&& ~~~0xFFE })
    | _ => f
/-- Writes of the PF outside its function block. -/
def Fabric.writeChip (f : Fabric) (o size : Nat) (v : Word) : Fabric :=
  if 0x8800 ≤ o ∧ o < 0x9000 ∧ o % 0x20 = 8 then f.ringMapq ((o - 0x8800) / 0x20) (v.extractLsb' 0 32)
  else if size ≠ 8 ∨ f.rs.frozen = true then f
  else if 0x8800 ≤ o ∧ o < 0x9000 ∧ o % 0x20 = 0 then f.writeMapqBase ((o - 0x8800) / 0x20) v
  else if o = 0x1048 ∧ bitAt v 3 = true then f.onLedger (fun l => { l with ioError := false })
  else f

/-- A write by a function. -/
def Fabric.writeReg (f : Fabric) (n o size : Nat) (v : Word) : Fabric :=
  let base := if n = 0 then 0x800000 else 0x20000
  if !goodAccess o size || o % 8 != 0 || !f.fnLive n then f
  else if base ≤ o ∧ o < base + 0x4000 then
    match f.writeBell n (o - base) (v.extractLsb' 0 32) with
    | some g => g
    | none => if size = 8 then f.writeOwn n (o - base) v else f
  else if n = 0 then f.writeChip o size v
  else f
def execRegisterWrite (fn o size : Nat) (v : Word) (s : State) : Host.Outcome State Fault Refusal := s.run (fun f => f.writeReg fn o size v)

/-! ### The ring window (R439) -/

/-- A write through BAR2: the bytes that fall within the ring of the slot's queue are stored under the slice's key
selector 0, and the rest is discarded. -/
def Fabric.writeWindow (f : Fabric) (n o : Nat) (data : List Byte) : Fabric :=
  let at_ := o % 0x40000
  match if f.fnLive n then (f.sqOf n (o / 0x40000)) else none with
  | none => f
  | some q =>
    let size := 2 ^ q.ringLog2 * (if q.gen = 1 then 32 else 64)
    let kept := data.take (size - at_)
    let a := q.ringStack * 2 ^ 36 + q.ringBase + at_
    f.writeKeyed (f.slotOfSel q.slice 0) a kept
def execRingWindowWrite (fn o : Nat) (data : List Byte) (s : State) : Host.Outcome State Fault Refusal :=
  s.run (fun f => f.writeWindow fn o data)

end Sys2Proof.Machine
end

