-- ==== Sys2Proof/Machine/Dispatch.lean ====
section
/-! DEFINITION. The dispatch: one arm for each command, each a call of its meaning. -/

namespace Sys2Proof.Machine

/-- The effect of a command on everything but the queue. -/
def exec (i : Instr) (s : State) : Host.Outcome State Fault Refusal :=
  match i with
  | .sliceDefine p => Sys2Proof.Machine.execSliceDefine p s
  | .sliceCreate p => Sys2Proof.Machine.execSliceCreate p s
  | .sliceActivate p => Sys2Proof.Machine.execSliceActivate p s
  | .sliceAmend p => Sys2Proof.Machine.execSliceAmend p s
  | .sliceDestroy p => Sys2Proof.Machine.execSliceDestroy p s
  | .sliceQuery p => Sys2Proof.Machine.execSliceQuery p s
  | .ftabHeader p => Sys2Proof.Machine.execFtabHeader p s
  | .ftabWrite p => Sys2Proof.Machine.execFtabWrite p s
  | .ftabCheck p => Sys2Proof.Machine.execFtabCheck p s
  | .ftabSwitch p => Sys2Proof.Machine.execFtabSwitch p s
  | .ftabQuery p => Sys2Proof.Machine.execFtabQuery p s
  | .frameSyncSet p => Sys2Proof.Machine.execFrameSyncSet p s
  | .keyStage p => Sys2Proof.Machine.execKeyStage p s
  | .keyInstall p => Sys2Proof.Machine.execKeyInstall p s
  | .keyDestroy p => Sys2Proof.Machine.execKeyDestroy p s
  | .keyQuery p => Sys2Proof.Machine.execKeyQuery p s
  | .weightImport p => Sys2Proof.Machine.execWeightImport p s
  | .attestReport p => Sys2Proof.Machine.execAttestReport p s
  | .debugOpen p => Sys2Proof.Machine.execDebugOpen p s
  | .debugClose p => Sys2Proof.Machine.execDebugClose p s
  | .vfEnable p => Sys2Proof.Machine.execVfEnable p s
  | .vfDisable p => Sys2Proof.Machine.execVfDisable p s
  | .cqCreate p => Sys2Proof.Machine.execCqCreate p s
  | .cqDestroy p => Sys2Proof.Machine.execCqDestroy p s
  | .sqCreate p => Sys2Proof.Machine.execSqCreate p s
  | .sqDestroy p => Sys2Proof.Machine.execSqDestroy p s
  | .ctxCancel p => Sys2Proof.Machine.execCtxCancel p s
  | .objRegister p => Sys2Proof.Machine.execObjRegister p s
  | .objRelease p => Sys2Proof.Machine.execObjRelease p s
  | .objQuery p => Sys2Proof.Machine.execObjQuery p s
  | .astagCreate p => Sys2Proof.Machine.execAstagCreate p s
  | .astagDestroy p => Sys2Proof.Machine.execAstagDestroy p s
  | .winOpen p => Sys2Proof.Machine.execWinOpen p s
  | .winClose p => Sys2Proof.Machine.execWinClose p s
  | .accSnapshot p => Sys2Proof.Machine.execAccSnapshot p s
  | .belayAuditSet p => Sys2Proof.Machine.execBelayAuditSet p s
  | .belayWatch p => Sys2Proof.Machine.execBelayWatch p s
  | .belayHeldQuery p => Sys2Proof.Machine.execBelayHeldQuery p s
  | .replicaDefine p => Sys2Proof.Machine.execReplicaDefine p s
  | .replicaCheck p => Sys2Proof.Machine.execReplicaCheck p s
  | .replicaExpel p => Sys2Proof.Machine.execReplicaExpel p s
  | .fcRuleSet p => Sys2Proof.Machine.execFcRuleSet p s
  | .fcInject p => Sys2Proof.Machine.execFcInject p s
  | .fcErrClear p => Sys2Proof.Machine.execFcErrClear p s
  | .fcReactSet p => Sys2Proof.Machine.execFcReactSet p s
  | .unitRetire p => Sys2Proof.Machine.execUnitRetire p s
  | .testSet p => Sys2Proof.Machine.execTestSet p s
  | .ledgerRead p => Sys2Proof.Machine.execLedgerRead p s
  | .tmGuard p => Sys2Proof.Machine.execTmGuard p s
  | .tmResource p => Sys2Proof.Machine.execTmResource p s
  | .tmChip p => Sys2Proof.Machine.execTmChip p s
  | .ccRestart p => Sys2Proof.Machine.execCcRestart p s
  | .engineReset p => Sys2Proof.Machine.execEngineReset p s
  | .sliceReset p => Sys2Proof.Machine.execSliceReset p s
  | .chipReset p => Sys2Proof.Machine.execChipReset p s
  | .powerCycle p => Sys2Proof.Machine.execPowerCycle p s
  | .vfQuiesce p => Sys2Proof.Machine.execVfQuiesce p s
  | .vfResume p => Sys2Proof.Machine.execVfResume p s
  | .peerNotice p => Sys2Proof.Machine.execPeerNotice p s
  | .dumpTake p => Sys2Proof.Machine.execDumpTake p s
  | .dumpRead p => Sys2Proof.Machine.execDumpRead p s
  | .recoveryQuery p => Sys2Proof.Machine.execRecoveryQuery p s
  | .chipNumberSet p => Sys2Proof.Machine.execChipNumberSet p s
  | .grpDefine p => Sys2Proof.Machine.execGrpDefine p s
  | .grpCreate p => Sys2Proof.Machine.execGrpCreate p s
  | .grpDestroy p => Sys2Proof.Machine.execGrpDestroy p s
  | .grpQuery p => Sys2Proof.Machine.execGrpQuery p s
  | .switchAttest p => Sys2Proof.Machine.execSwitchAttest p s
  | .mailboxPacket p => Sys2Proof.Machine.execMailboxPacket p s
  | .ctlReqSubmit fn word7 => Sys2Proof.Machine.execCtlReqSubmit fn word7 s
  | .ctlHead fn head => Sys2Proof.Machine.execCtlHead fn head s
  | .sqDoorbell fn j tail => Sys2Proof.Machine.execSqDoorbell fn j tail s
  | .cqDoorbell fn k head => Sys2Proof.Machine.execCqDoorbell fn k head s
  | .mapqDoorbell slice tail => Sys2Proof.Machine.execMapqDoorbell slice tail s
  | .faultHead fn head => Sys2Proof.Machine.execFaultHead fn head s
  | .fenceWrite fn n v => Sys2Proof.Machine.execFenceWrite fn n v s
  | .heartbeat count fwState => Sys2Proof.Machine.execHeartbeat count fwState s
  | .faultRingEnable fn v => Sys2Proof.Machine.execFaultRingEnable fn v s
  | .faultRingDisable fn v => Sys2Proof.Machine.execFaultRingDisable fn v s
  | .ctlRingEnable fn v => Sys2Proof.Machine.execCtlRingEnable fn v s
  | .ctlRingDisable fn v => Sys2Proof.Machine.execCtlRingDisable fn v s
  | .mapqEnable slice v => Sys2Proof.Machine.execMapqEnable slice v s
  | .mapqDisable slice v => Sys2Proof.Machine.execMapqDisable slice v s
  | .ringWindowWrite fn offset data => Sys2Proof.Machine.execRingWindowWrite fn offset data s
  | .registerWrite fn offset size v => Sys2Proof.Machine.execRegisterWrite fn offset size v s
  | .registerRcRead fn offset size => Sys2Proof.Machine.execRegisterRcRead fn offset size s
  | .descriptorRead sq readable => Sys2Proof.Machine.execDescriptorRead sq readable s
  | .descriptorBind sq seq tableError => Sys2Proof.Machine.execDescriptorBind sq seq tableError s
  | .countRead sq seq data => Sys2Proof.Machine.execCountRead sq seq data s
  | .tilePlace slice => Sys2Proof.Machine.execTilePlace slice s
  | .formWaitExpiry sq => Sys2Proof.Machine.execFormWaitExpiry sq s
  | .tileComplete engine m beats => Sys2Proof.Machine.execTileComplete engine m beats s
  | .engineAbortDone engine m => Sys2Proof.Machine.execEngineAbortDone engine m s
  | .operandUnreadable engine m => Sys2Proof.Machine.execOperandUnreadable engine m s
  | .exactRangeExceeded engine m => Sys2Proof.Machine.execExactRangeExceeded engine m s
  | .testDone engine signature => Sys2Proof.Machine.execTestDone engine signature s
  | .engineResetDone engine => Sys2Proof.Machine.execEngineResetDone engine s
  | .scrubDone engine => Sys2Proof.Machine.execScrubDone engine s
  | .regionsReport engine count regions status => Sys2Proof.Machine.execRegionsReport engine count regions status s
  | .spData engine beat => Sys2Proof.Machine.execSpData engine beat s
  | .addressResolve engine xreq => Sys2Proof.Machine.execAddressResolve engine xreq s
  | .budgetExpiry tile => Sys2Proof.Machine.execBudgetExpiry tile s
  | .hangLimit tile => Sys2Proof.Machine.execHangLimit tile s
  | .isolatedReplayLimit tile => Sys2Proof.Machine.execIsolatedReplayLimit tile s
  | .extraRunPlace sq seq => Sys2Proof.Machine.execExtraRunPlace sq seq s
  | .auditWindowEnd slice engine => Sys2Proof.Machine.execAuditWindowEnd slice engine s
  | .cauJobDone job unreadable remote => Sys2Proof.Machine.execCauJobDone job unreadable remote s
  | .commit sq => Sys2Proof.Machine.execCommit sq s
  | .msixCoalesceExpiry fn k => Sys2Proof.Machine.execMsixCoalesceExpiry fn k s
  | .frameBoundary => Sys2Proof.Machine.execFrameBoundary s
  | .slotTrim entry => Sys2Proof.Machine.execSlotTrim entry s
  | .activateTimeout slice => Sys2Proof.Machine.execActivateTimeout slice s
  | .watchListExit engine => Sys2Proof.Machine.execWatchListExit engine s
  | .slotOwnerLatchLoad start => Sys2Proof.Machine.execSlotOwnerLatchLoad start s
  | .slotStart start => Sys2Proof.Machine.execSlotStart start s
  | .slackStart entry => Sys2Proof.Machine.execSlackStart entry s
  | .issueWindowEnd entry => Sys2Proof.Machine.execIssueWindowEnd entry s
  | .slotEnd entry => Sys2Proof.Machine.execSlotEnd entry s
  | .syncMessage u masterTime frameNum period => Sys2Proof.Machine.execSyncMessage u masterTime frameNum period s
  | .pathDelayMeasure => Sys2Proof.Machine.execPathDelayMeasure s
  | .pathDelayRequest u => Sys2Proof.Machine.execPathDelayRequest u s
  | .pathDelayResponse roundTrip => Sys2Proof.Machine.execPathDelayResponse roundTrip s
  | .syncMessageMissing => Sys2Proof.Machine.execSyncMessageMissing s
  | .frameSyncInEdge highNs => Sys2Proof.Machine.execFrameSyncInEdge highNs s
  | .syncWindowMiss => Sys2Proof.Machine.execSyncWindowMiss s
  | .map slice record => Sys2Proof.Machine.execMap slice record s
  | .unmap slice record => Sys2Proof.Machine.execUnmap slice record s
  | .protect slice record => Sys2Proof.Machine.execProtect slice record s
  | .resolve slice record => Sys2Proof.Machine.execResolve slice record s
  | .parkTimeout slice fault => Sys2Proof.Machine.execParkTimeout slice fault s
  | .windowRequest u srcChip window offset length write data => Sys2Proof.Machine.execWindowRequest u srcChip window offset length write data s
  | .linkRemoteRequest port engine isDma key peer window offset length write => Sys2Proof.Machine.execLinkRemoteRequest port engine isDma key peer window offset length write s
  | .windowReply u request code => Sys2Proof.Machine.execWindowReply u request code s
  | .windowRequestTimeout request => Sys2Proof.Machine.execWindowRequestTimeout request s
  | .miRequest stack chan req wdata => Sys2Proof.Machine.execMiRequest stack chan req wdata s
  | .cleatCycle r => Sys2Proof.Machine.execCleatCycle r s
  | .unitResponse r tag status => Sys2Proof.Machine.execUnitResponse r tag status s
  | .equalisedDelivery r tag => Sys2Proof.Machine.execEqualisedDelivery r tag s
  | .linkStateChange port lanes peer peerPort => Sys2Proof.Machine.execLinkStateChange port lanes peer peerPort s
  | .droopAssert => Sys2Proof.Machine.execDroopAssert s
  | .droopRelease => Sys2Proof.Machine.execDroopRelease s
  | .droopHoldEnd => Sys2Proof.Machine.execDroopHoldEnd s
  | .stepReady g => Sys2Proof.Machine.execStepReady g s
  | .readyToken g t => Sys2Proof.Machine.execReadyToken g t s
  | .goToken g t => Sys2Proof.Machine.execGoToken g t s
  | .stepAbort g step cause fromSuccessor => Sys2Proof.Machine.execStepAbort g step cause fromSuccessor s
  | .chunkReceive u g h payload crc => Sys2Proof.Machine.execChunkReceive u g h payload crc s
  | .chunkAck g h => Sys2Proof.Machine.execChunkAck g h s
  | .chunkNack g h => Sys2Proof.Machine.execChunkNack g h s
  | .chunkAckTimeout g h => Sys2Proof.Machine.execChunkAckTimeout g h s
  | .gangTimeout g => Sys2Proof.Machine.execGangTimeout g s
  | .joinMessage u job crc => Sys2Proof.Machine.execJoinMessage u job crc s
  | .joined job => Sys2Proof.Machine.execJoined job s
  | .joinTimeout g => Sys2Proof.Machine.execJoinTimeout g s
  | .joinHoldExpiry job => Sys2Proof.Machine.execJoinHoldExpiry job s
  | .groupBroken job => Sys2Proof.Machine.execGroupBroken job s
  | .grant g lease fmtMask opMask => Sys2Proof.Machine.execGrant g lease fmtMask opMask s
  | .deny g => Sys2Proof.Machine.execDeny g s
  | .reserveTimeout g => Sys2Proof.Machine.execReserveTimeout g s
  | .peerNoticeReceived u kind chip job => Sys2Proof.Machine.execPeerNoticeReceived u kind chip job s
  | .keyPortResponse op => Sys2Proof.Machine.execKeyPortResponse op s
  | .keyUnwrapTimeout => Sys2Proof.Machine.execKeyUnwrapTimeout s
  | .escrowConfirmTimeout slice => Sys2Proof.Machine.execEscrowConfirmTimeout slice s
  | .importDone headerLost lost header segments => Sys2Proof.Machine.execImportDone headerLost lost header segments s
  | .zeroingDone slice => Sys2Proof.Machine.execZeroingDone slice s
  | .tenantEnvPublish => Sys2Proof.Machine.execTenantEnvPublish s
  | .controlKeyLoad session key => Sys2Proof.Machine.execControlKeyLoad session key s
  | .controlKeyZero session => Sys2Proof.Machine.execControlKeyZero session s
  | .measurementRequest index => Sys2Proof.Machine.execMeasurementRequest index s
  | .lanyardRaise source => Sys2Proof.Machine.execLanyardRaise source s
  | .lanyardBroken source => Sys2Proof.Machine.execLanyardBroken source s
  | .lanyardPoll source answered => Sys2Proof.Machine.execLanyardPoll source answered s
  | .classifyRecord => Sys2Proof.Machine.execClassifyRecord s
  | .containedTimerExpiry slice => Sys2Proof.Machine.execContainedTimerExpiry slice s
  | .fatalTimerExpiry => Sys2Proof.Machine.execFatalTimerExpiry s
  | .xdomainTimeout request => Sys2Proof.Machine.execXdomainTimeout request s
  | .injectUnconsumed => Sys2Proof.Machine.execInjectUnconsumed s
  | .injectNoRecord => Sys2Proof.Machine.execInjectNoRecord s
  | .testDue engine => Sys2Proof.Machine.execTestDue engine s
  | .testBorrowTimeout engine => Sys2Proof.Machine.execTestBorrowTimeout engine s
  | .ledgerFlush failed => Sys2Proof.Machine.execLedgerFlush failed s
  | .eraseTokenRefill => Sys2Proof.Machine.execEraseTokenRefill s
  | .stressAccumulate => Sys2Proof.Machine.execStressAccumulate s
  | .watchdogExpiry => Sys2Proof.Machine.execWatchdogExpiry s
  | .lockstepDisagree => Sys2Proof.Machine.execLockstepDisagree s
  | .ccMemoryError => Sys2Proof.Machine.execCcMemoryError s
  | .firmwareLoaded readable => Sys2Proof.Machine.execFirmwareLoaded readable s
  | .ccRestartTimeout => Sys2Proof.Machine.execCcRestartTimeout s
  | .resetAckTimeout engine => Sys2Proof.Machine.execResetAckTimeout engine s
  | .fidDumpDone timeouts unreadables => Sys2Proof.Machine.execFidDumpDone timeouts unreadables s
  | .selfRefreshEntered => Sys2Proof.Machine.execSelfRefreshEntered s
  | .selfRefreshTimeout => Sys2Proof.Machine.execSelfRefreshTimeout s
  | .fuseReadDone fuses crcOk caps => Sys2Proof.Machine.execFuseReadDone fuses crcOk caps s
  | .reinstatementDone found failedSlices => Sys2Proof.Machine.execReinstatementDone found failedSlices s
  | .functionLevelReset fn => Sys2Proof.Machine.execFunctionLevelReset fn s
  | .l5DrainTimeout => Sys2Proof.Machine.execL5DrainTimeout s
  | .summaryWaitTimeout => Sys2Proof.Machine.execSummaryWaitTimeout s
  | .trayAck => Sys2Proof.Machine.execTrayAck s
  | .pwrCycleReqRetry => Sys2Proof.Machine.execPwrCycleReqRetry s
  | .pwrCycleReqReassert => Sys2Proof.Machine.execPwrCycleReqReassert s
  | .fabPwrOkChange level => Sys2Proof.Machine.execFabPwrOkChange level s
  | .fabRstNAssert lowNs => Sys2Proof.Machine.execFabRstNAssert lowNs s
  | .fabRstNRelease => Sys2Proof.Machine.execFabRstNRelease s
  | .firmwareImageReceived image => Sys2Proof.Machine.execFirmwareImageReceived image s
  | .sensorReadingDue => Sys2Proof.Machine.execSensorReadingDue s
  | .sensorReply addr data => Sys2Proof.Machine.execSensorReply addr data s
  | .sensorNoReply addr => Sys2Proof.Machine.execSensorNoReply addr s
  | .railOutOfBand xa => Sys2Proof.Machine.execRailOutOfBand xa s
  | .tapInstruction ir => Sys2Proof.Machine.execTapInstruction ir s
  | .vfQuiesceTimeout fn => Sys2Proof.Machine.execVfQuiesceTimeout fn s
  | .ledgerAccessDone op => Sys2Proof.Machine.execLedgerAccessDone op s
  | .escrowRetryDue slice => Sys2Proof.Machine.execEscrowRetryDue slice s
  | .errOutMinLowEnd => Sys2Proof.Machine.execErrOutMinLowEnd s
  | .trstNAssert => Sys2Proof.Machine.execTrstNAssert s
  | .formingFitDeadline sq => Sys2Proof.Machine.execFormingFitDeadline sq s
  | .enginePortTimeout engine bound => Sys2Proof.Machine.execEnginePortTimeout engine bound s

end Sys2Proof.Machine
end

