-- ==== Sys2Proof/Machine/Idle.lean ====
section
/-! DEFINITION. The fabric with no command waiting: the control cores take the next packet of an intake (R408, R409),
or the management block drains the operator's FIFO (R353) and fabric time runs on by one nanosecond (R6). -/

namespace Sys2Proof.Machine

/-- The command that a packet of a listed opcode spells (R408, R410). -/
def packetCommand (p : Packet) : Option Instr :=
  match p.opcode.toNat with
  | 0x0101 => some (.sliceDefine p)
  | 0x0102 => some (.sliceCreate p)
  | 0x0103 => some (.sliceActivate p)
  | 0x0104 => some (.sliceAmend p)
  | 0x0105 => some (.sliceDestroy p)
  | 0x0106 => some (.sliceQuery p)
  | 0x0201 => some (.ftabHeader p)
  | 0x0202 => some (.ftabWrite p)
  | 0x0203 => some (.ftabCheck p)
  | 0x0204 => some (.ftabSwitch p)
  | 0x0205 => some (.ftabQuery p)
  | 0x0206 => some (.frameSyncSet p)
  | 0x0301 => some (.keyStage p)
  | 0x0302 => some (.keyInstall p)
  | 0x0303 => some (.keyDestroy p)
  | 0x0304 => some (.keyQuery p)
  | 0x0305 => some (.weightImport p)
  | 0x0306 => some (.attestReport p)
  | 0x0307 => some (.debugOpen p)
  | 0x0308 => some (.debugClose p)
  | 0x0401 => some (.vfEnable p)
  | 0x0402 => some (.vfDisable p)
  | 0x0403 => some (.cqCreate p)
  | 0x0404 => some (.cqDestroy p)
  | 0x0405 => some (.sqCreate p)
  | 0x0406 => some (.sqDestroy p)
  | 0x0407 => some (.ctxCancel p)
  | 0x0408 => some (.objRegister p)
  | 0x0409 => some (.objRelease p)
  | 0x040A => some (.objQuery p)
  | 0x040B => some (.astagCreate p)
  | 0x040C => some (.astagDestroy p)
  | 0x040D => some (.winOpen p)
  | 0x040E => some (.winClose p)
  | 0x040F => some (.accSnapshot p)
  | 0x0501 => some (.belayAuditSet p)
  | 0x0502 => some (.belayWatch p)
  | 0x0503 => some (.belayHeldQuery p)
  | 0x0504 => some (.replicaDefine p)
  | 0x0505 => some (.replicaCheck p)
  | 0x0506 => some (.replicaExpel p)
  | 0x0507 => some (.fcRuleSet p)
  | 0x0508 => some (.fcInject p)
  | 0x0509 => some (.fcErrClear p)
  | 0x050A => some (.fcReactSet p)
  | 0x050B => some (.unitRetire p)
  | 0x050C => some (.testSet p)
  | 0x050D => some (.ledgerRead p)
  | 0x0601 => some (.tmGuard p)
  | 0x0602 => some (.tmResource p)
  | 0x0603 => some (.tmChip p)
  | 0x0701 => some (.ccRestart p)
  | 0x0702 => some (.engineReset p)
  | 0x0703 => some (.sliceReset p)
  | 0x0704 => some (.chipReset p)
  | 0x0705 => some (.powerCycle p)
  | 0x0706 => some (.vfQuiesce p)
  | 0x0707 => some (.vfResume p)
  | 0x0708 => some (.peerNotice p)
  | 0x0709 => some (.dumpTake p)
  | 0x070A => some (.dumpRead p)
  | 0x070B => some (.recoveryQuery p)
  | 0x070C => some (.chipNumberSet p)
  | 0x0801 => some (.grpDefine p)
  | 0x0802 => some (.grpCreate p)
  | 0x0803 => some (.grpDestroy p)
  | 0x0804 => some (.grpQuery p)
  | 0x0805 => some (.switchAttest p)
  | _ => none

/-- The paths with a packet in their intake, as R409 numbers them: 0 the mailbox, n + 1 function n. -/
def Fabric.waitingPaths (f : Fabric) : List Nat :=
  (if f.ctl.mailbox.isEmpty then [] else [0])
    ++ (f.fns.keysOf (fun _ x => !x.intake.isEmpty && x.waiting.isEmpty)).map (· + 1)

/-- The path served next: round-robin behind the one served last (R409). -/
def Fabric.nextPath (f : Fabric) : Option Nat :=
  let l := f.waitingPaths
  (l.find? (fun k => decide (f.ctl.rr < k))).or l.head?

/-- Take the first packet of a path's intake. -/
def Fabric.takePacket (f : Fabric) (k : Nat) : Option (Packet × Fabric) :=
  if k = 0 then
    match f.ctl.mailbox with
    | p :: t => some (p, f.onCtl (fun c => { c with mailbox := t, rr := 0 }))
    | [] => none
  else
    match (f.fn (k - 1)).intake with
    | p :: t => some (p.1, (f.onFn (k - 1) (fun x => { x with intake := t })).onCtl (fun c => { c with rr := k }))
    | [] => none
/-- The receipt of that packet: the order of the first descriptor accepted after it (R161). -/
def Fabric.receipt (f : Fabric) (k : Nat) : Option Nat := ((f.fn (k - 1)).intake.head?).map (·.2)

/-- A packet is accepted. The scope of CTX_CANCEL was fixed at its receipt (R161, R405). -/
def acceptPacket (p : Packet) (receipt : Option Nat) (s : State) : Host.Outcome State Fault Refusal :=
  match packetCommand p with
  | some (.ctxCancel p) => s.run (control (rowCtxCancelAt receipt) p)
  | some c => exec c s
  | none => s.run (controlWith unknownApply p)

/-- Nothing waits: the management block takes a record of the operator's FIFO (R353), and a nanosecond passes. -/
def Fabric.tick (f : Fabric) : Fabric := f.drainOper.advance (f.now + 1)
/-- One step with no command waiting. -/
def idle (s : State) : Host.Outcome State Fault Refusal :=
  if s.fab.inReset then .next s
  else
    match s.fab.nextPath with
    | none => s.run Fabric.tick
    | some k =>
      match s.fab.takePacket k with
      | none => s.run Fabric.tick
      | some (p, f) => acceptPacket p (s.fab.receipt k) { s with fab := f }

end Sys2Proof.Machine
end

