-- ==== Sys2Proof/Safety.lean ====
section
/-! DEFINITION. What counts as a good state of the machine, and the terms in which claims speak of a command: when a
control packet is taken and passes the checks of R412, what answers it, and what a command leaves alone. -/

namespace Sys2Proof.Machine

/-- Between commands: device memory is in its canonical form, and no write of a command is left over. -/
def State.Inv (s : State) : Prop := memWf s.fab.mem = true ∧ s.fab.writes = []

/-- The machine with another fabric and the same queue. -/
def State.fabric (s : State) (f : Fabric) : State := { s with fab := f }

/-- The state after a command that turns the fabric into `f` and drives `o`: nothing else changes. -/
def State.after (s : State) (f : Fabric) (o : List Out := []) : State :=
  { s with fab := { f with out := s.fab.out ++ o, writes := [] } }

/-- The state after a command whose effect on the fabric, from the one it found, is `g`: what it drove follows what was driven
before, and its memory writes have reached the memory. -/
def State.ends (s : State) (g : Fabric) : State := { s with fab := closeRun s.fab g }

/-! ### Control packets (R409, R412, R417) -/

/-- The control cores take the packet now: they run, its length is right, and its path lets it through. On the mailbox
its tag verifies under the key of its session, and its SEQ is new; on a function the reply ring is enabled and no earlier reply waits. -/
def Fabric.hears (f : Fabric) (p : Packet) : Bool :=
  f.coresUp && decide (p.len = 0x40) &&
    (match p.path with
     | .mailbox id => (match f.session? id with | some x => x.verifies p && decide (x.lastSeq < p.seq) | none => false)
     | .fn n => (f.fn n).ctlRing.enable && (f.fn n).waiting.isEmpty)

/-- The fabric with an accepted packet on its way: remembered, and its reply awaited. -/
def Fabric.taking (f : Fabric) (p : Packet) : Fabric :=
  let f := openRun f
  let f := match p.path with
    | .mailbox id => f.onSession id (fun t => t.remember p)
    | .fn _ => f
  f.onCtl (fun c => { c with awaiting := c.awaiting ++ [preq p] })

/-- The packet is taken and passes the checks of R412: its length (check 3), its sender's authority (check 5), and the
form that its opcode's row gives (check 6). -/
def Fabric.passes (f : Fabric) (row : Row) (p : Packet) : Bool :=
  f.hears p && row.authorised p (f.taking p) && row.formOk p (f.taking p)

/-- A reply to the packet can be written at once: the mailbox always takes it, a function's ring when it has room and no
function-level reset runs. -/
def Fabric.canAnswer (f : Fabric) (p : Packet) : Bool :=
  match p.path with
  | .mailbox _ => true
  | .fn n => !(f.fn n).silent && ringRoom (f.fn n).ctlRing

/-- Status, DETAIL and RESULT where an output is a reply to a request (R411). -/
def Out.answers (q : Req) : Out → Option Reply
  | .reply path _ b =>
    if path = q.path ∧ b.extractLsb' 0 16 = q.opcode ∧ b.extractLsb' 32 32 = q.seq then
      some { status := b.extractLsb' 16 8, detail := b.extractLsb' 192 16, result := b.extractLsb' 256 256 }
    else none
  | _ => none

/-- What a step drove outside. -/
def driven (s t : State) : List Out := t.fab.out.drop s.fab.out.length

/-- What a step left waiting at the host port: a write to host memory leaves when its last unit is granted (R205). -/
def queued (s t : State) : List Out :=
  ((t.fab.reg 48).waiting.filter (fun u => decide ((s.fab.reg 48).arrivals ≤ u.arrived))).flatMap (·.send)

/-- The step from `s` to `t` wrote the reply `r` to the packet: on the mailbox it left, and for a reply ring it left or
waits at the host port. -/
def Answered (s t : State) (p : Packet) (r : Reply) : Prop := r ∈ (driven s t ++ queued s t).filterMap (Out.answers (preq p))

/-- The reply `r` was written, where the packet's path can take a reply now. -/
def Answers (s t : State) (p : Packet) (r : Reply) : Prop := s.fab.canAnswer p = true → Answered s t p r

/-- The packet is accepted and remembered, its reply is awaited, and nothing has been driven yet. -/
def Waits (s t : State) (p : Packet) : Prop := t.fab.ctl = (s.fab.taking p).ctl ∧ driven s t = []

/-- A function without its reply ring and the replies that wait for room. -/
def Fn.unreplied (x : Fn) : Fn := { x with ctlRing := {}, waiting := [] }

/-- A regulator without its waiting units and their numbers. -/
def Reg.unoffered (x : Reg) : Reg := { x with waiting := [], nextTag := 0, arrivals := 0 }

/-- Everything but what the taking of a packet and the writing of its reply may touch: the packet state and the outputs,
and, for a packet of a function, its reply ring and what waits at the host port. -/
def Fabric.bare (f : Fabric) (p : Packet) : Fabric :=
  match p.path with
  | .mailbox _ => { f with ctl := {}, out := [], writes := [] }
  | .fn n => { f with ctl := {}, out := [], writes := [], fns := f.fns.upd n {} Fn.unreplied,
                      cleat := { f.cleat with regs := f.cleat.regs.upd 48 {} Reg.unoffered } }

/-! ### What else may be due -/

/-- A descriptor that no change of another one can complete: it is not stale, and it is neither conditional nor a gather. -/
def Desc.quiet (d : Desc) (x : Sq) : Bool := !d.stale && !(d.view x).cond && d.count.isNone
/-- A group that no change of a queue can move on: it is not READY, and it is not being destroyed. -/
def Group.quiet (g : Group) : Bool := g.running.isNone && g.destroy.isNone && g.state != 3

/-- Nothing that a change of the queues could complete is waiting: no stale or conditional descriptor, no cancellation and no
fault is open, no slack runs, no group is READY or being destroyed, no import runs, no replica check and no quiesce is in
progress, and no drain for a power cycle. -/
def Fabric.quiet (f : Fabric) : Bool :=
  f.sqs.all (fun e => e.2.cancels.isEmpty && e.2.descs.all (fun d => d.quiet e.2)) && f.slices.all (fun e => e.2.tu.faults.isEmpty)
    && f.frame.slackRun.isEmpty && f.splice.groups.all (fun g => g.2.quiet)
    && f.keys.imports.all (fun i => !i.begun && i.ended.isNone)
    && f.belay.replicas.all (fun r => r.2.result != 1) && f.fns.all (fun n => n.2.resetState != 1) && f.rs.l5Drain.isNone

end Sys2Proof.Machine
end

