-- ==== Sys2Proof/Certificates/Slice0/Obligations.lean ====
section
/-! DEFINITION. The statements about the model that the provers settle. Each docstring names the rules of the spec that
the statement formalises, or says that it rests on a choice of the model. -/

open Sys2Proof Sys2Proof.Machine

/-! ### Slice lifecycle (R59 to R65, R424) -/

/-- R59: SLICE_DEFINE writes one part of 32 bytes of the shadow record, of a slice that is FREE, DEFINING, or CREATED or
ACTIVE with no amendment pending; in any other state it is refused with STATE and changes nothing. -/
def Obligations.SliceDefineCollectsParts : Prop :=
  (∀ (s : State) (p : Packet), s.fab.passes rowSliceDefine p = true → (s.fab.slice (pslice p)).state = .free →
    ∃ t, exec (.sliceDefine p) s = .next t ∧ Answers s t p (repOk) ∧
      t.fab.bare p = (s.fab.onSlice (pslice p) (fun x => { x with
        state := .defining, shadow := recSetPart 0 (pfield p 0x18 1) (pdata p), parts := ofBits 16 [pfield p 0x18 1] })).bare p) ∧
  (∀ (s : State) (p : Packet), s.fab.passes rowSliceDefine p = true → (s.fab.slice (pslice p)).state = .defining →
    ∃ t, exec (.sliceDefine p) s = .next t ∧ Answers s t p (repOk) ∧
      t.fab.bare p = (s.fab.onSlice (pslice p) (fun x => { x with
        shadow := recSetPart x.shadow (pfield p 0x18 1) (pdata p), parts := x.parts ||| ofBits 16 [pfield p 0x18 1] })).bare p) ∧
  (∀ (s : State) (p : Packet), s.fab.passes rowSliceDefine p = true →
    (s.fab.slice (pslice p)).state = .created ∨ (s.fab.slice (pslice p)).state = .active →
    (s.fab.slice (pslice p)).amend = none →
    ∃ t, exec (.sliceDefine p) s = .next t ∧ Answers s t p (repOk) ∧
      t.fab.bare p = (s.fab.onSlice (pslice p) (fun x => { x with
        amendShadow := some (recSetPart (x.amendShadow.getD x.record) (pfield p 0x18 1) (pdata p)) })).bare p) ∧
  (∀ (s : State) (p : Packet), s.fab.passes rowSliceDefine p = true →
    (s.fab.slice (pslice p)).state = .resetting ∨ (s.fab.slice (pslice p)).state = .removing ∨
      (s.fab.slice (pslice p)).state = .whipping ∨
      (((s.fab.slice (pslice p)).state = .created ∨ (s.fab.slice (pslice p)).state = .active) ∧ (s.fab.slice (pslice p)).amend.isSome = true) →
    ∃ t, exec (.sliceDefine p) s = .next t ∧ Answers s t p (rep stState) ∧ t.fab.bare p = s.fab.bare p)

/-- R61, R62: SLICE_CREATE of a DEFINING slice runs the admission checks; it succeeds with the slice CREATED under the
shadow record, or answers CHECK_FAILED with the number of the failed check and changes nothing; of a slice in any other
state it is refused with STATE and changes nothing. -/
def Obligations.SliceCreateAdmitsOrNamesTheCheck : Prop :=
  (∀ (s : State) (p : Packet), s.fab.passes rowSliceCreate p = true → (s.fab.slice (pslice p)).state = .defining →
    s.fab.admitCreate (pslice p) = none →
    ∃ t, exec (.sliceCreate p) s = .next t ∧
      Answers s t p (repOk [(0x20, 1, 2), (0x22, 2, (s.fab.keyBaseFor (recMemKeys (s.fab.slice (pslice p)).shadow)).getD 8)]) ∧
      t.fab.bare p = (((s.fab.onSlice (pslice p) (fun x =>
        freshSlice x.shadow ((s.fab.keyBaseFor (recMemKeys (s.fab.slice (pslice p)).shadow)).getD 8))).fillCaps (pslice p)).onCleat
          (fun c => { c with freed := [] })).bare p) ∧
  (∀ (s : State) (p : Packet) (n : Nat), s.fab.passes rowSliceCreate p = true → (s.fab.slice (pslice p)).state = .defining →
    s.fab.admitCreate (pslice p) = some n →
    ∃ t, exec (.sliceCreate p) s = .next t ∧ Answers s t p (repCheck n) ∧ t.fab.bare p = s.fab.bare p) ∧
  (∀ (s : State) (p : Packet), s.fab.passes rowSliceCreate p = true → (s.fab.slice (pslice p)).state ≠ .defining →
    ∃ t, exec (.sliceCreate p) s = .next t ∧ Answers s t p (rep stState) ∧ t.fab.bare p = s.fab.bare p)

/-- R63, R64, R65: SLICE_ACTIVATE of a CREATED slice with none pending waits, with 64 frames to go; SLICE_AMEND of a CREATED
or ACTIVE slice with none pending waits where the record passes its checks, and is answered with the check's number where it
fails one; each is refused with STATE in any other state, or while another is pending, and changes nothing. -/
def Obligations.SliceActivateAndAmendWaitForABoundary : Prop :=
  (∀ (s : State) (p : Packet), s.fab.passes rowSliceActivate p = true → (s.fab.slice (pslice p)).state = .created →
    (s.fab.slice (pslice p)).activate = none →
    ∃ t, exec (.sliceActivate p) s = .next t ∧ Waits s t p ∧
      t.fab.bare p = (s.fab.onSlice (pslice p) (fun x => { x with activate := some (preq p, 64) })).bare p) ∧
  (∀ (s : State) (p : Packet), s.fab.passes rowSliceAmend p = true →
    (s.fab.slice (pslice p)).state = .created ∨ (s.fab.slice (pslice p)).state = .active →
    (s.fab.slice (pslice p)).amend = none →
    s.fab.admitAmend (pslice p) ((s.fab.slice (pslice p)).amendShadow.getD (s.fab.slice (pslice p)).record) = none →
    ∃ t, exec (.sliceAmend p) s = .next t ∧ Waits s t p ∧
      t.fab.bare p = (s.fab.onSlice (pslice p) (fun x =>
        let new := (s.fab.slice (pslice p)).amendShadow.getD (s.fab.slice (pslice p)).record
        { x with amend := some (preq p), amendRec := s.fab.amendTo x.record new, amendShadow := none })).bare p) ∧
  (∀ (s : State) (p : Packet) (n : Nat), s.fab.passes rowSliceAmend p = true →
    (s.fab.slice (pslice p)).state = .created ∨ (s.fab.slice (pslice p)).state = .active →
    (s.fab.slice (pslice p)).amend = none →
    s.fab.admitAmend (pslice p) ((s.fab.slice (pslice p)).amendShadow.getD (s.fab.slice (pslice p)).record) = some n →
    ∃ t, exec (.sliceAmend p) s = .next t ∧ Answers s t p (repCheck n) ∧ t.fab.bare p = s.fab.bare p) ∧
  (∀ (s : State) (p : Packet), s.fab.passes rowSliceActivate p = true →
    (s.fab.slice (pslice p)).state ≠ .created ∨ (s.fab.slice (pslice p)).activate.isSome = true →
    ∃ t, exec (.sliceActivate p) s = .next t ∧ Answers s t p (rep stState) ∧ t.fab.bare p = s.fab.bare p) ∧
  (∀ (s : State) (p : Packet), s.fab.passes rowSliceAmend p = true →
    ((s.fab.slice (pslice p)).state ≠ .created ∧ (s.fab.slice (pslice p)).state ≠ .active) ∨ (s.fab.slice (pslice p)).amend.isSome = true →
    ∃ t, exec (.sliceAmend p) s = .next t ∧ Answers s t p (rep stState) ∧ t.fab.bare p = s.fab.bare p)

/-! ### Frame tables (R79, R86, R87, R425) -/

/-- R86, R87, R425: with no switch pending FTAB_HEADER and FTAB_WRITE replace one half of 32 bytes in the shadow bank and
clear its passed check, and nothing else changes. FTAB_CHECK records and answers the outcome of the install checks; FTAB_SWITCH
of a checked shadow bank waits for the frame it names, but not for one that has begun or whose boundary is already fixed, and is
refused while another is pending or the bank is not checked; FTAB_QUERY answers the status, a half of a bank's header, or a half
of an entry with the trim steps of an active one, and only reads; FRAME_SYNC_SET is kept for the next boundary. -/
def Obligations.FrameTablePackets : Prop :=
  (∀ (s : State) (p : Packet), s.fab.passes rowFtabHeader p = true → s.fab.frame.switch = none →
    ∃ t, exec (.ftabHeader p) s = .next t ∧ Answers s t p (repOk) ∧
      t.fab.bare p = (s.fab.onFrame (fun fr =>
        let b : Bank := { fr.shadowBank with header := setField fr.shadowBank.header (32 * pfield p 0x18 1) 32 (pdata p).toNat }
        { fr.setShadow b with checked := false, checkResult := 0 })).bare p) ∧
  (∀ (s : State) (p : Packet), s.fab.passes rowFtabWrite p = true → s.fab.frame.switch = none →
    ∃ t, exec (.ftabWrite p) s = .next t ∧ Answers s t p (repOk) ∧
      t.fab.bare p = (s.fab.onFrame (fun fr =>
        let e := setField (bankEntry fr.shadowBank (pfield p 0x18 2)) (32 * pfield p 0x1A 1) 32 (pdata p).toNat
        let b : Bank := { fr.shadowBank with entries := fr.shadowBank.entries.put (pfield p 0x18 2) e }
        { fr.setShadow b with checked := false, checkResult := 0 })).bare p) ∧
  (∀ (fr : Frame) (b : Bank), (fr.setShadow b).shadowBank = b ∧ (fr.setShadow b).bank = fr.bank) ∧
  (∀ (s : State) (p : Packet), s.fab.passes rowFtabCheck p = true → s.fab.checkTable = none →
    ∃ t, exec (.ftabCheck p) s = .next t ∧ Answers s t p (repOk) ∧
      t.fab.bare p = (s.fab.onFrame (fun fr => { fr with checked := true, checkResult := 1, lastCheck := 0, lastEntry := 0 })).bare p) ∧
  (∀ (s : State) (p : Packet) (n i : Nat), s.fab.passes rowFtabCheck p = true → s.fab.checkTable = some (n, i) →
    ∃ t, exec (.ftabCheck p) s = .next t ∧
      Answers s t p { status := stCheck, detail := BitVec.ofNat 16 n, result := result [(0x20, 2, i)] } ∧
      t.fab.bare p = (s.fab.onFrame (fun fr => { fr with checked := false, checkResult := 2, lastCheck := n, lastEntry := i })).bare p) ∧
  (∀ (s : State) (p : Packet), s.fab.passes rowFtabSwitch p = true → s.fab.frame.switch = none → s.fab.frame.checked = true →
    ∃ t, exec (.ftabSwitch p) s = .next t ∧ Waits s t p ∧
      t.fab.bare p = (s.fab.onFrame (fun fr =>
        let w : Switch := { due := max (fr.frameNum + (if s.fab.boundaryFixed then 2 else 1)) (pfield p 0x18 8), req := some (preq p) }
        { fr with switch := some w })).bare p) ∧
  (∀ (s : State) (p : Packet), s.fab.passes rowFtabSwitch p = true →
    s.fab.frame.switch ≠ none ∨ s.fab.frame.checked = false →
    ∃ t, exec (.ftabSwitch p) s = .next t ∧ Answers s t p (rep stState) ∧ t.fab.bare p = s.fab.bare p) ∧
  (∀ (s : State) (p : Packet), s.fab.passes rowFtabQuery p = true → pfield p 0x18 1 = 0 →
    ∃ t, exec (.ftabQuery p) s = .next t ∧ t.fab.bare p = s.fab.bare p ∧
      Answers s t p (repOk [(0x20, 8, s.fab.frameStatusWord.toNat), (0x28, 8, (s.fab.frame.switch.map (·.due)).getD 0),
        (0x30, 1, s.fab.frame.checkResult), (0x31, 1, s.fab.frame.lastCheck), (0x32, 2, s.fab.frame.lastEntry)])) ∧
  (∀ (s : State) (p : Packet) (b : Bank), s.fab.passes rowFtabQuery p = true → 1 ≤ pfield p 0x18 1 → pfield p 0x18 1 ≤ 2 →
    b = (if pfield p 0x19 1 = 1 then s.fab.frame.shadowBank else s.fab.frame.bank) →
    ∃ t, exec (.ftabQuery p) s = .next t ∧ t.fab.bare p = s.fab.bare p ∧
      Answers s t p { status := stOk, result := b.header.extractLsb' (256 * (pfield p 0x18 1 - 1)) 256 }) ∧
  (∀ (s : State) (p : Packet) (b : Bank), s.fab.passes rowFtabQuery p = true → 3 ≤ pfield p 0x18 1 →
    b = (if pfield p 0x19 1 = 1 then s.fab.frame.shadowBank else s.fab.frame.bank) →
    ∃ t, exec (.ftabQuery p) s = .next t ∧ t.fab.bare p = s.fab.bare p ∧
      Answers s t p { status := stOk, result := (bankEntry b (pfield p 0x1A 2)).extractLsb' (256 * (pfield p 0x18 1 - 3)) 256,
                      detail := if pfield p 0x19 1 = 1 then 0 else BitVec.ofNat 16 (s.fab.frame.trims.getD (pfield p 0x1A 2) {}).steps }) ∧
  (∀ (s : State) (p : Packet), s.fab.passes rowFrameSyncSet p = true →
    ∃ t, exec (.frameSyncSet p) s = .next t ∧ Waits s t p ∧
      t.fab.bare p = (s.fab.onSync (fun y =>
        let w : SyncSet := { mode := pfield p 0x18 1, port := pfield p 0x19 1, pinDelay := pfield p 0x1A 2, adopt := pfield p 0x20 8, req := preq p }
        { y with waiting := y.waiting ++ [w] })).bare p)

/-! ### Keys, imports, reports and debug (R306 to R326, R426) -/

/-- R306, R307: KEY_STAGE stores one part of the staged blob; KEY_INSTALL clears the staging buffer, and either names the
first of checks 1 to 6 that fails or asks the security block to unwrap the blob, its reply awaited. R317, R318, R339:
KEY_DESTROY is refused with STATE for a key of a slice that is leaving and for selector 0 of one that is ACTIVE or RESETTING;
for a slot that the slice has not, or that is not INSTALLED, it answers the slot's state at once; an INSTALLED slot becomes
REVOKING, what is held under it ends as R317 says, and the reply waits. -/
def Obligations.KeysAreStagedInstalledAndRevoked : Prop :=
  (∀ (s : State) (p : Packet), s.fab.passes rowKeyStage p = true →
    ∃ t, exec (.keyStage p) s = .next t ∧ Answers s t p (repOk) ∧
      t.fab.bare p = (s.fab.onKeys (fun k => { k with staging := k.staging.put (pfield p 0x18 1) (pdata p) })).bare p) ∧
  (∀ (s : State) (p : Packet) (kind index : Nat) (tag : BitVec 16), s.fab.passes rowKeyInstall p = true →
    kind = pfield p 0x18 1 → index = pfield p 0x1A 2 → tag = BitVec.ofNat 16 (pfield p 0x1C 2) →
    (List.range 4).all (fun i => (s.fab.keys.staging.find i).isSome) = true → blobOk s.fab.keys.blob kind = true →
    (if kind ≤ 2 then s.fab.sliceUp (pslice p) else pslice p == 0) = true →
    s.fab.installIndexOk (pslice p) kind index = true → s.fab.installFree (pslice p) kind index = true →
    s.fab.installTagOk kind tag = true →
    ∃ t, exec (.keyInstall p) s = .next t ∧ t.fab.ctl = (s.fab.taking p).ctl ∧
      driven s t = [.keyPort keyUnwrap (slotArg kind index) s.fab.keys.blob] ∧
      t.fab.bare p = (s.fab.onKeys (fun k => { k with staging := [], installing := k.installing ++
        [⟨preq p, pslice p, kind, index, tag, BitVec.ofNat 32 (field s.fab.keys.blob 8 4), s.fab.now⟩] })).bare p) ∧
  (∀ (s : State) (p : Packet) (kind index n : Nat) (tag : BitVec 16), s.fab.passes rowKeyInstall p = true →
    kind = pfield p 0x18 1 → index = pfield p 0x1A 2 → tag = BitVec.ofNat 16 (pfield p 0x1C 2) →
    firstFail [(1, (List.range 4).all (fun i => (s.fab.keys.staging.find i).isSome)), (2, blobOk s.fab.keys.blob kind),
      (3, if kind ≤ 2 then s.fab.sliceUp (pslice p) else pslice p == 0), (4, s.fab.installIndexOk (pslice p) kind index),
      (5, s.fab.installFree (pslice p) kind index), (6, s.fab.installTagOk kind tag)] = some n →
    ∃ t, exec (.keyInstall p) s = .next t ∧ Answers s t p (repCheck n) ∧
      t.fab.bare p = (s.fab.onKeys (fun k => { k with staging := [] })).bare p) ∧
  (∀ (s : State) (p : Packet) (kind index : Nat) (st : SliceState), s.fab.passes rowKeyDestroy p = true →
    kind = pfield p 0x18 1 → index = pfield p 0x1A 2 → st = (s.fab.slice (pslice p)).state →
    kind ≤ 2 → (leaving st = true ∨ (kind = 0 ∧ index = 0 ∧ (st = .active ∨ st = .resetting))) →
    ∃ t, exec (.keyDestroy p) s = .next t ∧ Answers s t p (rep stState) ∧ t.fab.bare p = s.fab.bare p) ∧
  (∀ (s : State) (p : Packet) (kind index : Nat) (st : SliceState), s.fab.passes rowKeyDestroy p = true →
    kind = pfield p 0x18 1 → index = pfield p 0x1A 2 → st = (s.fab.slice (pslice p)).state →
    (kind ≤ 2 → leaving st = false ∧ (kind = 0 → index = 0 → st ≠ .active ∧ st ≠ .resetting)) →
    (s.fab.slotIndex (pslice p) kind index = none →
      ∃ t, exec (.keyDestroy p) s = .next t ∧ Answers s t p (repOk) ∧ t.fab.bare p = s.fab.bare p) ∧
    (∀ k, s.fab.slotIndex (pslice p) kind index = some k → s.fab.slotState kind k ≠ 1 →
      ∃ t, exec (.keyDestroy p) s = .next t ∧ Answers s t p (repOk [(0x20, 1, s.fab.slotState kind k)]) ∧ t.fab.bare p = s.fab.bare p) ∧
    (∀ (k : Nat) (f : Fabric), s.fab.slotIndex (pslice p) kind index = some k → s.fab.slotState kind k = 1 →
      f = ((s.fab.taking p).setSlot kind k 2).revokeHoldings (pslice p) kind index →
      exec (.keyDestroy p) s = .next (s.ends (f.onKeys (fun y => { y with
        revokes := y.revokes ++ [⟨pslice p, kind, k, some (preq p), false, false, f.now, 0⟩] })).settle)) ∧
    (∀ k, s.fab.slotIndex (pslice p) kind index = some k → s.fab.slotState kind k = 1 → s.fab.quiet = true →
      (kind = 0 → s.fab.keyHolders (pslice p) 0 index = []) → (kind = 1 → s.fab.keys.imports = []) →
      (kind = 2 → s.fab.keyHolders (pslice p) 2 index = [] ∧ s.fab.windows = [] ∧ s.fab.splice.groups = []) →
      ∃ t, exec (.keyDestroy p) s = .next t ∧ Waits s t p ∧
        t.fab.bare p = ((s.fab.setSlot kind k 2).onKeys (fun y => { y with revokes := y.revokes ++
          [⟨pslice p, kind, k, some (preq p), false, false, s.fab.now, 0⟩] })).bare p))

/-- R322, R325: WEIGHT_IMPORT of a CREATED or ACTIVE slice with its CONTENT key installed joins the imports, of which one runs
and at most four wait, and begins where none runs; a sixth is answered FULL; without the state or the key it is refused with
STATE. ATTEST_REPORT of a slice that is CREATED, ACTIVE or RESETTING waits for the next boundary, with the place that its path
gives the report, and is refused with STATE for any other slice and on a function that has set no place. The reply of each waits. -/
def Obligations.ImportsAndReportsAreQueued : Prop :=
  (∀ (s : State) (p : Packet) (k : Nat) (i : Import), s.fab.passes rowWeightImport p = true →
    (s.fab.slice (pslice p)).state = .created ∨ (s.fab.slice (pslice p)).state = .active →
    s.fab.slotIndex (pslice p) 1 (pfield p 0x18 2) = some k → s.fab.slotState 1 k = 1 → s.fab.keys.imports.length < 5 →
    i = { req := preq p, slice := pslice p, selector := pfield p 0x18 2, srcTag := pfield p 0x1A 2, dstTag := pfield p 0x1C 2,
          srcVa := pfield p 0x20 8, dstVa := pfield p 0x28 8 } →
    ∃ t, exec (.weightImport p) s = .next t ∧ Waits s t p ∧ t.fab.bare p = (s.fab.onKeys (fun k => { k with imports :=
      if k.imports = [] then [s.fab.beginImport i] else (match k.imports with
        | j :: l => (if j.begun then j else s.fab.beginImport j) :: l ++ [i]
        | [] => []) })).bare p) ∧
  (∀ (s : State) (p : Packet) (k : Nat), s.fab.passes rowWeightImport p = true →
    (s.fab.slice (pslice p)).state = .created ∨ (s.fab.slice (pslice p)).state = .active →
    s.fab.slotIndex (pslice p) 1 (pfield p 0x18 2) = some k → s.fab.slotState 1 k = 1 → 5 ≤ s.fab.keys.imports.length →
    ∃ t, exec (.weightImport p) s = .next t ∧ Answers s t p (rep stFull) ∧ t.fab.bare p = s.fab.bare p) ∧
  (∀ (s : State) (p : Packet), s.fab.passes rowWeightImport p = true →
    ((s.fab.slice (pslice p)).state ≠ .created ∧ (s.fab.slice (pslice p)).state ≠ .active) ∨
      (∀ k, s.fab.slotIndex (pslice p) 1 (pfield p 0x18 2) = some k → s.fab.slotState 1 k ≠ 1) →
    ∃ t, exec (.weightImport p) s = .next t ∧ Answers s t p (rep stState) ∧ t.fab.bare p = s.fab.bare p) ∧
  (∀ (s : State) (p : Packet) (id : BitVec 32), s.fab.passes rowAttestReport p = true → p.path = .mailbox id →
    s.fab.sliceUp (pslice p) = true →
    ∃ t, exec (.attestReport p) s = .next t ∧ Waits s t p ∧
      t.fab.bare p = (s.fab.onSlice (pslice p) (fun x => { x with attestReqs := x.attestReqs ++ [(preq p, 0, pdata p)] })).bare p) ∧
  (∀ (s : State) (p : Packet) (n : Nat), s.fab.passes rowAttestReport p = true → p.path = .fn n →
    bitAt (s.fab.fn n).attest 0 = true → s.fab.sliceUp (pslice p) = true →
    ∃ t, exec (.attestReport p) s = .next t ∧ Waits s t p ∧
      t.fab.bare p = (s.fab.onSlice (pslice p) (fun x => { x with attestReqs := x.attestReqs ++
        [(preq p, ((s.fab.fn n).attest.extractLsb' 12 52).toNat * 4096, pdata p)] })).bare p) ∧
  (∀ (s : State) (p : Packet), s.fab.passes rowAttestReport p = true →
    s.fab.sliceUp (pslice p) = false ∨ (∃ n, p.path = .fn n ∧ bitAt (s.fab.fn n).attest 0 = false) →
    ∃ t, exec (.attestReport p) s = .next t ∧ Answers s t p (rep stState) ∧ t.fab.bare p = s.fab.bare p)

/-- R326, R327: DEBUG_OPEN takes the lowest free session of four, for one slice that is CREATED, ACTIVE or RESETTING or for the
chip, under the session of its sender; the EXPOSURE of the slice, or for a chip session of every slice that is CREATED, ACTIVE
or RESETTING, counts it, and one with TAP access counts in the chip's own count too. With all four open it is answered FULL, and
for another slice it is refused with STATE. DEBUG_CLOSE closes an open session, and with none left that carries TAP the test port
is locked; a session that is not open is refused with STATE. -/
def Obligations.DebugSessionsAndTheirExposure : Prop :=
  (∀ (s : State) (p : Packet) (n : Nat) (id : BitVec 32), s.fab.passes rowDebugOpen p = true → p.path = .mailbox id →
    pfield p 0x18 1 = 0 → s.fab.sliceUp (pslice p) = true → s.fab.keys.dbg.lowestFree 0 4 = some n →
    ∃ t, exec (.debugOpen p) s = .next t ∧ Answers s t p (repOk [(0x20, 1, n)]) ∧
      t.fab.bare p = ((s.fab.onKeys (fun k => { k with
        dbg := k.dbg.put n { chip := false, slice := pslice p, access := pfield p 0x19 1, owner := id },
        tapExposure := if 8 ≤ pfield p 0x19 1 then satAdd 32 k.tapExposure 1 else k.tapExposure })).onSlice (pslice p)
          (fun x => { x with exposure := satAdd 32 x.exposure 1 })).bare p) ∧
  (∀ (s : State) (p : Packet) (n : Nat) (id : BitVec 32), s.fab.passes rowDebugOpen p = true → p.path = .mailbox id →
    pfield p 0x18 1 = 1 → s.fab.keys.dbg.lowestFree 0 4 = some n →
    ∃ t, exec (.debugOpen p) s = .next t ∧ Answers s t p (repOk [(0x20, 1, n)]) ∧
      t.fab.bare p = ((s.fab.slicesIn (fun x => x == .created || x == .active || x == .resetting)).foldl
        (fun f k => f.onSlice k (fun x => { x with exposure := satAdd 32 x.exposure 1 })) (s.fab.onKeys (fun k => { k with
          dbg := k.dbg.put n { chip := true, slice := 64, access := pfield p 0x19 1, owner := id },
          tapExposure := if 8 ≤ pfield p 0x19 1 then satAdd 32 k.tapExposure 1 else k.tapExposure }))).bare p) ∧
  (∀ (s : State) (p : Packet), s.fab.passes rowDebugOpen p = true →
    pfield p 0x18 1 = 1 ∨ s.fab.sliceUp (pslice p) = true → s.fab.keys.dbg.lowestFree 0 4 = none →
    ∃ t, exec (.debugOpen p) s = .next t ∧ Answers s t p (rep stFull) ∧ t.fab.bare p = s.fab.bare p) ∧
  (∀ (s : State) (p : Packet), s.fab.passes rowDebugOpen p = true → pfield p 0x18 1 = 0 → s.fab.sliceUp (pslice p) = false →
    ∃ t, exec (.debugOpen p) s = .next t ∧ Answers s t p (rep stState) ∧ t.fab.bare p = s.fab.bare p) ∧
  (∀ (s : State) (p : Packet), s.fab.passes rowDebugClose p = true → (s.fab.keys.dbg.find (pfield p 0x18 1)).isSome = true →
    ∃ t, exec (.debugClose p) s = .next t ∧ Answers s t p (repOk) ∧
      t.fab.bare p = ((s.fab.onKeys (fun k => { k with dbg := k.dbg.del (pfield p 0x18 1) })).lockTap).bare p) ∧
  (∀ f : Fabric, (f.tapOpen = true → f.lockTap = f) ∧ (f.tapOpen = false → f.lockTap = { f with tap := { ir := 0x01 } })) ∧
  (∀ (s : State) (p : Packet), s.fab.passes rowDebugClose p = true → (s.fab.keys.dbg.find (pfield p 0x18 1)).isSome = false →
    ∃ t, exec (.debugClose p) s = .next t ∧ Answers s t p (rep stState) ∧ t.fab.bare p = s.fab.bare p)
/-! ### Functions and queues (R48, R136 to R139, R427) -/

/-- R48, R136: VF_ENABLE puts a VF that is in no slice into a slice that takes objects, up to the slice's VF count, past which it
answers FULL; a VF that is in a slice, or a slice that takes no objects, is refused with STATE. VF_DISABLE takes out one that holds
no queue and no live handle; one that holds some, or is in no slice, is refused with STATE. -/
def Obligations.VfEnableAndDisable : Prop :=
  (∀ (s : State) (p : Packet), s.fab.passes rowVfEnable p = true → s.fab.sliceTakes (pslice p) = true →
    (s.fab.fn (pfield p 0x18 1)).slice = none →
    (s.fab.vfsOf (pslice p)).length < recVfs (s.fab.slice (pslice p)).record →
    ∃ t, exec (.vfEnable p) s = .next t ∧ Answers s t p (repOk) ∧
      t.fab.bare p = (s.fab.onFn (pfield p 0x18 1) (fun x => { x with slice := some (pslice p), resetState := 0 })).bare p) ∧
  (∀ (s : State) (p : Packet), s.fab.passes rowVfEnable p = true → s.fab.sliceTakes (pslice p) = true →
    (s.fab.fn (pfield p 0x18 1)).slice = none →
    recVfs (s.fab.slice (pslice p)).record ≤ (s.fab.vfsOf (pslice p)).length →
    ∃ t, exec (.vfEnable p) s = .next t ∧ Answers s t p (rep stFull) ∧ t.fab.bare p = s.fab.bare p) ∧
  (∀ (s : State) (p : Packet), s.fab.passes rowVfEnable p = true →
    s.fab.sliceTakes (pslice p) = false ∨ (s.fab.fn (pfield p 0x18 1)).slice.isSome = true →
    ∃ t, exec (.vfEnable p) s = .next t ∧ Answers s t p (rep stState) ∧ t.fab.bare p = s.fab.bare p) ∧
  (∀ (s : State) (p : Packet), s.fab.passes rowVfDisable p = true → (s.fab.fn (pfield p 0x18 1)).slice.isSome = true →
    s.fab.fnBusy (pfield p 0x18 1) = false →
    ∃ t, exec (.vfDisable p) s = .next t ∧ Answers s t p (repOk) ∧
      t.fab.bare p = (s.fab.onFn (pfield p 0x18 1) (fun x => { x with slice := none })).bare p) ∧
  (∀ (s : State) (p : Packet), s.fab.passes rowVfDisable p = true →
    (s.fab.fn (pfield p 0x18 1)).slice = none ∨ s.fab.fnBusy (pfield p 0x18 1) = true →
    ∃ t, exec (.vfDisable p) s = .next t ∧ Answers s t p (rep stState) ∧ t.fab.bare p = s.fab.bare p)

/-- R138, R139: CQ_CREATE makes a completion queue at the function's lowest free index, or answers FULL with all 64 in use, and is
refused with STATE where the slice takes no objects or the function is not in it. CQ_DESTROY removes a queue that no submission
queue names, and is refused with STATE where one does or there is none. -/
def Obligations.CompletionQueueCreateAndDestroy : Prop :=
  (∀ (s : State) (p : Packet) (k : Nat) (c : Cq), s.fab.passes rowCqCreate p = true → s.fab.sliceTakes (pslice p) = true →
    s.fab.fnIn (pfield p 0x18 1) (pslice p) = true → (s.fab.fn (pfield p 0x18 1)).cqs.lowestFree 0 64 = some k →
    c = { log2 := pfield p 0x19 1, addr := pfield p 0x20 8, vector := pfield p 0x1A 1, coalesceNs := pfield p 0x1C 2 } →
    ∃ t, exec (.cqCreate p) s = .next t ∧ Answers s t p (repOk [(0x20, 1, k)]) ∧
      t.fab.bare p = (s.fab.onFn (pfield p 0x18 1) (fun x => { x with cqs := x.cqs.put k c })).bare p) ∧
  (∀ (s : State) (p : Packet), s.fab.passes rowCqCreate p = true → s.fab.sliceTakes (pslice p) = true →
    s.fab.fnIn (pfield p 0x18 1) (pslice p) = true → (s.fab.fn (pfield p 0x18 1)).cqs.lowestFree 0 64 = none →
    ∃ t, exec (.cqCreate p) s = .next t ∧ Answers s t p (rep stFull) ∧ t.fab.bare p = s.fab.bare p) ∧
  (∀ (s : State) (p : Packet), s.fab.passes rowCqCreate p = true →
    s.fab.sliceTakes (pslice p) = false ∨ s.fab.fnIn (pfield p 0x18 1) (pslice p) = false →
    ∃ t, exec (.cqCreate p) s = .next t ∧ Answers s t p (rep stState) ∧ t.fab.bare p = s.fab.bare p) ∧
  (∀ (s : State) (p : Packet), s.fab.passes rowCqDestroy p = true →
    (s.fab.cq? (pfield p 0x18 1) (pfield p 0x19 1)).isSome = true →
    s.fab.sqs.any (fun e => e.2.fn == pfield p 0x18 1 && e.2.cq == pfield p 0x19 1) = false →
    ∃ t, exec (.cqDestroy p) s = .next t ∧ Answers s t p (repOk) ∧
      t.fab.bare p = (s.fab.onFn (pfield p 0x18 1) (fun x => { x with cqs := x.cqs.del (pfield p 0x19 1) })).bare p) ∧
  (∀ (s : State) (p : Packet), s.fab.passes rowCqDestroy p = true → s.fab.cq? (pfield p 0x18 1) (pfield p 0x19 1) = none ∨
      s.fab.sqs.any (fun e => e.2.fn == pfield p 0x18 1 && e.2.cq == pfield p 0x19 1) = true →
    ∃ t, exec (.cqDestroy p) s = .next t ∧ Answers s t p (rep stState) ∧ t.fab.bare p = s.fab.bare p)

/-- R136, R137, R138, R161: SQ_CREATE makes a queue whose ring lies in its slice's memory, and answers FORM where it does not, FULL
where the slice or the function has no queue left, and STATE for a queue that exists, a completion queue that does not, or a slice
that takes no objects. SQ_DESTROY makes a queue DRAINING and waits for what it holds to commit, and frees an empty queue at once;
with MODE 1 every descriptor that the queue holds is first ended CANCELLED, as `endDesc` does it. It is refused with STATE for no
queue, for one being destroyed, of a slice that is leaving, or, with MODE 0, HALTED. -/
def Obligations.SubmissionQueueCreateAndDestroy : Prop :=
  (∀ (s : State) (p : Packet) (sl j stack base : Nat) (x : Sq), s.fab.passes rowSqCreate p = true →
    sl = (if pfield p 0x1A 1 = 0 then pslice p else ((s.fab.fn (pfield p 0x1A 1)).slice).getD 64) →
    s.fab.sliceTakes sl = true → ringPlace (s.fab.slice sl) p = some (stack, base) →
    s.fab.sq? (pfield p 0x18 2) = none → (s.fab.cq? (pfield p 0x1A 1) (pfield p 0x1E 1)).isSome = true →
    (s.fab.queuesOf (fun y => y.slice == sl)).length < recQueues (s.fab.slice sl).record →
    (s.fab.fn (pfield p 0x1A 1)).sqs.lowestFree 0 64 = some j →
    x = { fn := pfield p 0x1A 1, loc := j, slice := sl, gen := pfield p 0x1B 1, ringLog2 := pfield p 0x1C 1, ringStack := stack,
          ringBase := base, cq := pfield p 0x1E 1, defBudget := pfield p 0x24 2, defFlags := BitVec.ofNat 8 (pfield p 0x1F 1),
          formWait := pfield p 0x26 2 } →
    ∃ t, exec (.sqCreate p) s = .next t ∧ Answers s t p (repOk [(0x20, 1, j)]) ∧
      t.fab.bare p = (({ s.fab with sqs := s.fab.sqs.put (pfield p 0x18 2) x } : Fabric).onFn (pfield p 0x1A 1) (fun y => { y with sqs := y.sqs.put j (pfield p 0x18 2) })).bare p) ∧
  (∀ (s : State) (p : Packet) (sl : Nat), s.fab.passes rowSqCreate p = true →
    sl = (if pfield p 0x1A 1 = 0 then pslice p else ((s.fab.fn (pfield p 0x1A 1)).slice).getD 64) →
    (s.fab.sliceTakes sl = false ∨ ((ringPlace (s.fab.slice sl) p).isSome = true ∧
        ((s.fab.sq? (pfield p 0x18 2)).isSome = true ∨ s.fab.cq? (pfield p 0x1A 1) (pfield p 0x1E 1) = none)) →
      ∃ t, exec (.sqCreate p) s = .next t ∧ Answers s t p (rep stState) ∧ t.fab.bare p = s.fab.bare p) ∧
    (s.fab.sliceTakes sl = true → ringPlace (s.fab.slice sl) p = none →
      ∃ t, exec (.sqCreate p) s = .next t ∧ Answers s t p (rep stForm) ∧ t.fab.bare p = s.fab.bare p) ∧
    (s.fab.sliceTakes sl = true → (ringPlace (s.fab.slice sl) p).isSome = true → s.fab.sq? (pfield p 0x18 2) = none →
      (s.fab.cq? (pfield p 0x1A 1) (pfield p 0x1E 1)).isSome = true →
      recQueues (s.fab.slice sl).record ≤ (s.fab.queuesOf (fun y => y.slice == sl)).length ∨ (s.fab.fn (pfield p 0x1A 1)).sqs.lowestFree 0 64 = none →
      ∃ t, exec (.sqCreate p) s = .next t ∧ Answers s t p (rep stFull) ∧ t.fab.bare p = s.fab.bare p)) ∧
  (∀ (s : State) (p : Packet) (q : Nat) (x : Sq) (f g : Fabric), s.fab.passes rowSqDestroy p = true →
    (s.fab.fn (pfield p 0x18 1)).sqs.find (pfield p 0x19 1) = some q → s.fab.sq? q = some x → x.destroy = none →
    leaving (s.fab.slice x.slice).state = false → (pfield p 0x1A 1 ≠ 1 → x.state ≠ 3) →
    f = (s.fab.taking p).onSq q (fun x => { x with state := 2, destroy := some (preq p) }) →
    g = (if pfield p 0x1A 1 = 1 then x.descs.foldl (fun f d => f.endDesc q d.seq 2 false) f else f) →
    exec (.sqDestroy p) s = .next (s.ends (g.settleDestroy q).settle)) ∧
  (∀ (s : State) (p : Packet) (q : Nat) (x : Sq), s.fab.passes rowSqDestroy p = true →
    (s.fab.fn (pfield p 0x18 1)).sqs.find (pfield p 0x19 1) = some q → s.fab.sq? q = some x → x.destroy = none →
    leaving (s.fab.slice x.slice).state = false → s.fab.quiet = true →
    (pfield p 0x1A 1 ≠ 1 → x.state ≠ 3 → x.accepted ≠ x.commit →
      ∃ t, exec (.sqDestroy p) s = .next t ∧ Waits s t p ∧
        t.fab.bare p = (s.fab.onSq q (fun x => { x with state := 2, destroy := some (preq p) })).bare p) ∧
    (pfield p 0x1A 1 = 1 ∨ x.state ≠ 3 → (pfield p 0x1A 1 = 1 → x.descs = []) → x.accepted = x.commit →
      ∃ t, exec (.sqDestroy p) s = .next t ∧ Answers s t p (repOk) ∧
        t.fab.bare p = (({ s.fab with sqs := (s.fab.sqs.onKey q (fun x => { x with state := 2, destroy := some (preq p) })).del q } :
          Fabric).onFn x.fn (fun y => { y with sqs := y.sqs.del x.loc })).bare p)) ∧
  (∀ (s : State) (p : Packet) (q : Nat), s.fab.passes rowSqDestroy p = true →
    (s.fab.fn (pfield p 0x18 1)).sqs.find (pfield p 0x19 1) = none ∨ ((s.fab.fn (pfield p 0x18 1)).sqs.find (pfield p 0x19 1) = some q ∧
      (s.fab.sq? q = none ∨ ∃ x, s.fab.sq? q = some x ∧ (x.destroy.isSome = true ∨ leaving (s.fab.slice x.slice).state = true ∨
        (pfield p 0x1A 1 = 0 ∧ x.state = 3)))) →
    ∃ t, exec (.sqDestroy p) s = .next t ∧ Answers s t p (rep stState) ∧ t.fab.bare p = s.fab.bare p)

/-- R161, R379: CTX_CANCEL that names no queue is answered at once and changes nothing, and one that names a queue of a slice that
is leaving is refused with STATE. Any other gives each queue that it names a cancellation with the queue's ACCEPTED pointer as the end of
its scope, and each of their slices the cancellation that `cancelCtx` performs, and is answered when every queue has settled it. Where
no descriptor of the slice is read yet, nothing else changes than the scope and the slice's L1_CNT. -/
def Obligations.ContextCancelHasAScope : Prop :=
  (∀ (s : State) (p : Packet), s.fab.passes rowCtxCancel p = true →
    ((s.fab.fn (pfield p 0x18 1)).sqs.filter (fun e => bitAt (BitVec.ofNat 64 (pfield p 0x20 8)) e.1)).map (·.2) = [] →
    ∃ t, exec (.ctxCancel p) s = .next t ∧ Answers s t p (repOk) ∧ t.fab.bare p = s.fab.bare p) ∧
  (∀ (s : State) (p : Packet) (qs ss : List Nat), s.fab.passes rowCtxCancel p = true →
    qs = ((s.fab.fn (pfield p 0x18 1)).sqs.filter (fun e => bitAt (BitVec.ofNat 64 (pfield p 0x20 8)) e.1)).map (·.2) →
    ss = (qs.filterMap (fun q => (s.fab.sq? q).map (·.slice))).eraseDups → ss.any (fun k => leaving (s.fab.slice k).state) = true →
    ∃ t, exec (.ctxCancel p) s = .next t ∧ Answers s t p (rep stState) ∧ t.fab.bare p = s.fab.bare p) ∧
  (∀ (s : State) (p : Packet) (qs ss : List Nat) (f g : Fabric), s.fab.passes rowCtxCancel p = true →
    qs = ((s.fab.fn (pfield p 0x18 1)).sqs.filter (fun e => bitAt (BitVec.ofNat 64 (pfield p 0x20 8)) e.1)).map (·.2) → qs ≠ [] →
    ss = (qs.filterMap (fun q => (s.fab.sq? q).map (·.slice))).eraseDups → ss.any (fun k => leaving (s.fab.slice k).state) = false →
    f = qs.foldl (fun f q => f.onSq q (fun x => { x with cancels := x.cancels ++ [(preq p, pfield p 0x1A 2, x.accepted)] })) (s.fab.taking p) →
    g = ss.foldl (fun f k => f.cancelCtx k (pfield p 0x1A 2) (qs.filter (fun q => ((f.sq? q).map (·.slice)) == some k)) none none) f →
    exec (.ctxCancel p) s = .next (s.ends (qs.foldl (fun f q => f.settleCancels q) g).settle)) ∧
  (∀ (s : State) (p : Packet) (q : Nat) (x : Sq), s.fab.passes rowCtxCancel p = true →
    ((s.fab.fn (pfield p 0x18 1)).sqs.filter (fun e => bitAt (BitVec.ofNat 64 (pfield p 0x20 8)) e.1)).map (·.2) = [q] →
    s.fab.sq? q = some x → leaving (s.fab.slice x.slice).state = false →
    (s.fab.descsOf x.slice).all (fun e => e.2.stage == .accepted) = true →
    (s.fab.slice x.slice).engineSet.all (fun e => (s.fab.engine e).testSeed.isNone && (s.fab.engine e).testOwner.isNone) = true →
    x.cancels = [] → x.cancelDone (preq p, pfield p 0x1A 2, x.accepted) = false → s.fab.quiet = true →
    ∃ t, exec (.ctxCancel p) s = .next t ∧ Waits s t p ∧
      t.fab.sq? q = some { x with cancels := [(preq p, pfield p 0x1A 2, x.accepted)], scopes := x.scopes ++ [(pfield p 0x1A 2, x.accepted)] } ∧
      (t.fab.slice x.slice).l1Cnt = satAdd 16 (s.fab.slice x.slice).l1Cnt 1 ∧ t.fab.mem = s.fab.mem ∧ t.fab.tags = s.fab.tags ∧
      t.fab.engines = s.fab.engines ∧ t.fab.windows = s.fab.windows)

/-- R160: OBJ_REGISTER makes a LIVE handle at the slice's lowest free number, answers FULL with none free, and is refused with STATE
without its tag, for a tag of another function or being destroyed, in a slice that takes no objects, and where it meets another
object of the tag. OBJ_RELEASE dooms a LIVE handle, which stays DOOMED while it is referred to and as `settleHandle` says becomes
UNMAPPING with its pages unmapped when nothing refers to it, and answers the state that the handle then has; it answers the state of
any other handle and changes nothing. OBJ_QUERY only reads. A number without a handle is refused with STATE by OBJ_RELEASE and
answered FREE by OBJ_QUERY. -/
def Obligations.MemoryObjectHandles : Prop :=
  (∀ (s : State) (p : Packet) (t' : Tag) (h : Nat) (x : Handle), s.fab.passes rowObjRegister p = true →
    s.fab.tag? (pfield p 0x1A 2) = some t' → t'.fn = pfield p 0x18 1 → t'.destroying = false → s.fab.sliceTakes t'.slice = true →
    (s.fab.slice t'.slice).handles.any (fun h => h.2.state != 0 && h.2.tag == pfield p 0x1A 2 &&
      decide (h.2.va < pfield p 0x20 8 + pfield p 0x28 8) && decide (pfield p 0x20 8 < h.2.va + h.2.len)) = false →
    (s.fab.slice t'.slice).handles.lowestFree 0 16384 = some h →
    x = { state := 1, fn := pfield p 0x18 1, tag := pfield p 0x1A 2, va := pfield p 0x20 8, len := pfield p 0x28 8 } →
    ∃ t, exec (.objRegister p) s = .next t ∧ Answers s t p (repOk [(0x20, 2, h)]) ∧
      t.fab.bare p = (s.fab.onSlice t'.slice (fun y => { y with handles := y.handles.put h x })).bare p) ∧
  (∀ (s : State) (p : Packet), s.fab.passes rowObjRegister p = true →
    s.fab.tag? (pfield p 0x1A 2) = none ∨ (∃ t' : Tag, s.fab.tag? (pfield p 0x1A 2) = some t' ∧ (t'.fn ≠ pfield p 0x18 1 ∨ t'.destroying = true ∨
      s.fab.sliceTakes t'.slice = false ∨ (s.fab.slice t'.slice).handles.any (fun h => h.2.state != 0 && h.2.tag == pfield p 0x1A 2 &&
        decide (h.2.va < pfield p 0x20 8 + pfield p 0x28 8) && decide (pfield p 0x20 8 < h.2.va + h.2.len)) = true)) →
    ∃ t, exec (.objRegister p) s = .next t ∧ Answers s t p (rep stState) ∧ t.fab.bare p = s.fab.bare p) ∧
  (∀ (s : State) (p : Packet) (t' : Tag), s.fab.passes rowObjRegister p = true →
    s.fab.tag? (pfield p 0x1A 2) = some t' → t'.fn = pfield p 0x18 1 → t'.destroying = false → s.fab.sliceTakes t'.slice = true →
    (s.fab.slice t'.slice).handles.any (fun h => h.2.state != 0 && h.2.tag == pfield p 0x1A 2 &&
      decide (h.2.va < pfield p 0x20 8 + pfield p 0x28 8) && decide (pfield p 0x20 8 < h.2.va + h.2.len)) = false →
    (s.fab.slice t'.slice).handles.lowestFree 0 16384 = none →
    ∃ t, exec (.objRegister p) s = .next t ∧ Answers s t p (rep stFull) ∧ t.fab.bare p = s.fab.bare p) ∧
  (∀ (s : State) (p : Packet), s.fab.passes rowObjRelease p = true →
    (s.fab.handle? p = none → ∃ t, exec (.objRelease p) s = .next t ∧ Answers s t p (rep stState) ∧ t.fab.bare p = s.fab.bare p) ∧
    (∀ h, s.fab.handle? p = some h → h.state ≠ 1 →
      ∃ t, exec (.objRelease p) s = .next t ∧ Answers s t p (repOk [(0x20, 1, h.state)]) ∧ t.fab.bare p = s.fab.bare p) ∧
    (∀ h, s.fab.handle? p = some h → h.state = 1 → s.fab.quiet = true →
      s.fab.handleRefs (pslice p) h ≠ 0 ∨ (∃ e ∈ s.fab.descsOf (pslice p), e.2.order < s.fab.accepts ∧ e.2.stage ≠ .bound) →
      ∃ t, exec (.objRelease p) s = .next t ∧ Answers s t p (repOk [(0x20, 1, 2)]) ∧
        t.fab.bare p = (s.fab.onSlice (pslice p) (fun x => { x with
          handles := x.handles.onKey (pfield p 0x18 2) (fun h => { h with state := 2, releasedAt := s.fab.accepts }) })).bare p) ∧
    (∀ (h : Handle) (g : Fabric), s.fab.handle? p = some h → h.state = 1 →
      g = (((s.fab.taking p).onSlice (pslice p) (fun x => { x with
        handles := x.handles.onKey (pfield p 0x18 2) (fun h => { h with state := 2, releasedAt := s.fab.accepts }) })).settleHandle
          (pslice p) (pfield p 0x18 2)).settle →
      exec (.objRelease p) s = .next (s.ends (g.reply (preq p)
        (repOk [(0x20, 1, (((g.slice (pslice p)).handles.find (pfield p 0x18 2)).map (·.state)).getD 0)]))))) ∧
  (∀ (s : State) (p : Packet) (h : Handle), s.fab.passes rowObjQuery p = true → s.fab.handle? p = some h →
    ∃ t, exec (.objQuery p) s = .next t ∧ t.fab.bare p = s.fab.bare p ∧
      Answers s t p (repOk [(0x20, 1, h.state), (0x22, 2, h.tag), (0x24, 4, s.fab.handleRefs (pslice p) h), (0x28, 8, h.va), (0x30, 8, h.len)])) ∧
  (∀ (s : State) (p : Packet), s.fab.passes rowObjQuery p = true → s.fab.handle? p = none →
    ∃ t, exec (.objQuery p) s = .next t ∧ Answers s t p (repOk) ∧ t.fab.bare p = s.fab.bare p)

/-- R166, R168: ASTAG_CREATE makes a tag with no leaf, answers FULL at the slice's limits, and is refused with STATE for a tag that
exists and a slice that takes no objects. ASTAG_DESTROY marks a tag that nothing uses, raises its epoch, and waits for the
acknowledgement of the unmap of all its pages, till which its leaves stay; it is refused with STATE for a tag that is absent, in use,
being destroyed, or of a slice that is leaving. R195: ACC_SNAPSHOT copies the access word of each region to host memory, at the
host port, where its last unit is answered, or at once from a frozen chip; it clears the counters of its regions where it is asked,
and is refused with STATE without the tag and in a slice that is leaving. -/
def Obligations.AddressSpaceTagsAndSnapshots : Prop :=
  (∀ (s : State) (p : Packet) (sl : Nat), s.fab.passes rowAstagCreate p = true →
    sl = (if pfield p 0x1A 1 = 0 then pslice p else ((s.fab.fn (pfield p 0x1A 1)).slice).getD 64) →
    (∀ x : Tag, s.fab.sliceTakes sl = true → s.fab.tag? (pfield p 0x18 2) = none →
      (s.fab.tags.filter (fun e => e.2.slice == sl)).length < recTags (s.fab.slice sl).record → s.fab.tableFrames sl < 16384 →
      x = { fn := pfield p 0x1A 1, slice := sl, parkEn := bitAt p.params 24, accEn := bitAt p.params 25, timeoutMs := pfield p 0x1C 2 } →
      ∃ t, exec (.astagCreate p) s = .next t ∧ Answers s t p (repOk) ∧
        t.fab.bare p = ({ s.fab with tags := s.fab.tags.put (pfield p 0x18 2) x } : Fabric).bare p) ∧
    (s.fab.sliceTakes sl = true → s.fab.tag? (pfield p 0x18 2) = none →
      recTags (s.fab.slice sl).record ≤ (s.fab.tags.filter (fun e => e.2.slice == sl)).length ∨ 16384 ≤ s.fab.tableFrames sl →
      ∃ t, exec (.astagCreate p) s = .next t ∧ Answers s t p (rep stFull) ∧ t.fab.bare p = s.fab.bare p) ∧
    (s.fab.sliceTakes sl = false ∨ (s.fab.tag? (pfield p 0x18 2)).isSome = true →
      ∃ t, exec (.astagCreate p) s = .next t ∧ Answers s t p (rep stState) ∧ t.fab.bare p = s.fab.bare p)) ∧
  (∀ (s : State) (p : Packet) (x : Tag), s.fab.passes rowAstagDestroy p = true → s.fab.tag? (pfield p 0x18 2) = some x →
    x.destroying = false → s.fab.tagBusy (pfield p 0x18 2) x = false → leaving (s.fab.slice x.slice).state = false →
    exec (.astagDestroy p) s = .next (s.ends ((s.fab.taking p).destroyTag (pfield p 0x18 2) x (some (preq p))).settle) ∧
    (s.fab.descsOf x.slice = [] → s.fab.quiet = true → ∃ t, exec (.astagDestroy p) s = .next t ∧ Waits s t p ∧
      t.fab.tag? (pfield p 0x18 2) = some { x with destroying := true, destroyFrom := s.fab.accepts, lost := [], epoch := x.epoch + 1 } ∧
      (t.fab.slice x.slice).tu.unmaps = (s.fab.slice x.slice).tu.unmaps ++
        [⟨.tag (pfield p 0x18 2) (some (preq p)), pfield p 0x18 2, 0, 2 ^ 48, [], s.fab.now, x.spanPhys 0 (2 ^ 32)⟩])) ∧
  (∀ (s : State) (p : Packet), s.fab.passes rowAstagDestroy p = true → s.fab.tag? (pfield p 0x18 2) = none ∨
      (∃ x : Tag, s.fab.tag? (pfield p 0x18 2) = some x ∧
        (x.destroying = true ∨ s.fab.tagBusy (pfield p 0x18 2) x = true ∨ leaving (s.fab.slice x.slice).state = true)) →
    ∃ t, exec (.astagDestroy p) s = .next t ∧ Answers s t p (rep stState) ∧ t.fab.bare p = s.fab.bare p) ∧
  (∀ (s : State) (p : Packet) (x : Tag) (first k : Nat) (g h : Fabric) (o : Out), s.fab.passes rowAccSnapshot p = true →
    s.fab.tag? (pfield p 0x18 2) = some x → leaving (s.fab.slice x.slice).state = false →
    first = pfield p 0x20 8 / 2 ^ 21 → k = pfield p 0x1C 4 →
    o = .accessCopy (pfield p 0x28 8) ((List.range k).map (fun i => x.accessWord (first + i))) →
    g = (if pfield p 0x1A 1 = 1 then s.fab.onTag (pfield p 0x18 2)
      (fun t => { t with access := t.access.filter (fun a => decide (a.1 < first) || decide (first + k ≤ a.1)) }) else s.fab) →
    h = g.offerHost (some x.slice) (4 * k) true [o] (done := some (preq p)) →
    (s.fab.rs.frozen = false →
      ∃ t, exec (.accSnapshot p) s = .next t ∧ Waits s t p ∧ t.fab.reg 48 = h.reg 48 ∧ t.fab.bare p = h.bare p) ∧
    (s.fab.rs.frozen = true → ∃ t, exec (.accSnapshot p) s = .next t ∧ Answers s t p (repOk) ∧ o ∈ driven s t ∧ t.fab.bare p = g.bare p)) ∧
  ∀ (s : State) (p : Packet), s.fab.passes rowAccSnapshot p = true → s.fab.tag? (pfield p 0x18 2) = none ∨
      (∃ x : Tag, s.fab.tag? (pfield p 0x18 2) = some x ∧ leaving (s.fab.slice x.slice).state = true) →
    ∃ t, exec (.accSnapshot p) s = .next t ∧ Answers s t p (rep stState) ∧ t.fab.bare p = s.fab.bare p

/-- R196: WIN_OPEN opens a CLOSED window over a scratchpad of the slice, or over a range of a tag whose pages are walked and which
binds; it answers FORM for an engine that the slice has not, the failed check where the range does not bind, FULL past 65,536
extents, and STATE without the tag, for a window that is not CLOSED, or for a tag or slice that takes no objects. WIN_CLOSE closes a
window with no accepted request at once, waits for them otherwise, and is refused with STATE for a CLOSED window, one that is
closing, or one of a slice that is leaving. -/
def Obligations.RemoteWindowsOpenAndClose : Prop :=
  (∀ (s : State) (p : Packet), s.fab.passes rowWinOpen p = true → s.fab.tag? (pfield p 0x1A 2) = none ∨
      (∃ x : Tag, s.fab.tag? (pfield p 0x1A 2) = some x ∧ ((s.fab.window (pfield p 0x18 2)).state ≠ 0 ∨
        (s.fab.window (pfield p 0x18 2)).closing.isSome = true ∨ x.destroying = true ∨ s.fab.sliceTakes x.slice = false)) →
    ∃ t, exec (.winOpen p) s = .next t ∧ Answers s t p (rep stState) ∧ t.fab.bare p = s.fab.bare p) ∧
  (∀ (s : State) (p : Packet) (x : Tag), s.fab.passes rowWinOpen p = true → s.fab.tag? (pfield p 0x1A 2) = some x →
    (s.fab.window (pfield p 0x18 2)).state = 0 → (s.fab.window (pfield p 0x18 2)).closing = none → x.destroying = false →
    s.fab.sliceTakes x.slice = true → pfield p 0x1C 1 = 1 →
    ((s.fab.slice x.slice).engines[pfield p 0x2C 1]? = none →
      ∃ t, exec (.winOpen p) s = .next t ∧ Answers s t p (rep stForm) ∧ t.fab.bare p = s.fab.bare p) ∧
    ∀ (k : Nat) (w : Window), (s.fab.slice x.slice).engines[pfield p 0x2C 1]? = some k →
      w = { state := 1, slice := x.slice, tag := pfield p 0x1A 2, va := 0, len := pfield p 0x28 4 * 65536, scratch := true,
            perm := pfield p 0x1D 1, jobKey := pfield p 0x1E 2,
            sources := ((List.range 8).map (fun i => pfield p (0x30 + 2 * i) 2)).filter (· != 0xFFFF),
            spOffset := pfield p 0x20 8, engine := k } →
      ∃ t, exec (.winOpen p) s = .next t ∧ Answers s t p (repOk) ∧
        t.fab.bare p = ({ s.fab with windows := s.fab.windows.put (pfield p 0x18 2) w } : Fabric).bare p) ∧
  (∀ (s : State) (p : Packet) (x : Tag) (f : Fabric) (b : List Extent ⊕ Nat), s.fab.passes rowWinOpen p = true →
    s.fab.tag? (pfield p 0x1A 2) = some x →
    (s.fab.window (pfield p 0x18 2)).state = 0 → (s.fab.window (pfield p 0x18 2)).closing = none → x.destroying = false →
    s.fab.sliceTakes x.slice = true → pfield p 0x1C 1 ≠ 1 →
    f = (s.fab.taking p).walkRange x.slice (pfield p 0x1A 2) true (pfield p 0x28 4 * 65536 / 65536 + 2) (pfield p 0x20 8) (pfield p 0x28 4 * 65536) →
    b = f.bindWindow x.slice (pfield p 0x1A 2) x (pfield p 0x20 8) (pfield p 0x28 4 * 65536) (pfield p 0x1D 1 / 2 % 2 == 1) →
    (∀ c, b = .inr c → exec (.winOpen p) s = .next (s.ends (f.reply (preq p) (repCheck c)))) ∧
    (∀ e, b = .inl e → 65536 < f.windowExtents + e.length →
      exec (.winOpen p) s = .next (s.ends (f.reply (preq p) (rep stFull)))) ∧
    (∀ (e : List Extent) (w : Window), b = .inl e → f.windowExtents + e.length ≤ 65536 →
      w = { state := 1, slice := x.slice, tag := pfield p 0x1A 2, va := pfield p 0x20 8, len := pfield p 0x28 4 * 65536, scratch := false,
            perm := pfield p 0x1D 1, jobKey := pfield p 0x1E 2,
            sources := ((List.range 8).map (fun i => pfield p (0x30 + 2 * i) 2)).filter (· != 0xFFFF),
            spOffset := 0, extents := e } →
      exec (.winOpen p) s = .next (s.ends (({ f with windows := f.windows.put (pfield p 0x18 2) w } : Fabric).reply (preq p) (repOk [(0x20, 2, e.length)]))))) ∧
  (∀ (s : State) (p : Packet) (w : Window), s.fab.passes rowWinClose p = true → w = s.fab.window (pfield p 0x18 2) → w.state ≠ 0 →
    w.closing = none → leaving (s.fab.slice w.slice).state = false →
    exec (.winClose p) s = .next (s.ends (((s.fab.taking p).onWindow (pfield p 0x18 2) (fun y => { y with closing := some (preq p) })).settleWindow (pfield p 0x18 2))) ∧
    (w.inFlight ≠ 0 → ∃ t, exec (.winClose p) s = .next t ∧ Waits s t p ∧
      t.fab.bare p = (s.fab.onWindow (pfield p 0x18 2) (fun y => { y with closing := some (preq p) })).bare p) ∧
    (w.inFlight = 0 → (s.fab.slice w.slice).handles.all (fun h => h.2.state != 2) = true →
      ∃ t, exec (.winClose p) s = .next t ∧ Answers s t p (repOk) ∧
        t.fab.bare p = ({ s.fab with windows := s.fab.windows.put (pfield p 0x18 2) {} } : Fabric).bare p)) ∧
  (∀ (s : State) (p : Packet) (w : Window), s.fab.passes rowWinClose p = true → w = s.fab.window (pfield p 0x18 2) →
    w.state = 0 ∨ w.closing.isSome = true ∨ leaving (s.fab.slice w.slice).state = true →
    ∃ t, exec (.winClose p) s = .next t ∧ Answers s t p (rep stState) ∧ t.fab.bare p = s.fab.bare p)

/-! ### Removal of a tenant by packet (R332, R333) -/

/-- R59, R332, R333: SLICE_DESTROY frees a DEFINING slice at once. Of a CREATED slice it keeps what it was asked, asks the security
block to zero the slice's keys, answers what was pending, cuts off what the slice still does, and begins to whip it; of an ACTIVE or
RESETTING one it does the same and begins its removal; the tenant environment is frozen and the reply waits. Where the slice has no
queue and nothing else is due, a CREATED slice is then WHIPPING in phase 3 and an ACTIVE or RESETTING one REMOVING in phase 1. Any
other slice is refused with STATE. -/
def Obligations.SliceDestroyFreesOrRemoves : Prop :=
  (∀ (s : State) (p : Packet), s.fab.passes rowSliceDestroy p = true → (s.fab.slice (pslice p)).state = .defining →
    ∃ t, exec (.sliceDestroy p) s = .next t ∧ Answers s t p (repOk) ∧
      t.fab.bare p = (s.fab.onSlice (pslice p) (fun _ => {})).bare p) ∧
  (∀ (s : State) (p : Packet) (k : Nat) (st : SliceState) (f : Fabric), s.fab.passes rowSliceDestroy p = true → k = pslice p →
    st = (s.fab.slice k).state → f = (((s.fab.taking p).markRemoval k (pfield p 0x18 1 == 1) (some (preq p))).askKey keyZero k).abortPending k →
    (st = .created → exec (.sliceDestroy p) s = .next (s.ends
      ((((f.dropCau (fun j => j.slice == k)).cutSlice k).enterWhipping k).onEnv (fun e => { e with frozen := true })).settle)) ∧
    (st = .active ∨ st = .resetting →
      exec (.sliceDestroy p) s = .next (s.ends ((f.startRemoval k).onEnv (fun e => { e with frozen := true })))) ∧
    ((s.fab.slice k).engineSet = [] → s.fab.queuesOf (fun x => x.slice == k) = [] → s.fab.engines = [] → s.fab.splice.groups = [] →
      s.fab.keys.imports = [] → s.fab.rs.hangs = [] → s.fab.quiet = true → st = .created ∨ st = .active ∨ st = .resetting →
      ∃ t, exec (.sliceDestroy p) s = .next t ∧ t.fab.env.frozen = true ∧
        (t.fab.slice k).state = (if st = .created then .whipping else .removing) ∧ (t.fab.slice k).phase = (if st = .created then 3 else 1) ∧
        (t.fab.slice k).destroy = some (preq p) ∧ .keyPort keyZero k 0 ∈ driven s t)) ∧
  (∀ (s : State) (p : Packet), s.fab.passes rowSliceDestroy p = true →
    (s.fab.slice (pslice p)).state = .free ∨ (s.fab.slice (pslice p)).state = .removing ∨
      (s.fab.slice (pslice p)).state = .whipping →
    ∃ t, exec (.sliceDestroy p) s = .next t ∧ Answers s t p (rep stState) ∧ t.fab.bare p = s.fab.bare p)

/-! ### Belay packets (R257 to R276, R428) -/

/-- R251, R257, R276: BELAY_AUDIT_SET of a slice that is CREATED, ACTIVE or RESETTING waits for the next boundary, and is refused
with STATE for any other; BELAY_WATCH puts an engine in service on the watch list with the cause OPERATOR, is refused with STATE for
one that is not, or takes an engine off the list; BELAY_HELD_QUERY answers how many descriptors of the slice are HELD and which is
the one at its index, 0xFFFF where there is none, and only reads. -/
def Obligations.AuditSettingAndWatchList : Prop :=
  (∀ (s : State) (p : Packet), s.fab.passes rowBelayAuditSet p = true →
    (s.fab.slice (pslice p)).state = .created ∨ (s.fab.slice (pslice p)).state = .active ∨ (s.fab.slice (pslice p)).state = .resetting →
    ∃ t, exec (.belayAuditSet p) s = .next t ∧ Waits s t p ∧
      t.fab.bare p = (s.fab.onSlice (pslice p) (fun x => { x with auditNext := x.auditNext ++ [(pfield p 0x18 1, preq p)] })).bare p) ∧
  (∀ (s : State) (p : Packet), s.fab.passes rowBelayAuditSet p = true →
    (s.fab.slice (pslice p)).state ≠ .created → (s.fab.slice (pslice p)).state ≠ .active → (s.fab.slice (pslice p)).state ≠ .resetting →
    ∃ t, exec (.belayAuditSet p) s = .next t ∧ Answers s t p (rep stState) ∧ t.fab.bare p = s.fab.bare p) ∧
  (∀ (s : State) (p : Packet) (l : Tab Watch), s.fab.passes rowBelayWatch p = true → pfield p 0x19 1 = 1 →
    l = s.fab.belay.watch.onKey (pfield p 0x18 1) (fun w => { w with on := false, clean := 0 }) →
    ∃ t, exec (.belayWatch p) s = .next t ∧ Answers s t p (repOk) ∧
      t.fab.bare p = ({ s.fab with belay := { s.fab.belay with watch := l } } : Fabric).bare p) ∧
  (∀ (s : State) (p : Packet) (l : Tab Watch), s.fab.passes rowBelayWatch p = true → pfield p 0x19 1 = 0 →
    s.fab.engineIn (pfield p 0x18 1) = true →
    l = s.fab.belay.watch.upd (pfield p 0x18 1) {} (fun w =>
      { w with on := true, cause := 4, lastAt := s.fab.now, clean := 0, causes := if w.on then w.causes + 1 else 1 }) →
    ∃ t, exec (.belayWatch p) s = .next t ∧ Answers s t p (repOk) ∧
      t.fab.bare p = ({ s.fab with belay := { s.fab.belay with watch := l } } : Fabric).bare p) ∧
  (∀ (s : State) (p : Packet), s.fab.passes rowBelayWatch p = true → pfield p 0x19 1 = 0 →
    s.fab.engineIn (pfield p 0x18 1) = false →
    ∃ t, exec (.belayWatch p) s = .next t ∧ Answers s t p (rep stState) ∧ t.fab.bare p = s.fab.bare p) ∧
  (∀ (s : State) (p : Packet) (q : Nat) (d : Desc), s.fab.passes rowBelayHeldQuery p = true →
    (s.fab.heldOf (pslice p))[pfield p 0x18 2]? = some (q, d) →
    ∃ t, exec (.belayHeldQuery p) s = .next t ∧ t.fab.bare p = s.fab.bare p ∧
      Answers s t p (repOk [(0x20, 2, (s.fab.heldOf (pslice p)).length), (0x22, 2, q), (0x24, 4, d.seq.toNat)])) ∧
  (∀ (s : State) (p : Packet), s.fab.passes rowBelayHeldQuery p = true →
    (s.fab.heldOf (pslice p)).length ≤ pfield p 0x18 2 →
    ∃ t, exec (.belayHeldQuery p) s = .next t ∧ t.fab.bare p = s.fab.bare p ∧
      Answers s t p (repOk [(0x20, 2, (s.fab.heldOf (pslice p)).length), (0x22, 2, 0xFFFF)]))

/-- R269, R270, R272: REPLICA_DEFINE sets a member of a set to a range of a tag of its slice, or empties it, and is refused with
STATE while the set is checked and for a tag that is absent or of another slice. REPLICA_CHECK starts a check: one job for each
member, and the reply waits; it is refused with STATE while one runs, and for members that are too few or differ in length.
REPLICA_EXPEL makes a member EXPELLED, drops its job and reports it, and is refused with STATE where there is no such member. -/
def Obligations.ReplicaSetPackets : Prop :=
  (∀ (s : State) (p : Packet) (x : Tag) (m : Member), s.fab.passes rowReplicaDefine p = true →
    (s.fab.replica (pfield p 0x18 1)).result ≠ 1 → pfield p 0x28 8 ≠ 0 → s.fab.tag? (pfield p 0x1A 2) = some x → x.slice = pslice p →
    m = { state := 1, slice := pslice p, tag := pfield p 0x1A 2, va := pfield p 0x20 8, len := pfield p 0x28 8 } →
    ∃ t, exec (.replicaDefine p) s = .next t ∧ Answers s t p (repOk) ∧
      t.fab.bare p = (s.fab.onReplica (pfield p 0x18 1) (fun r => { r with members := r.members.put (pfield p 0x19 1) m })).bare p) ∧
  (∀ (s : State) (p : Packet), s.fab.passes rowReplicaDefine p = true →
    (s.fab.replica (pfield p 0x18 1)).result ≠ 1 → pfield p 0x28 8 = 0 →
    ∃ t, exec (.replicaDefine p) s = .next t ∧ Answers s t p (repOk) ∧
      t.fab.bare p = (s.fab.onReplica (pfield p 0x18 1) (fun r => { r with members := r.members.del (pfield p 0x19 1) })).bare p) ∧
  (∀ (s : State) (p : Packet), s.fab.passes rowReplicaDefine p = true → (s.fab.replica (pfield p 0x18 1)).result = 1 →
    ∃ t, exec (.replicaDefine p) s = .next t ∧ Answers s t p (rep stState) ∧ t.fab.bare p = s.fab.bare p) ∧
  (∀ (s : State) (p : Packet), s.fab.passes rowReplicaDefine p = true →
    (s.fab.replica (pfield p 0x18 1)).result ≠ 1 → pfield p 0x28 8 ≠ 0 →
    s.fab.tag? (pfield p 0x1A 2) = none ∨ (∃ x : Tag, s.fab.tag? (pfield p 0x1A 2) = some x ∧ x.slice ≠ pslice p) →
    ∃ t, exec (.replicaDefine p) s = .next t ∧ Answers s t p (rep stState) ∧ t.fab.bare p = s.fab.bare p) ∧
  (∀ (s : State) (p : Packet) (f : Fabric), s.fab.passes rowReplicaCheck p = true → (s.fab.replica (pfield p 0x18 1)).result ≠ 1 →
    2 ≤ (s.fab.replica (pfield p 0x18 1)).members.length →
    ((s.fab.replica (pfield p 0x18 1)).members.map (·.2.len)).eraseDups.length = 1 →
    f = (s.fab.taking p).onReplica (pfield p 0x18 1) (fun y => { y with
      result := 1, req := some (preq p), autoExpel := (match p.path with | .mailbox _ => true | .fn _ => false) && pfield p 0x19 1 == 1 }) →
    exec (.replicaCheck p) s = .next (s.ends (f.startCheck (pfield p 0x18 1)).settle)) ∧
  (∀ (s : State) (p : Packet) (a b : Nat) (x y : Member), s.fab.passes rowReplicaCheck p = true →
    (s.fab.replica (pfield p 0x18 1)).result ≠ 1 → (s.fab.replica (pfield p 0x18 1)).members = [(a, x), (b, y)] → a ≠ b →
    x.len = y.len → x.state = 1 → y.state = 1 → s.fab.quiet = true →
    ∃ t, exec (.replicaCheck p) s = .next t ∧ Waits s t p ∧ (t.fab.replica (pfield p 0x18 1)).result = 1 ∧
      (t.fab.replica (pfield p 0x18 1)).req = some (preq p) ∧
      (t.fab.replica (pfield p 0x18 1)).members = [(a, { x with state := 2, job := some s.fab.cau.nextId }),
        (b, { y with state := 2, job := some (s.fab.cau.nextId + 1) })] ∧
      t.fab.cau.jobs.length = s.fab.cau.jobs.length + 2 ∧
      { t.fab with belay := {}, cau := {}, cleat := {}, ctl := {}, out := [], writes := [] } =
        ({ s.fab with belay := {}, cau := {}, cleat := {}, ctl := {}, out := [], writes := [] } : Fabric)) ∧
  (∀ (s : State) (p : Packet), s.fab.passes rowReplicaCheck p = true →
    (s.fab.replica (pfield p 0x18 1)).result = 1 ∨ (s.fab.replica (pfield p 0x18 1)).members.length < 2 ∨
      ((s.fab.replica (pfield p 0x18 1)).members.map (·.2.len)).eraseDups.length ≠ 1 →
    ∃ t, exec (.replicaCheck p) s = .next t ∧ Answers s t p (rep stState) ∧ t.fab.bare p = s.fab.bare p) ∧
  (∀ (s : State) (p : Packet) (m : Member), s.fab.passes rowReplicaExpel p = true →
    (s.fab.replica (pfield p 0x18 1)).members.find (pfield p 0x19 1) = some m → s.fab.quiet = true →
    ∃ t, exec (.replicaExpel p) s = .next t ∧ Answers s t p (repOk) ∧
      t.fab.bare p = (s.fab.expel (pfield p 0x18 1) (pfield p 0x19 1)).bare p) ∧
  (∀ (s : State) (p : Packet), s.fab.passes rowReplicaExpel p = true →
    (s.fab.replica (pfield p 0x18 1)).members.find (pfield p 0x19 1) = none →
    ∃ t, exec (.replicaExpel p) s = .next t ∧ Answers s t p (rep stState) ∧ t.fab.bare p = s.fab.bare p) ∧
  (∀ (f : Fabric) (n k : Nat), ((f.expel n k).replica n).members.find k =
    ((f.replica n).members.find k).map (fun m => { m with state := 6, job := none }))

/-! ### Fault, test and ledger packets (R351 to R369, R428) -/

/-- R351, R355, R357, R362: FC_RULE_SET replaces a rule and drops its kept stamps; FC_ERR_CLEAR releases ERR_OUT, at the
end of its minimum low time or at once, and is refused with STATE after a TERMINAL record; FC_REACT_SET sets the class of the pin
and the two reaction times, and TEST_SET the enable and the interval of the tests. -/
def Obligations.RulesReactionsAndTests : Prop :=
  (∀ (s : State) (p : Packet) (u : Rule), s.fab.passes rowFcRuleSet p = true →
    u = { windowMs := pfield p 0x20 4, cause := BitVec.ofNat 16 (pfield p 0x1E 2), unitType := pfield p 0x19 1, n := pfield p 0x1A 1,
          action := pfield p 0x1B 1, persist := pfield p 0x1C 1 % 2 == 1, valid := decide (2 ≤ pfield p 0x1C 1) } →
    ∃ t, exec (.fcRuleSet p) s = .next t ∧ Answers s t p (repOk) ∧
      t.fab.bare p = ({ s.fab with
        fc := { s.fab.fc with rules := s.fab.fc.rules.set (pfield p 0x18 1) u, stamps := s.fab.fc.stamps.upd (pfield p 0x18 1) [] (fun _ => []) },
        ledger := { s.fab.ledger with log := dropStamps (pfield p 0x18 1) none s.fab.ledger.log,
                                      buffer := dropStamps (pfield p 0x18 1) none s.fab.ledger.buffer } } : Fabric).bare p) ∧
  (∀ (s : State) (p : Packet), s.fab.passes rowFcErrClear p = true → s.fab.fc.terminalSeen = true →
    ∃ t, exec (.fcErrClear p) s = .next t ∧ Answers s t p (rep stState) ∧ t.fab.bare p = s.fab.bare p) ∧
  (∀ (s : State) (p : Packet), s.fab.passes rowFcErrClear p = true → s.fab.fc.terminalSeen = false →
    s.fab.fc.errOut = true → s.fab.now < s.fab.fc.lowUntil →
    ∃ t, exec (.fcErrClear p) s = .next t ∧ Answers s t p (repOk) ∧
      t.fab.bare p = (s.fab.onFc (fun c => { c with clearWanted := true })).bare p) ∧
  (∀ (s : State) (p : Packet), s.fab.passes rowFcErrClear p = true → s.fab.fc.terminalSeen = false →
    s.fab.fc.errOut = false ∨ s.fab.fc.lowUntil ≤ s.fab.now →
    ∃ t, exec (.fcErrClear p) s = .next t ∧ Answers s t p (repOk) ∧
      t.fab.bare p = (s.fab.onFc (fun c => { c with errOut := false })).bare p) ∧
  (∀ (s : State) (p : Packet), s.fab.passes rowFcReactSet p = true →
    ∃ t, exec (.fcReactSet p) s = .next t ∧ Answers s t p (repOk) ∧
      t.fab.bare p = (s.fab.onFc (fun c => { c with
        pinClass := pfield p 0x18 1, reactContainedMs := pfield p 0x1C 2, reactFatalMs := pfield p 0x1E 2 })).bare p) ∧
  (∀ (s : State) (p : Packet), s.fab.passes rowTestSet p = true →
    ∃ t, exec (.testSet p) s = .next t ∧ Answers s t p (repOk) ∧
      t.fab.bare p = ({ s.fab with tests := { enable := pfield p 0x18 1 == 1, intervalH := pfield p 0x1A 2 } } : Fabric).bare p)

/-- R360, R361, R367, R368: FC_INJECT arms the injection that it describes, of any target, and its reply waits; it is refused with
STATE while one is armed, for a unit that is not there, and where a debug session must be open and is not. UNIT_RETIRE starts the
retirement of a unit, which stops an engine as `startRetire` says and only marks any other, and its reply waits; it is refused with
STATE for a unit that cannot be retired or is being retired. LEDGER_READ answers the life figures, or the retirement of a unit and
the stamps kept of it, at once, and asks the ledger for a header part. -/
def Obligations.InjectionRetirementAndLedgerPackets : Prop :=
  (∀ (s : State) (p : Packet), s.fab.passes rowFcInject p = true →
    s.fab.fc.inject.isSome = true ∨ s.fab.injectUnit p = false ∨ s.fab.injectAllowed p = false →
    ∃ t, exec (.fcInject p) s = .next t ∧ Answers s t p (rep stState) ∧ t.fab.bare p = s.fab.bare p) ∧
  (∀ (s : State) (p : Packet) (i : Inject), s.fab.passes rowFcInject p = true → s.fab.fc.inject = none →
    s.fab.injectUnit p = true → s.fab.injectAllowed p = true →
    i = { target := pfield p 0x18 1, bits := pfield p 0x19 1, unit := BitVec.ofNat 32 (pfield p 0x20 4), index := BitVec.ofNat 64 (pfield p 0x28 8),
          duration := pfield p 0x1C 2, count := pfield p 0x1A 1 % 2 == 1, pin := decide (2 ≤ pfield p 0x1A 1), req := preq p,
          armedAt := s.fab.now, consumedAt := none } →
    exec (.fcInject p) s = .next (s.ends ((s.fab.taking p).armInject i)) ∧
    (2 ≤ pfield p 0x18 1 → pfield p 0x18 1 ≠ 3 →
      ∃ t, exec (.fcInject p) s = .next t ∧ Waits s t p ∧ t.fab.bare p = (s.fab.onFc (fun c => { c with inject := some i })).bare p) ∧
    (pfield p 0x18 1 = 0 → ∃ t, exec (.fcInject p) s = .next t ∧ t.fab.ctl = (s.fab.taking p).ctl ∧
      driven s t = [.engine (unitIdx (BitVec.ofNat 32 (pfield p 0x20 4))) (.inject (pfield p 0x19 1))] ∧
      t.fab.bare p = (s.fab.onFc (fun c => { c with inject := some i })).bare p) ∧
    (pfield p 0x18 1 = 3 → ∃ t, exec (.fcInject p) s = .next t ∧ Waits s t p ∧ t.fab.bare p = (s.fab.onFc (fun c => { c with
      inject := none, consumed := c.consumed ++ [{ i with consumedAt := some s.fab.now }] })).bare p)) ∧
  (∀ (s : State) (p : Packet) (u : BitVec 32), s.fab.passes rowUnitRetire p = true → u = BitVec.ofNat 32 (pfield p 0x20 4) →
    s.fab.canRetire u = true → s.fab.units.retiring.any (fun r => r.unit == u) = false →
    exec (.unitRetire p) s = .next (s.ends ((s.fab.taking p).startRetire u (some (preq p))).settle)) ∧
  (∀ (s : State) (p : Packet) (u : BitVec 32), s.fab.passes rowUnitRetire p = true → u = BitVec.ofNat 32 (pfield p 0x20 4) →
    unitType u ≠ 0 → s.fab.canRetire u = true → s.fab.units.retiring.any (fun r => r.unit == u) = false → s.fab.quiet = true →
    ∃ t, exec (.unitRetire p) s = .next t ∧ Waits s t p ∧
      t.fab.bare p = ({ s.fab with units := { s.fab.units with retiring := s.fab.units.retiring ++ [{ unit := u, req := some (preq p) }] } } :
        Fabric).bare p) ∧
  (∀ (s : State) (p : Packet) (u : BitVec 32), s.fab.passes rowUnitRetire p = true → u = BitVec.ofNat 32 (pfield p 0x20 4) →
    s.fab.canRetire u = false ∨ s.fab.units.retiring.any (fun r => r.unit == u) = true →
    ∃ t, exec (.unitRetire p) s = .next t ∧ Answers s t p (rep stState) ∧ t.fab.bare p = s.fab.bare p) ∧
  (∀ (s : State) (p : Packet), s.fab.passes rowLedgerRead p = true → pfield p 0x18 1 = 0 →
    ∃ t, exec (.ledgerRead p) s = .next t ∧ t.fab.ctl = (s.fab.taking p).ctl ∧
      driven s t = [.ledger 0 (leBytes 4 (pfield p 0x1C 4))] ∧
      t.fab.bare p = (s.fab.onLedger (fun l => { l with readReqs := l.readReqs ++ [preq p] })).bare p) ∧
  (∀ (s : State) (p : Packet), s.fab.passes rowLedgerRead p = true → pfield p 0x18 1 = 1 →
    ∃ t, exec (.ledgerRead p) s = .next t ∧ t.fab.bare p = s.fab.bare p ∧
      Answers s t p (repOk [(0x20, 8, s.fab.ledger.stress), (0x28, 8, s.fab.ledgerNow),
        (0x30, 4, Config.ratedStressH s.fab.rs.fuses.grade), (0x34, 1, b2n s.fab.ledger.life80 + 2 * b2n s.fab.ledger.life95)])) ∧
  (∀ (s : State) (p : Packet) (u : BitVec 32) (l : List Nat), s.fab.passes rowLedgerRead p = true → pfield p 0x18 1 = 2 →
    u = BitVec.ofNat 32 (pfield p 0x1C 4) → l = s.fab.persistStamps u →
    ∃ t, exec (.ledgerRead p) s = .next t ∧ t.fab.bare p = s.fab.bare p ∧
      Answers s t p (repOk [(0x20, 1, b2n (s.fab.ledger.retired.contains u)), (0x24, 4, l.length), (0x28, 8, l.foldl max 0)]))

/-! ### Telemetry packets (R429) -/

/-- R424: SLICE_QUERY answers in part 0 the slice's state, its flags where it is held, and how many units and keys are free; in parts
1 to 16 a part of the installed record, or 0 where none is installed; in parts 17 to 32 a part of the shadow record, of the shadow of
an amendment, of the installed record where there is neither, or 0 of a FREE slice; in part 33 the free engines, in part 34 the
retired ones, and in part 35 the free and retired DMA engines and ports. R343, R426: KEY_QUERY answers a slot's state, KEY_TAG, KEY_ID
and index, or zeros for a slot that the slice has not. R429: TM_GUARD, TM_RESOURCE and TM_CHIP answer the figures published at the
last boundary. None of them changes anything, but that TM_CHIP answers an unpublished temperature or voltage with a free value. -/
def Obligations.QueriesAndTelemetryOnlyRead : Prop :=
  (∀ (s : State) (p : Packet) (x : Slice), s.fab.passes rowSliceQuery p = true → pfield p 0x18 1 = 0 → x = s.fab.slice (pslice p) →
    ∃ t, exec (.sliceQuery p) s = .next t ∧ t.fab.bare p = s.fab.bare p ∧
      Answers s t p (repOk [(0x20, 1, sliceCode x.state), (0x21, 1, if holds x.state then recFlags x.record else 0),
        (0x22, 2, s.fab.freeEngines.length), (0x24, 2, s.fab.retiredEngines.length), (0x26, 1, s.fab.freeDma.length),
        (0x27, 1, s.fab.freePorts.length), (0x28, 2, s.fab.freeKeys)])) ∧
  (∀ (s : State) (p : Packet) (k : Nat) (x : Slice) (v : BitVec 256), s.fab.passes rowSliceQuery p = true → k = pfield p 0x18 1 → k ≠ 0 →
    x = s.fab.slice (pslice p) →
    v = (if k ≤ 16 then (if holds x.state then x.record.extractLsb' (256 * (k - 1)) 256 else 0)
      else if k ≤ 32 then (if x.state = .free then 0 else if x.state = .defining then x.shadow.extractLsb' (256 * (k - 17)) 256
        else (x.amendShadow.getD x.record).extractLsb' (256 * (k - 17)) 256)
      else if k = 33 then ofBits 256 s.fab.freeEngines else if k = 34 then ofBits 256 s.fab.retiredEngines
      else result [(0x20, 8, (ofBits 64 s.fab.freeDma).toNat), (0x28, 8, s.fab.units.dmaRetired.toNat),
        (0x30, 4, (ofBits 32 s.fab.freePorts).toNat), (0x34, 4, s.fab.units.portRetired.toNat)]) →
    ∃ t, exec (.sliceQuery p) s = .next t ∧ t.fab.bare p = s.fab.bare p ∧ Answers s t p { status := stOk, result := v }) ∧
  (∀ (s : State) (p : Packet), s.fab.passes rowKeyQuery p = true →
    s.fab.slotIndex (pslice p) (pfield p 0x18 1) (pfield p 0x1A 2) = none →
    ∃ t, exec (.keyQuery p) s = .next t ∧ Answers s t p (repOk) ∧ t.fab.bare p = s.fab.bare p) ∧
  (∀ (s : State) (p : Packet) (k : Nat), s.fab.passes rowKeyQuery p = true →
    s.fab.slotIndex (pslice p) (pfield p 0x18 1) (pfield p 0x1A 2) = some k →
    ∃ t, exec (.keyQuery p) s = .next t ∧ t.fab.bare p = s.fab.bare p ∧
      Answers s t p (repOk [(0x20, 1, (s.fab.slotInfo (pfield p 0x18 1) k).1),
        (0x22, 2, (s.fab.slotInfo (pfield p 0x18 1) k).2.2.toNat), (0x24, 4, (s.fab.slotInfo (pfield p 0x18 1) k).2.1.toNat), (0x28, 2, k)])) ∧
  (∀ (s : State) (p : Packet) (c : Counts), s.fab.passes rowTmGuard p = true → c = (s.fab.slice (pslice p)).seen →
    ∃ t, exec (.tmGuard p) s = .next t ∧ t.fab.bare p = s.fab.bare p ∧
      Answers s t p (repOk [(0x20, 8, c.guardStall), (0x28, 8, c.guardStretch), (0x30, 8, c.overrun), (0x38, 8, c.exhaust)])) ∧
  (∀ (s : State) (p : Packet) (r k : Nat), s.fab.passes rowTmResource p = true →
    (s.fab.slice (pslice p)).resource p.path (pfield p 0x18 1) = some r → k = r * 8 + pfield p 0x19 1 →
    ∃ t, exec (.tmResource p) s = .next t ∧ t.fab.bare p = s.fab.bare p ∧
      Answers s t p (repOk [(0x20, 8, (s.fab.slice (pslice p)).seen.bytes.getD k 0),
        (0x28, 8, if regKind r = 1 then (s.fab.slice (pslice p)).seen.shortfall.getD k 0 / 65536 else 0),
        (0x30, 4, minOf (s.fab.slice (pslice p)) r)])) ∧
  (∀ (s : State) (p : Packet) (g : ChipFigures) (w : Word × Fabric), s.fab.passes rowTmChip p = true → g = s.fab.env.chipPub →
    w = s.fab.drawWord →
    ∃ t, exec (.tmChip p) s = .next t ∧
      t.fab.bare p = (if g.temp.isSome ∧ g.volt.isSome then s.fab else w.2).bare p ∧
      Answers s t p (repOk [(0x20, 4, g.powerMw),
        (0x24, 2, match g.temp with | some c => (BitVec.ofInt 16 c).toNat | none => w.1.toNat % 65536),
        (0x26, 2, match g.volt with | some v => v | none => w.1.toNat / 65536 % 65536), (0x28, 4, g.droops), (0x2C, 4, g.throttleUs)]))

/-! ### Recovery packets (R280, R392, R395, R397, R404, R406, R430) -/

/-- R280, R395, R404, R406, R430: CHIP_NUMBER_SET sets the number of the next reset, and is refused with STATE while a slice is ACTIVE
or RESETTING or a group is not FREE. PEER_NOTICE of another chip takes it off the list of peers that are down (kind 2), breaks the
groups of its job (kind 4), or lists it (kinds 1 and 3), breaks the groups that it is a member of and fails the remote requests that
wait for it; it answers FULL where the list of 64 is full and STATE for the chip's own number. RECOVERY_QUERY only reads. DUMP_READ
copies bytes of a dump slot to host memory at the host port, where its last unit is answered, or at once from a frozen chip; bytes
that no dump wrote are free; without an open session with MEM_READ it is refused with STATE. -/
def Obligations.ChipNumberPeersAndDumpReads : Prop :=
  (∀ (s : State) (p : Packet), s.fab.passes rowChipNumberSet p = true →
    s.fab.slicesIn (fun x => x == .active || x == .resetting) = [] → s.fab.splice.groups.any (fun g => g.2.state != 0) = false →
    ∃ t, exec (.chipNumberSet p) s = .next t ∧ Answers s t p (repOk) ∧
      t.fab.bare p = ({ s.fab with splice := { s.fab.splice with chipNext := some (pfield p 0x18 2) } } : Fabric).bare p) ∧
  (∀ (s : State) (p : Packet), s.fab.passes rowChipNumberSet p = true →
    s.fab.slicesIn (fun x => x == .active || x == .resetting) ≠ [] ∨ s.fab.splice.groups.any (fun g => g.2.state != 0) = true →
    ∃ t, exec (.chipNumberSet p) s = .next t ∧ Answers s t p (rep stState) ∧ t.fab.bare p = s.fab.bare p) ∧
  (∀ (s : State) (p : Packet), s.fab.passes rowPeerNotice p = true → pfield p 0x18 1 = 2 → pfield p 0x1A 2 ≠ s.fab.splice.chip →
    ∃ t, exec (.peerNotice p) s = .next t ∧ Answers s t p (repOk) ∧
      t.fab.bare p = (s.fab.onRs (fun r => { r with peersDown := r.peersDown.filter (fun e => e.1 != pfield p 0x1A 2) })).bare p) ∧
  (∀ (s : State) (p : Packet) (chip : Nat) (f : Fabric), s.fab.passes rowPeerNotice p = true → chip = pfield p 0x1A 2 → chip ≠ s.fab.splice.chip →
    f = s.fab.taking p →
    (pfield p 0x18 1 = 4 → exec (.peerNotice p) s = .next (s.ends (((f.breakGroups (fun (g : Group) =>
      (g.state == 2 || g.state == 3) && gJob g.record == BitVec.ofNat 32 (pfield p 0x1C 4))).settle).reply (preq p) (repOk)))) ∧
    (pfield p 0x18 1 ≠ 4 → pfield p 0x18 1 ≠ 2 → s.fab.rs.peersDown.any (fun e => e.1 == chip) = false → 64 ≤ s.fab.rs.peersDown.length →
      ∃ t, exec (.peerNotice p) s = .next t ∧ Answers s t p (rep stFull) ∧ t.fab.bare p = s.fab.bare p) ∧
    (pfield p 0x18 1 ≠ 4 → pfield p 0x18 1 ≠ 2 → s.fab.rs.peersDown.any (fun e => e.1 == chip) = true ∨ s.fab.rs.peersDown.length < 64 →
      ∀ (l : List (Nat × Nat)) (g : Fabric),
      l = (if s.fab.rs.peersDown.any (fun e => e.1 == chip) then
          s.fab.rs.peersDown.map (fun e => if e.1 = chip then (e.1, pfield p 0x18 1) else e)
        else s.fab.rs.peersDown ++ [(chip, pfield p 0x18 1)]) →
      g = (f.onRs (fun r => { r with peersDown := l })).breakGroups (fun (x : Group) => (x.state == 2 || x.state == 3) && x.hasMember chip) →
      exec (.peerNotice p) s = .next (s.ends (((g.remotes.filter (fun r => r.2.peer == chip)).foldl (fun f r =>
        ({ f with remotes := f.remotes.del r.1 } : Fabric).failRemote r.2 8) g).settle.reply (preq p) (repOk))))) ∧
  (∀ (s : State) (p : Packet), s.fab.passes rowPeerNotice p = true → pfield p 0x1A 2 = s.fab.splice.chip →
    ∃ t, exec (.peerNotice p) s = .next t ∧ Answers s t p (rep stState) ∧ t.fab.bare p = s.fab.bare p) ∧
  (∀ (s : State) (p : Packet), s.fab.passes rowRecoveryQuery p = true →
    ∃ t, exec (.recoveryQuery p) s = .next t ∧ t.fab.bare p = s.fab.bare p ∧
      Answers s t p (repOk [(0x20, 8, s.fab.heartbeatWord.toNat), (0x28, 8, (s.fab.recoveryWord true).toNat),
        (0x30, 8, (s.fab.peerDownWord (pfield p 0x18 1)).toNat), (0x38, 8, (s.fab.peerDownWord (pfield p 0x18 1 + 1)).toNat)])) ∧
  (∀ (s : State) (p : Packet), s.fab.passes rowDumpRead p = true → s.fab.memReadOpen = false →
    ∃ t, exec (.dumpRead p) s = .next t ∧ Answers s t p (rep stState) ∧ t.fab.bare p = s.fab.bare p) ∧
  (∀ (s : State) (p : Packet) (n : Nat) (bytes : List Byte) (g h : Fabric) (o : Out), s.fab.passes rowDumpRead p = true →
    s.fab.memReadOpen = true → n = pfield p 0x1C 4 → bytes = (List.range n).zipWith
      (fun i b => (s.fab.rs.dump.byte (pfield p 0x18 1) (pfield p 0x20 8 + i)).getD b) (s.fab.drawBytes n).1 →
    o = .dumpCopy (pfield p 0x28 8) bytes → g = { s.fab with free := s.fab.free + n } →
    h = g.offerHost none n true [o] (done := some (preq p)) →
    (s.fab.rs.frozen = false →
      ∃ t, exec (.dumpRead p) s = .next t ∧ Waits s t p ∧ t.fab.reg 48 = h.reg 48 ∧ t.fab.bare p = h.bare p) ∧
    (s.fab.rs.frozen = true → ∃ t, exec (.dumpRead p) s = .next t ∧ Answers s t p (repOk) ∧ o ∈ driven s t ∧ t.fab.bare p = g.bare p))

/-- R30, R384, R392, R401, R430: CC_RESTART holds the cores and counts, and its reply waits; with no switch and no mode of
synchronisation pending nothing else changes. DUMP_TAKE asks every engine for its regions, and is refused with STATE while a dump is
taken. CHIP_RESET starts level 4, which freezes the chip, starts a dump and counts; POWER_CYCLE starts level 5 at once, or with its
drain when every queue has committed what it accepted, and waits for that; each is refused with STATE once a power cycle has begun. -/
def Obligations.ResetPacketsOfTheChip : Prop :=
  (∀ (s : State) (p : Packet), s.fab.passes rowCcRestart p = true →
    exec (.ccRestart p) s = .next (s.ends (((s.fab.taking p).onRs (fun r => { r with restartReq := some (preq p) })).startRestart 3))) ∧
  (∀ (s : State) (p : Packet), s.fab.passes rowCcRestart p = true → s.fab.frame.switch = none → s.fab.frame.sync.waiting = [] →
    ∃ t, exec (.ccRestart p) s = .next t ∧ Waits s t p ∧ t.fab.rs.restart = some s.fab.now ∧ t.fab.rs.restartReq = some (preq p) ∧
      t.fab.rs.armed = false ∧ t.fab.rs.restartCount = satAdd 16 s.fab.rs.restartCount 1 ∧ t.fab.coresUp = false ∧
      t.fab.slices = s.fab.slices ∧ t.fab.engines = s.fab.engines ∧ t.fab.sqs = s.fab.sqs ∧ t.fab.fns = s.fab.fns ∧
      t.fab.frame = s.fab.frame ∧ t.fab.mem = s.fab.mem ∧ t.fab.keys = s.fab.keys) ∧
  (∀ (s : State) (p : Packet), s.fab.passes rowDumpTake p = true → s.fab.rs.dump.taking.isSome = true →
    ∃ t, exec (.dumpTake p) s = .next t ∧ Answers s t p (rep stState) ∧ t.fab.bare p = s.fab.bare p) ∧
  (∀ (s : State) (p : Packet), s.fab.passes rowDumpTake p = true → s.fab.rs.dump.taking = none →
    ∃ t, exec (.dumpTake p) s = .next t ∧ t.fab.ctl = (s.fab.taking p).ctl ∧
      driven s t = s.fab.fidEngines.map (fun k => .engine k .regions) ∧
      t.fab.rs = { s.fab.rs with dump := { s.fab.rs.dump with taking := some 2, req := some (preq p), cause := none } } ∧
      { t.fab with rs := {}, engines := [], ctl := {}, out := [], writes := [] } =
        ({ s.fab with rs := {}, engines := [], ctl := {}, out := [], writes := [] } : Fabric)) ∧
  (∀ (s : State) (p : Packet), s.fab.passes rowChipReset p = true → s.fab.rs.l5Step ≠ 0 →
    ∃ t, exec (.chipReset p) s = .next t ∧ Answers s t p (rep stState) ∧ t.fab.bare p = s.fab.bare p) ∧
  (∀ (s : State) (p : Packet), s.fab.passes rowChipReset p = true → s.fab.rs.l5Step = 0 →
    exec (.chipReset p) s = .next (s.ends ((s.fab.taking p).startL4 none (some (preq p)))) ∧
    ∃ t, exec (.chipReset p) s = .next t ∧ t.fab.rs.frozen = true ∧ t.fab.rs.level = 4 ∧ t.fab.rs.l4Stage = 2 ∧
      t.fab.rs.l4Count = s.fab.rs.l4Count + 1 ∧ t.fab.rs.l4Req = some (preq p) ∧ t.fab.rs.l4Bank = some s.fab.frame.bank ∧
      t.fab.rs.dump.taking = some 0 ∧ t.fab.frame.switch = none ∧ t.fab.mem = s.fab.mem) ∧
  (∀ (s : State) (p : Packet), s.fab.passes rowPowerCycle p = true → s.fab.rs.l5Step ≠ 0 →
    ∃ t, exec (.powerCycle p) s = .next t ∧ Answers s t p (rep stState) ∧ t.fab.bare p = s.fab.bare p) ∧
  (∀ (s : State) (p : Packet) (f : Fabric), s.fab.passes rowPowerCycle p = true → s.fab.rs.l5Step = 0 →
    f = (s.fab.taking p).onRs (fun r => { r with l5Req := some (preq p), level := 5 }) →
    (pfield p 0x18 1 ≠ 1 → exec (.powerCycle p) s = .next (s.ends (f.startL5 none))) ∧
    (pfield p 0x18 1 = 1 → s.fab.sqs.all (fun e => e.2.accepted == e.2.commit) = true →
      exec (.powerCycle p) s = .next (s.ends ((f.onRs (fun r => { r with l5Drain := some s.fab.now, l5Step := 1 })).beginL5 none)))) ∧
  (∀ (s : State) (p : Packet), s.fab.passes rowPowerCycle p = true → s.fab.rs.l5Step = 0 → pfield p 0x18 1 = 1 →
    s.fab.sqs.all (fun e => e.2.accepted == e.2.commit) = false →
    ∃ t, exec (.powerCycle p) s = .next t ∧ Waits s t p ∧
      t.fab.bare p = (s.fab.onRs (fun r => { r with
        l5Req := some (preq p), level := 5, l5Drain := some s.fab.now, l5Step := 1 })).bare p)

/-- R380, R382, R397, R406: ENGINE_RESET of an engine in service or under reset begins a level 2 reset, and of an idle one resets it
through its port; it is refused with STATE for any other engine and while one is asked. SLICE_RESET begins a level 3 reset of an
ACTIVE slice and refuses any other with STATE; with nothing running the slice is RESETTING, its L3_CNT counts, and its reply waits.
VF_QUIESCE halts the queues of a VF and waits for what is issued; it is refused with STATE for a VF in no slice, quiesced or
under reset. VF_RESUME of one that is quiesced or quiescing opens its queues, answers a quiesce that waits ABORTED, and takes the
doorbells that came meanwhile; of any other it is refused with STATE. -/
def Obligations.ResetPacketsOfEnginesSlicesAndVfs : Prop :=
  (∀ (s : State) (p : Packet) (e : Engine), s.fab.passes rowEngineReset p = true → e = s.fab.engine (pfield p 0x18 1) →
    e.state = .inService → e.resetReq = none → e.running = none → e.queue = [] → e.testSeed = none → e.testOwner = none →
    s.fab.rs.hangs = [] → s.fab.quiet = true →
    ∃ t, exec (.engineReset p) s = .next t ∧ t.fab.ctl = (s.fab.taking p).ctl ∧ driven s t = [.engine (pfield p 0x18 1) .reset] ∧
      t.fab.engine (pfield p 0x18 1) = { e with
        state := .resetting, resetReq := some (preq p), resetFrom := s.fab.now, resetSent := true, resetWait := false } ∧
      { t.fab with engines := [], slices := [], ctl := {}, out := [], writes := [] } =
        ({ s.fab with engines := [], slices := [], ctl := {}, out := [], writes := [] } : Fabric)) ∧
  (∀ (s : State) (p : Packet) (e : Engine), s.fab.passes rowEngineReset p = true → e = s.fab.engine (pfield p 0x18 1) →
    e.state = .inService ∨ e.state = .resetting → e.resetReq = none →
    exec (.engineReset p) s = .next (s.ends (((s.fab.taking p).onEngine (pfield p 0x18 1) (fun e => { e with
      resetReq := some (preq p) })).startL2 (pfield p 0x18 1) true).settle)) ∧
  (∀ (s : State) (p : Packet) (e : Engine), s.fab.passes rowEngineReset p = true → e = s.fab.engine (pfield p 0x18 1) →
    (e.state ≠ .inService ∧ e.state ≠ .resetting) ∨ e.resetReq.isSome = true →
    ∃ t, exec (.engineReset p) s = .next t ∧ Answers s t p (rep stState) ∧ t.fab.bare p = s.fab.bare p) ∧
  (∀ (s : State) (p : Packet), s.fab.passes rowSliceReset p = true → (s.fab.slice (pslice p)).state ≠ .active →
    ∃ t, exec (.sliceReset p) s = .next t ∧ Answers s t p (rep stState) ∧ t.fab.bare p = s.fab.bare p) ∧
  (∀ (s : State) (p : Packet), s.fab.passes rowSliceReset p = true → (s.fab.slice (pslice p)).state = .active →
    exec (.sliceReset p) s = .next (s.ends (((s.fab.taking p).startL3 (pslice p)).onSlice (pslice p) (fun x => { x with
      resetReq := x.resetReq ++ [preq p] })).settle)) ∧
  (∀ (s : State) (p : Packet), s.fab.passes rowSliceReset p = true → (s.fab.slice (pslice p)).state = .active →
    (s.fab.slice (pslice p)).engineSet = [] → s.fab.queuesOf (fun x => x.slice == pslice p) = [] → s.fab.engines = [] →
    s.fab.splice.groups = [] → s.fab.keys.imports = [] → s.fab.rs.hangs = [] → s.fab.quiet = true →
    ∃ t, exec (.sliceReset p) s = .next t ∧ Waits s t p ∧ (t.fab.slice (pslice p)).state = .resetting ∧
      (t.fab.slice (pslice p)).l3Cnt = satAdd 16 (s.fab.slice (pslice p)).l3Cnt 1 ∧ (t.fab.slice (pslice p)).resetFrom = s.fab.now ∧
      (t.fab.slice (pslice p)).resetReq = (s.fab.slice (pslice p)).resetReq ++ [preq p] ∧ t.fab.mem = s.fab.mem ∧
      t.fab.tags = s.fab.tags ∧ t.fab.frame = s.fab.frame ∧ t.fab.fns = s.fab.fns) ∧
  (∀ (s : State) (p : Packet), s.fab.passes rowVfQuiesce p = true →
    (s.fab.fn (pfield p 0x18 1)).slice = none ∨ (s.fab.fn (pfield p 0x18 1)).resetState ≠ 0 ∨ (s.fab.fn (pfield p 0x18 1)).flr = true →
    ∃ t, exec (.vfQuiesce p) s = .next t ∧ Answers s t p (rep stState) ∧ t.fab.bare p = s.fab.bare p) ∧
  (∀ (s : State) (p : Packet) (n : Nat) (f : Fabric), s.fab.passes rowVfQuiesce p = true → n = pfield p 0x18 1 →
    (s.fab.fn n).slice.isSome = true → (s.fab.fn n).resetState = 0 → (s.fab.fn n).flr = false →
    f = (s.fab.taking p).each (s.fab.fnQueues n) (fun k f => f.onSq k (fun y => { y with state := 3 })) →
    exec (.vfQuiesce p) s = .next (s.ends (f.onFn n (fun y => { y with
      resetState := 1, quiesceReq := some (preq p), quiesceAt := f.now })).settle)) ∧
  (∀ (s : State) (p : Packet) (n : Nat) (x : Fn) (f : Fabric), s.fab.passes rowVfResume p = true → n = pfield p 0x18 1 → x = s.fab.fn n →
    x.resetState = 1 ∨ x.resetState = 2 →
    f = ((s.fab.taking p).onFn n (fun y => { y with resetState := 0, quiesceReq := none })).replyOpt x.quiesceReq (rep stAborted) →
    exec (.vfResume p) s = .next (s.ends ((f.each (f.fnQueues n) (fun k f =>
      (f.onSq k (fun y => { y with state := if y.destroy.isSome then 2 else 1 })).recheckTail k)).settle.reply (preq p) (repOk)))) ∧
  (∀ (s : State) (p : Packet) (q : Nat) (x : Sq), s.fab.passes rowVfQuiesce p = true →
    (s.fab.fn (pfield p 0x18 1)).slice.isSome = true → (s.fab.fn (pfield p 0x18 1)).resetState = 0 →
    (s.fab.fn (pfield p 0x18 1)).flr = false → s.fab.fnQueues (pfield p 0x18 1) = [q] → s.fab.sq? q = some x →
    0 < s.fab.stillIssued (pfield p 0x18 1) → s.fab.quiet = true →
    ∃ t, exec (.vfQuiesce p) s = .next t ∧ Waits s t p ∧
      t.fab.bare p = ((s.fab.onSq q (fun y => { y with state := 3 })).onFn (pfield p 0x18 1)
        (fun y => { y with resetState := 1, quiesceReq := some (preq p), quiesceAt := s.fab.now })).bare p) ∧
  (∀ (s : State) (p : Packet) (q : Nat) (x : Sq), s.fab.passes rowVfResume p = true →
    (s.fab.fn (pfield p 0x18 1)).resetState = 2 → (s.fab.fn (pfield p 0x18 1)).quiesceReq = none →
    s.fab.fnQueues (pfield p 0x18 1) = [q] → s.fab.sq? q = some x → x.latched = none → x.tail = x.accepted → x.destroy = none →
    s.fab.quiet = true →
    ∃ t, exec (.vfResume p) s = .next t ∧ Answers s t p (repOk) ∧
      t.fab.bare p = ((s.fab.onSq q (fun y => { y with state := if y.destroy.isSome then 2 else 1, latched := none })).onFn (pfield p 0x18 1)
        (fun y => { y with resetState := 0, quiesceReq := none })).bare p) ∧
  (∀ (s : State) (p : Packet), s.fab.passes rowVfResume p = true →
    (s.fab.fn (pfield p 0x18 1)).resetState ≠ 1 → (s.fab.fn (pfield p 0x18 1)).resetState ≠ 2 →
    ∃ t, exec (.vfResume p) s = .next t ∧ Answers s t p (rep stState) ∧ t.fab.bare p = s.fab.bare p)

/-! ### Group packets (R281, R282, R299, R302, R431) -/

/-- R281, R282, R299, R302, R431: GRP_DEFINE stores one of eight parts of a group that is FREE or DEFINING, and is refused with STATE
for any other. GRP_CREATE names the check that fails, or creates the group: it binds the step queue, sends JOIN to the
successor, and takes a JOIN that came before. GRP_DESTROY breaks a group that is not FREE and is answered when nothing of it is left;
a DEFINING one with no step queue is free at once; it is refused with STATE for a FREE one and while one is asked. GRP_QUERY answers
the figures of a group or a part of its record and only reads. SWITCH_ATTEST sets or empties an entry. -/
def Obligations.GroupPackets : Prop :=
  (∀ (s : State) (p : Packet), s.fab.passes rowGrpDefine p = true → (s.fab.group (pgroup p)).state < 2 →
    ∃ t, exec (.grpDefine p) s = .next t ∧ Answers s t p (repOk) ∧
      t.fab.bare p = (s.fab.onGroup (pgroup p) (fun y => { y with
        state := 1, record := setField y.record (32 * pfield p 0x19 1) 32 (pdata p).toNat,
        parts := y.parts ||| BitVec.ofNat 8 (2 ^ pfield p 0x19 1) })).bare p) ∧
  (∀ (s : State) (p : Packet), s.fab.passes rowGrpDefine p = true → 2 ≤ (s.fab.group (pgroup p)).state →
    ∃ t, exec (.grpDefine p) s = .next t ∧ Answers s t p (rep stState) ∧ t.fab.bare p = s.fab.bare p) ∧
  (∀ (s : State) (p : Packet) (n : Nat), s.fab.passes rowGrpCreate p = true → s.fab.grpCheck (s.fab.group (pgroup p)) = some n →
    ∃ t, exec (.grpCreate p) s = .next t ∧ Answers s t p (repCheck n) ∧ t.fab.bare p = s.fab.bare p) ∧
  (∀ (s : State) (p : Packet) (q : Nat) (x : Sq) (g : Group), s.fab.passes rowGrpCreate p = true → g = s.fab.group (pgroup p) →
    s.fab.grpCheck g = none → s.fab.grpQueue g.record = some q → s.fab.sq? q = some x → s.fab.splice.joins = [] →
    s.fab.quiet = true →
    ∃ t, exec (.grpCreate p) s = .next t ∧ Answers s t p (repOk) ∧
      t.fab.bare p = (((s.fab.onSq q (fun y => { y with group := some (pgroup p) })).onGroup (pgroup p) (fun _ =>
        ({ state := 2, record := g.record, parts := g.parts, base := x.accepted, joinFrom := s.fab.now } : Group))).sendSucc (pgroup p)
          (.join (gJob g.record) (joinCrcOf g.record))).bare p) ∧
  (∀ (s : State) (p : Packet), s.fab.passes rowGrpCreate p = true → s.fab.grpCheck (s.fab.group (pgroup p)) = none →
    exec (.grpCreate p) s = .next (s.ends (((s.fab.taking p).createGroup (pgroup p)).settle.reply (preq p) (repOk)))) ∧
  (∀ (s : State) (p : Packet), s.fab.passes rowGrpDestroy p = true → (s.fab.group (pgroup p)).state ≠ 0 →
    (s.fab.group (pgroup p)).destroy = none →
    exec (.grpDestroy p) s = .next (s.ends (((s.fab.taking p).breakGroup (pgroup p)).onGroup (pgroup p) (fun y => { y with
      destroy := some (preq p) })).settle)) ∧
  (∀ (s : State) (p : Packet), s.fab.passes rowGrpDestroy p = true →
    (s.fab.group (pgroup p)).state = 0 ∨ (s.fab.group (pgroup p)).destroy.isSome = true →
    ∃ t, exec (.grpDestroy p) s = .next t ∧ Answers s t p (rep stState) ∧ t.fab.bare p = s.fab.bare p) ∧
  (∀ (s : State) (p : Packet), s.fab.passes rowGrpDestroy p = true → (s.fab.group (pgroup p)).state = 1 →
    (s.fab.group (pgroup p)).destroy = none → s.fab.stepQueue (pgroup p) = none → s.fab.quiet = true →
    ∃ t, exec (.grpDestroy p) s = .next t ∧ Answers s t p (repOk) ∧
      t.fab.bare p = ({ s.fab with splice := { s.fab.splice with groups := s.fab.splice.groups.del (pgroup p) } } : Fabric).bare p) ∧
  (∀ (s : State) (p : Packet), s.fab.passes rowGrpQuery p = true → pfield p 0x19 1 = 0 →
    ∃ t, exec (.grpQuery p) s = .next t ∧ t.fab.bare p = s.fab.bare p ∧
      Answers s t p (repOk [(0x20, 8, (s.fab.spliceGrp (pgroup p)).toNat), (0x28, 8, (s.fab.spliceStep (pgroup p)).toNat),
        (0x30, 8, (s.fab.spliceLag (pgroup p)).toNat), (0x38, 8, (s.fab.spliceWait (pgroup p)).toNat)])) ∧
  (∀ (s : State) (p : Packet), s.fab.passes rowGrpQuery p = true → pfield p 0x19 1 ≠ 0 →
    ∃ t, exec (.grpQuery p) s = .next t ∧ t.fab.bare p = s.fab.bare p ∧
      Answers s t p { status := stOk, result := (s.fab.group (pgroup p)).record.extractLsb' (256 * (pfield p 0x19 1 - 1)) 256 }) ∧
  (∀ (s : State) (p : Packet) (w : Word) (a : Tab Word), s.fab.passes rowSwitchAttest p = true →
    w = BitVec.ofNat 64 (bf (pfield p 0x1A 2) 48 16 + bf (pfield p 0x1E 2) 32 16 + bf (pfield p 0x20 1) 29 3 +
      bf (pslice p) 23 6 + bf (pfield p 0x1C 2) 13 10 + 1) →
    a = (if pfield p 0x19 1 = 1 then s.fab.splice.attest.put (pfield p 0x18 1) w else s.fab.splice.attest.del (pfield p 0x18 1)) →
    ∃ t, exec (.switchAttest p) s = .next t ∧ Answers s t p (repOk) ∧
      t.fab.bare p = ({ s.fab with splice := { s.fab.splice with attest := a } } : Fabric).bare p)

/-! ### Intakes and host registers (R142, R154, R157, R174, R353, R371, R408, R411, R433 to R439, R446) -/

/-- R408, R419: a mailbox packet joins an intake of 16, and a live function's eighth word submits the packet of its eight words to an
intake of 16 or 4; a full intake drops the packet and counts it, as does a function whose reply ring is not enabled. While the cores
do not run, the packet of a mailbox, or of a function whose reply ring is enabled, is answered BUSY at once, as `busyAnswer` does it.
A function that is not live submits nothing. -/
def Obligations.IntakesQueueOrCount : Prop :=
  (∀ (s : State) (p : Packet) (id : BitVec 32), s.fab.inReset = false → s.fab.busyOn = false → p.path = .mailbox id →
    s.fab.ctl.mailbox.length < 16 →
    exec (.mailboxPacket p) s = .next (s.after (s.fab.onCtl (fun c => { c with mailbox := c.mailbox ++ [p] })))) ∧
  (∀ (s : State) (p : Packet) (id : BitVec 32), s.fab.inReset = false → s.fab.busyOn = false → p.path = .mailbox id →
    16 ≤ s.fab.ctl.mailbox.length →
    exec (.mailboxPacket p) s = .next (s.after (s.fab.onCtl (fun c => { c with drop := satAdd 16 c.drop 1 })))) ∧
  (∀ (s : State) (n : Nat) (w : Word) (p : Packet), s.fab.inReset = false → s.fab.busyOn = false → s.fab.fnLive n = true →
    p = packetOf n ((List.range 7).map (fun i => (s.fab.fn n).ctlReq.getD i 0) ++ [w]) →
    (s.fab.fn n).ctlRing.enable = true → (s.fab.fn n).intake.length < intakeDepth n →
    exec (.ctlReqSubmit n w) s = .next (s.after (s.fab.onFn n (fun x => { x with intake := x.intake ++ [(p, s.fab.accepts)] })))) ∧
  (∀ (s : State) (n : Nat) (w : Word), s.fab.inReset = false → s.fab.busyOn = false → s.fab.fnLive n = true →
    (s.fab.fn n).ctlRing.enable = false ∨ intakeDepth n ≤ (s.fab.fn n).intake.length →
    exec (.ctlReqSubmit n w) s = .next (s.after (s.fab.onFn n (fun x => { x with
      ctlRing := { x.ctlRing with lost := satAdd 16 x.ctlRing.lost 1 } })))) ∧
  (∀ (s : State) (p : Packet) (id : BitVec 32), s.fab.inReset = false → s.fab.busyOn = true → p.path = .mailbox id →
    exec (.mailboxPacket p) s = .next (s.ends ((openRun s.fab).busyAnswer p))) ∧
  (∀ (s : State) (n : Nat) (w : Word) (p : Packet), s.fab.inReset = false → s.fab.busyOn = true → s.fab.fnLive n = true →
    p = packetOf n ((List.range 7).map (fun i => (s.fab.fn n).ctlReq.getD i 0) ++ [w]) → (s.fab.fn n).ctlRing.enable = true →
    exec (.ctlReqSubmit n w) s = .next (s.ends ((openRun s.fab).busyAnswer p))) ∧
  (∀ (s : State) (n : Nat) (w : Word), s.fab.inReset = false → s.fab.fnLive n = false → exec (.ctlReqSubmit n w) s = .next (s.after s.fab)) ∧
  (∀ (n : Nat) (l : List Word), (packetOf n l).path = .fn n ∧ (packetOf n l).opcode = (l.getD 0 0).extractLsb' 0 16 ∧
    (packetOf n l).seq = (l.getD 0 0).extractLsb' 32 32)

/-- R142: the doorbell of an open queue accepts every descriptor up to a TAIL that the ring can hold, in order; a TAIL that accepts
none only stands; any other TAIL is an error that is counted and raised, and a closed queue counts the write. R143: at an index
without a queue the write is counted for the function's queue 0, or for the function where it has none. R384: a frozen chip latches
it. A function that is not live does nothing. -/
def Obligations.DoorbellsAcceptDescriptors : Prop :=
  (∀ (s : State) (n j q : Nat) (x : Sq) (v : BitVec 32), s.fab.inReset = false → s.fab.rs.frozen = false → s.fab.fnLive n = true → j < 64 →
    (s.fab.fn n).sqs.find j = some q → s.fab.sq? q = some x → s.fab.queueOpen x = true → v ≠ x.accepted →
    (v - x.accepted).toNat ≤ (v - x.commit).toNat → (v - x.commit).toNat ≤ 2 ^ x.ringLog2 →
    exec (.sqDoorbell n j v) s = .next (s.after { s.fab.onSq q (fun y => { y with
      tail := v, accepted := v, shAccepted := v,
      descs := y.descs ++ newDescs y.accepted s.fab.accepts s.fab.now (v - x.accepted).toNat }) with
        accepts := s.fab.accepts + (v - x.accepted).toNat })) ∧
  (∀ (s : State) (n j q : Nat) (x : Sq) (v : BitVec 32), s.fab.inReset = false → s.fab.rs.frozen = false → s.fab.fnLive n = true → j < 64 →
    (s.fab.fn n).sqs.find j = some q → s.fab.sq? q = some x → s.fab.queueOpen x = true → v ≠ x.accepted →
    (v - x.commit).toNat < (v - x.accepted).toNat ∨ 2 ^ x.ringLog2 < (v - x.commit).toNat →
    exec (.sqDoorbell n j v) s = .next (s.after ((s.fab.onSq q (fun y => { y with tail := v, dbErr := satAdd 16 y.dbErr 1 })).raise
      { source := srcQm, unit := centralUnit srcQm, cause := 0x0710, owners := [x.slice], fns := [x.fn], sq := q,
        syndrome := BitVec.ofNat 192 v.toNat }))) ∧
  (∀ (s : State) (n j q : Nat) (x : Sq) (v : BitVec 32), s.fab.inReset = false → s.fab.rs.frozen = false → s.fab.fnLive n = true → j < 64 →
    (s.fab.fn n).sqs.find j = some q → s.fab.sq? q = some x → s.fab.queueOpen x = false →
    exec (.sqDoorbell n j v) s = .next (s.after (s.fab.onSq q (fun y => { y with tail := v, dbShut := satAdd 16 y.dbShut 1 })))) ∧
  (∀ (s : State) (n j q : Nat) (v : BitVec 32), s.fab.inReset = false → s.fab.rs.frozen = true → s.fab.fnLive n = true → j < 64 →
    (s.fab.fn n).sqs.find j = some q →
    exec (.sqDoorbell n j v) s = .next (s.after (s.fab.onSq q (fun y => { y with tail := v, latched := some v })))) ∧
  (∀ (s : State) (n j q : Nat) (x : Sq), s.fab.inReset = false → s.fab.rs.frozen = false → s.fab.fnLive n = true → j < 64 →
    (s.fab.fn n).sqs.find j = some q → s.fab.sq? q = some x → s.fab.queueOpen x = true →
    exec (.sqDoorbell n j x.accepted) s = .next (s.after (s.fab.onSq q (fun y => { y with tail := x.accepted })))) ∧
  (∀ (s : State) (n j : Nat) (v : BitVec 32), s.fab.inReset = false → s.fab.fnLive n = true → j < 64 → (s.fab.fn n).sqs.find j = none →
    exec (.sqDoorbell n j v) s = .next (s.after (match (s.fab.fn n).sqs.find 0 with
      | some q => s.fab.onSq q (fun x => { x with dbShut := satAdd 16 x.dbShut 1 })
      | none => s.fab.onFn n (fun x => { x with dbShut0 := satAdd 16 x.dbShut0 1 })))) ∧
  (∀ (s : State) (n j : Nat) (v : BitVec 32), s.fab.inReset = false → s.fab.fnLive n = false ∨ 64 ≤ j →
    exec (.sqDoorbell n j v) s = .next (s.after s.fab)) ∧
  (∀ (first : BitVec 32) (order now n i : Nat), i < n →
    (newDescs first order now n)[i]? = some { seq := first + BitVec.ofNat 32 i, order := order + i, acceptedAt := now })

/-- R154, R174, R353, R411: a head that lies between the old head and the tail is taken, any other is ignored and marks the
error; a head of the reply ring that is taken lets the replies that wait into the ring and ends a disable that it held. A map queue's
doorbell is taken within its ring, and counted otherwise. R384: a frozen chip ignores them all. -/
def Obligations.HeadsAndMapQueueDoorbell : Prop :=
  (∀ (s : State) (n k : Nat) (v : BitVec 32), s.fab.inReset = false → s.fab.rs.frozen = false →
    exec (.cqDoorbell n k v) s = .next (s.after (s.fab.onCq n k (fun c =>
      if headOk c.head c.tail v then { c with head := v } else { c with headErr := true })))) ∧
  (∀ (s : State) (n : Nat) (v : BitVec 32), s.fab.inReset = false → s.fab.rs.frozen = false → s.fab.fnLive n = true →
    exec (.faultHead n v) s = .next (s.after (s.fab.onFn n (fun x =>
      if headOk x.faultRing.head x.faultRing.tail v then { x with faultRing := { x.faultRing with head := v } }
      else { x with faultRing := { x.faultRing with headErr := true } })))) ∧
  (∀ (s : State) (n : Nat) (v : BitVec 32), s.fab.inReset = false → s.fab.rs.frozen = false → s.fab.fnLive n = true →
    headOk (s.fab.fn n).ctlRing.head (s.fab.fn n).ctlRing.tail v = true → (s.fab.fn n).waiting = [] →
    (s.fab.fn n).ctlRing.disableHeld = false →
    exec (.ctlHead n v) s = .next (s.after (s.fab.onFn n (fun x => { x with ctlRing := { x.ctlRing with head := v } })))) ∧
  (∀ (s : State) (n : Nat) (v : BitVec 32) (r : Ring), s.fab.inReset = false → s.fab.rs.frozen = false → s.fab.fnLive n = true →
    r = (s.fab.fn n).ctlRing → headOk r.head r.tail v = true →
    exec (.ctlHead n v) s = .next (s.ends ((((openRun s.fab).onFn n (fun x => { x with
      ctlRing := { r with head := v } })).drainReplies n (s.fab.fn n).waiting.length).settleDisable n))) ∧
  (∀ (s : State) (n : Nat) (v : BitVec 32), s.fab.inReset = false → s.fab.rs.frozen = false → s.fab.fnLive n = true →
    headOk (s.fab.fn n).ctlRing.head (s.fab.fn n).ctlRing.tail v = false →
    exec (.ctlHead n v) s = .next (s.after (s.fab.onFn n (fun x => { x with ctlRing := { x.ctlRing with headErr := true } })))) ∧
  (∀ (s : State) (k : Nat) (v : BitVec 32) (u : SliceTu), s.fab.inReset = false → s.fab.rs.frozen = false → u = (s.fab.slice k).tu →
    mapqEnable u.base = true →
    v = u.applied ∨ ((v - u.applied).toNat ≤ (v - u.retired).toNat ∧ (v - u.retired).toNat ≤ 2 ^ mapqLog2 u.base) →
    exec (.mapqDoorbell k v) s = .next (s.after (s.fab.onTu k (fun y => { y with tail := v })))) ∧
  (∀ (s : State) (k : Nat) (v : BitVec 32) (u : SliceTu), s.fab.inReset = false → s.fab.rs.frozen = false → u = (s.fab.slice k).tu →
    mapqEnable u.base = false ∨
      (v ≠ u.applied ∧ ((v - u.retired).toNat < (v - u.applied).toNat ∨ 2 ^ mapqLog2 u.base < (v - u.retired).toNat)) →
    exec (.mapqDoorbell k v) s = .next (s.after (s.fab.onTu k (fun y => { y with dbErr := satAdd 16 y.dbErr 1 })))) ∧
  (∀ (s : State) (n k : Nat) (v : BitVec 32), s.fab.inReset = false → s.fab.rs.frozen = true →
    exec (.cqDoorbell n k v) s = .next (s.after s.fab) ∧ exec (.faultHead n v) s = .next (s.after s.fab) ∧
    exec (.ctlHead n v) s = .next (s.after s.fab) ∧ exec (.mapqDoorbell k v) s = .next (s.after s.fab)) ∧
  (∀ (head tail v : BitVec 32), headOk head tail v = true ↔ (v - head).toNat ≤ (tail - head).toNat)

/-- R157, R371, R388, R439: a fence write of a live function sets the word and its shadow, and lets on what waits for it; a
heartbeat of cores that run is taken where it is the first or the next in order and counted as bad where it is not, one that comes
4 ms or more after the last does not stop the watchdog, and one during a restart is taken within 20 ms of its begin once the
firmware is loaded; a ring window write of a live function stores the bytes that fall within the ring, under the slice's key. -/
def Obligations.FencesHeartbeatAndRingWindow : Prop :=
  (∀ (s : State) (n k : Nat) (w : Word), s.fab.inReset = false → s.fab.rs.frozen = false → s.fab.fnLive n = true → k < 1024 →
    s.fab.queuesOf (fun x => x.fn == n) = [] → s.fab.quiet = true →
    exec (.fenceWrite n k w) s = .next (s.after (s.fab.onFence n k (fun x => { x with
      value := w.extractLsb' 0 32, shValue := w.extractLsb' 0 32, irqEn := bitAt w 62, vector := (w.extractLsb' 56 6).toNat,
      error := x.error && !(bitAt w 63), shError := x.error && !(bitAt w 63) })))) ∧
  (∀ (s : State) (n k : Nat) (w : Word), s.fab.inReset = false → s.fab.rs.frozen = false → s.fab.fnLive n = true → k < 1024 →
    exec (.fenceWrite n k w) s = .next (s.ends ((((openRun s.fab).onFence n k (fun x => { x with
      value := w.extractLsb' 0 32, shValue := w.extractLsb' 0 32, irqEn := bitAt w 62, vector := (w.extractLsb' 56 6).toNat,
      error := x.error && !(bitAt w 63), shError := x.error && !(bitAt w 63) })).settleFn n).settle))) ∧
  (∀ (s : State) (c : BitVec 32) (fw : BitVec 4), s.fab.rs.boot = .beat ∨ s.fab.rs.boot = .running →
    s.fab.rs.l4Stage < 4 ∨ 6 < s.fab.rs.l4Stage →
    (s.fab.rs.restart = none → s.fab.rs.armed = false ∨ s.fab.now < s.fab.rs.hbAt + 4000000 →
      (s.fab.rs.hbAny = true → c = s.fab.rs.hbCount + 1) →
      exec (.heartbeat c fw) s = .next (s.ends ((openRun s.fab).acceptBeat c fw))) ∧
    (s.fab.rs.restart = none → s.fab.rs.armed = true → s.fab.rs.hbAt + 4000000 ≤ s.fab.now →
      exec (.heartbeat c fw) s = .next (s.ends (openRun s.fab).watchdogExpire)) ∧
    (∀ t, s.fab.rs.restart = some t → s.fab.rs.restartLoaded = true → s.fab.rs.restartLate = false → s.fab.now ≤ t + 20000000 →
      exec (.heartbeat c fw) s = .next (s.ends ((openRun s.fab).acceptBeat c fw))) ∧
    (∀ t, s.fab.rs.restart = some t → s.fab.rs.restartLoaded = false ∨ s.fab.rs.restartLate = true ∨ t + 20000000 < s.fab.now →
      exec (.heartbeat c fw) s = .next (s.after s.fab))) ∧
  (∀ (s : State) (c : BitVec 32) (fw : BitVec 4), s.fab.rs.boot = .running → s.fab.rs.l4Stage = 0 → s.fab.rs.restart = none →
    (s.fab.rs.armed = false ∨ s.fab.now < s.fab.rs.hbAt + 4000000) → (s.fab.rs.hbAny = true → c = s.fab.rs.hbCount + 1) →
    s.fab.rs.summaryDue = false → s.fab.ledger.flushing = false →
    exec (.heartbeat c fw) s = .next (s.after (s.fab.onRs (fun r => { r with
      hbCount := c, fwState := fw, hbAt := s.fab.now, hbAny := true, armed := true })))) ∧
  (∀ (s : State) (c : BitVec 32) (fw : BitVec 4), s.fab.rs.boot = .running → s.fab.rs.l4Stage = 0 → s.fab.rs.restart = none →
    (s.fab.rs.armed = false ∨ s.fab.now < s.fab.rs.hbAt + 4000000) → s.fab.rs.hbAny = true → c ≠ s.fab.rs.hbCount + 1 →
    exec (.heartbeat c fw) s = .next (s.after (s.fab.onRs (fun r => { r with badBeat := satAdd 16 r.badBeat 1 })))) ∧
  (∀ (s : State) (n o a : Nat) (x : Sq) (data kept : List Byte), s.fab.inReset = false → s.fab.fnLive n = true →
    s.fab.sqOf n (o / 0x40000) = some x → a = x.ringStack * 2 ^ 36 + x.ringBase + o % 0x40000 →
    kept = data.take (2 ^ x.ringLog2 * (if x.gen = 1 then 32 else 64) - o % 0x40000) → kept ≠ [] →
    exec (.ringWindowWrite n o data) s = .next (s.after ({ s.fab with mem := memStore s.fab.mem [.bytes a kept] } |>.onKeys (fun k => { k with
      lineKeys := markLines k.lineKeys (a / 64) ((a + kept.length - 1) / 64 + 1 - a / 64) (s.fab.slotKeyNo (s.fab.slice x.slice).keyBase) })))) ∧
  (∀ (s : State) (n o : Nat) (x : Sq) (data : List Byte), s.fab.inReset = false → s.fab.sqOf n (o / 0x40000) = some x →
    data.take (2 ^ x.ringLog2 * (if x.gen = 1 then 32 else 64) - o % 0x40000) = [] →
    exec (.ringWindowWrite n o data) s = .next (s.after s.fab)) ∧
  (∀ (s : State) (n o : Nat) (data : List Byte), s.fab.inReset = false → s.fab.fnLive n = false ∨ s.fab.sqOf n (o / 0x40000) = none →
    exec (.ringWindowWrite n o data) s = .next (s.after s.fab))

/-- R446: a fault ring, a reply ring and a map queue take their address, size and vector only while ENABLE is 0, and the vector at
any time; setting ENABLE where it is 0 clears the positions. Clearing ENABLE of a fault ring acts at once; of a reply ring it is
held while a reply of the function is pending; of a map queue it is ignored while a record is pending. A frozen chip, and a function
that is not live, ignore the writes. -/
def Obligations.EnableLockedRings : Prop :=
  (∀ (s : State) (n : Nat) (v : Word), s.fab.inReset = false → s.fab.rs.frozen = false → s.fab.fnLive n = true →
    ((s.fab.fn n).faultRing.enable = false →
      exec (.faultRingEnable n v) s = .next (s.after (s.fab.onFn n (fun x => { x with faultRing := { x.faultRing with
        addr := (v.extractLsb' 12 52).toNat, log2 := (v.extractLsb' 8 4).toNat, vector := (v.extractLsb' 2 6).toNat,
        enable := true, head := 0, tail := 0 } }))) ∧
      exec (.faultRingDisable n v) s = .next (s.after (s.fab.onFn n (fun x => { x with faultRing := { x.faultRing with
        addr := (v.extractLsb' 12 52).toNat, log2 := (v.extractLsb' 8 4).toNat, vector := (v.extractLsb' 2 6).toNat, enable := false } })))) ∧
    ((s.fab.fn n).faultRing.enable = true →
      exec (.faultRingEnable n v) s = .next (s.after (s.fab.onFn n (fun x => { x with
        faultRing := { x.faultRing with vector := (v.extractLsb' 2 6).toNat, enable := true } }))) ∧
      exec (.faultRingDisable n v) s = .next (s.after (s.fab.onFn n (fun x => { x with
        faultRing := { x.faultRing with vector := (v.extractLsb' 2 6).toNat, enable := false } }))))) ∧
  (∀ (s : State) (n : Nat) (v : Word), s.fab.inReset = false → s.fab.rs.frozen = false → s.fab.fnLive n = true →
    ((s.fab.fn n).ctlRing.enable = false →
      exec (.ctlRingEnable n v) s = .next (s.after (s.fab.onFn n (fun x => { x with ctlRing := { x.ctlRing with
        addr := (v.extractLsb' 12 52).toNat, log2 := (v.extractLsb' 8 4).toNat, vector := (v.extractLsb' 2 6).toNat,
        enable := true, head := 0, tail := 0 } }))) ∧
      exec (.ctlRingDisable n v) s = .next (s.after (s.fab.onFn n (fun x => { x with ctlRing := { x.ctlRing with
        addr := (v.extractLsb' 12 52).toNat, log2 := (v.extractLsb' 8 4).toNat, vector := (v.extractLsb' 2 6).toNat, enable := false } })))) ∧
    ((s.fab.fn n).ctlRing.enable = true →
      exec (.ctlRingEnable n v) s = .next (s.after (s.fab.onFn n (fun x => { x with
        ctlRing := { x.ctlRing with vector := (v.extractLsb' 2 6).toNat } })))) ∧
    ((s.fab.fn n).ctlRing.enable = true → s.fab.pendingOf n = true ∨ (s.fab.fn n).waiting ≠ [] →
      exec (.ctlRingDisable n v) s = .next (s.after (s.fab.onFn n (fun x => { x with
        ctlRing := { x.ctlRing with disableHeld := true, heldVector := (v.extractLsb' 2 6).toNat } })))) ∧
    ((s.fab.fn n).ctlRing.enable = true → s.fab.pendingOf n = false → (s.fab.fn n).waiting = [] →
      exec (.ctlRingDisable n v) s = .next (s.after (s.fab.onFn n (fun x => { x with ctlRing := { x.ctlRing with
        vector := (v.extractLsb' 2 6).toNat, heldVector := (v.extractLsb' 2 6).toNat, enable := false, disableHeld := false } }))))) ∧
  (∀ (s : State) (k : Nat) (v : Word) (u : SliceTu), s.fab.inReset = false → s.fab.rs.frozen = false → k < 64 → u = (s.fab.slice k).tu →
    (mapqEnable u.base = false →
      exec (.mapqEnable k v) s = .next (s.after (s.fab.onTu k (fun y => { y with
        base := (v ||| 1) &&& ~~~2, tail := 0, applied := 0, retired := 0, unretired := [], stalled := false }))) ∧
      exec (.mapqDisable k v) s = .next (s.after (s.fab.onTu k (fun y => { y with base := (v &&& ~~~1) &&& ~~~2 })))) ∧
    (mapqEnable u.base = true →
      exec (.mapqEnable k v) s = .next (s.after (s.fab.onTu k (fun y => { y with base := (y.base &&& ~~~0xFC) ||| (v &&& 0xFC) })))) ∧
    (mapqEnable u.base = true → u.applied = u.tail → u.pendingAcks = 0 →
      exec (.mapqDisable k v) s = .next (s.after (s.fab.onTu k (fun y => { y with
        base := ((y.base &&& ~~~0xFC) ||| (v &&& 0xFC)) &&& ~~~1 })))) ∧
    (mapqEnable u.base = true → u.applied ≠ u.tail ∨ u.pendingAcks ≠ 0 →
      exec (.mapqDisable k v) s = .next (s.after (s.fab.onTu k (fun y => y))))) ∧
  (∀ (s : State) (n k : Nat) (v : Word), s.fab.inReset = false →
    (s.fab.rs.frozen = true ∨ s.fab.fnLive n = false →
      exec (.faultRingEnable n v) s = .next (s.after s.fab) ∧ exec (.faultRingDisable n v) s = .next (s.after s.fab) ∧
      exec (.ctlRingEnable n v) s = .next (s.after s.fab) ∧ exec (.ctlRingDisable n v) s = .next (s.after s.fab)) ∧
    (s.fab.rs.frozen = true ∨ 64 ≤ k →
      exec (.mapqEnable k v) s = .next (s.after s.fab) ∧ exec (.mapqDisable k v) s = .next (s.after s.fab)))

/-- R384, R434 to R437: a read of 4 or 8 aligned bytes gives them of the register's word and clears the read-clear fields that lie
wholly in them, so that a read of IRX_SYNC_STATUS clears both its counters and one of its upper half the second alone; any other read
gives all ones; of a frozen chip every register of a live function but one reads all ones and nothing is cleared. A write that is not
of 4 or 8 bytes at a multiple of 8, or of a function that is not live, is discarded; a write of 8 bytes reaches IRX_ATTEST_BUF, the
error bit of the ledger, a word of a VF's request, and the doorbell of a queue. -/
def Obligations.RegisterReadsAndWrites : Prop :=
  (∀ (s : State) (n o size : Nat), s.fab.inReset = false → goodAccess o size = false →
    exec (.registerRcRead n o size) s = .next (s.after s.fab [.readData n o size (BitVec.allOnes 64)])) ∧
  (∀ (s : State) (n o : Nat), s.fab.inReset = false → o % 8 = 0 → s.fab.rs.frozen = false → s.fab.rcFields n o = [] →
    exec (.registerRcRead n o 8) s = .next (s.after s.fab [.readData n o 8 (s.fab.regWord n o)])) ∧
  (∀ (s : State), s.fab.inReset = false → s.fab.rs.frozen = false →
    exec (.registerRcRead 0 0x1010 8) s = .next (s.after (s.fab.onSync (fun y => { y with missCnt := 0, glitchCnt := 0 }))
      [.readData 0 0x1010 8 s.fab.syncStatusWord])) ∧
  (∀ (s : State), s.fab.inReset = false → s.fab.rs.frozen = false →
    exec (.registerRcRead 0 0x1014 4) s = .next (s.after (s.fab.onSync (fun y => { y with glitchCnt := 0 }))
      [.readData 0 0x1014 4 ((s.fab.syncStatusWord >>> 32) &&& 0xFFFFFFFF)])) ∧
  (∀ (s : State) (n o : Nat), s.fab.inReset = false → o % 8 = 0 → s.fab.rs.frozen = true → s.fab.fnLive n = true → o ≠ 0x18 →
    exec (.registerRcRead n o 8) s = .next (s.after s.fab [.readData n o 8 (BitVec.allOnes 64)])) ∧
  (∀ (s : State) (n o a size lo : Nat) (l : List RcField), s.fab.inReset = false → goodAccess o size = true →
    s.fab.rs.frozen = false ∨ s.fab.fnLive n = false ∨ o / 8 * 8 = 0x18 → a = o / 8 * 8 → lo = 8 * (o % 8) →
    l = (s.fab.rcFields n a).filter (fun c => decide (lo ≤ c.lo) && decide (c.lo + c.width ≤ lo + 8 * size)) →
    exec (.registerRcRead n o size) s = .next (s.ends ((l.foldl (fun f c => c.clear f) (openRun s.fab)).emit
      (.readData n o size (if size = 8 then s.fab.regWord n a else (s.fab.regWord n a >>> lo) &&& 0xFFFFFFFF))))) ∧
  (∀ (s : State) (n o size : Nat) (v : Word), s.fab.inReset = false → goodAccess o size = false ∨ o % 8 ≠ 0 ∨ s.fab.fnLive n = false →
    exec (.registerWrite n o size v) s = .next (s.after s.fab)) ∧
  (∀ (s : State) (v : Word), s.fab.inReset = false → s.fab.rs.frozen = false →
    exec (.registerWrite 0 0x801030 8 v) s = .next (s.after (s.fab.onFn 0 (fun x => { x with attest := v &&& ~~~0xFFE })))) ∧
  (∀ (s : State) (n i : Nat) (v : Word), s.fab.inReset = false → 1 ≤ n → s.fab.fnLive n = true → i < 7 →
    exec (.registerWrite n (0x21040 + 8 * i) 8 v) s = .next (s.after (s.fab.onFn n (fun x => { x with ctlReq := x.ctlReq.put i v })))) ∧
  (∀ (s : State) (v : Word), s.fab.inReset = false → s.fab.rs.frozen = false → bitAt v 3 = true →
    exec (.registerWrite 0 0x1048 8 v) s = .next (s.after (s.fab.onLedger (fun l => { l with ioError := false })))) ∧
  (∀ (s : State) (n j : Nat) (v : Word), s.fab.inReset = false → 1 ≤ n → s.fab.fnLive n = true → j < 64 →
    exec (.registerWrite n (0x20000 + 32 * j) 8 v) s = exec (.sqDoorbell n j (v.extractLsb' 0 32)) s)

/-! ### The life of a tile (R22 to R24, R90 to R99, R108 to R121, R179, R189, R249 to R265, R373 to R381, R392, R456) -/

/-- R22, R139, R151, R161, R239: the read of an accepted descriptor has the effect `readDesc` gives it: read and past its form check it
waits to be bound, one that fails a check fails as `formFail` gives it, one that no read returns passes with status 3, or with the
status that has ended it; it takes a unit of class 5. R23, R133, R168, R179: the binding of an unbound one has the effect `bindDesc`
gives it, a page whose table entry is in error being lost first: a pool operation binds with a unit of the quota, or waits for one;
a descriptor whose tag is gone passes with status 4, and one that has an ending with that. R110, R116: the count that reaches a
conditional descriptor passes it at 0, fails it above its largest, and otherwise gives it its instances. Where there is nothing to
read, bind or count, nothing changes. -/
def Obligations.DescriptorsAreReadBoundAndCounted : Prop :=
  (∀ (s : State) (q : Nat) (b : Bool), s.fab.inReset = false → s.fab.quiet = true →
    (∀ x, s.fab.sq? q = some x → (x.descs.find? (fun d => d.stage == .accepted && d.belay == .bound)).isNone = true ∨ s.fab.reads x.slice = false) →
    exec (.descriptorRead q b) s = .next (s.after s.fab)) ∧
  (∀ (s : State) (q : Nat) (b : Bool), s.fab.inReset = false →
    exec (.descriptorRead q b) s = .next (s.ends ((openRun s.fab).readDesc q b).settle)) ∧
  (∀ (f : Fabric) (q : Nat) (x : Sq) (d : Desc) (raw : BitVec 512) (u : CUnit) (h g : Fabric), f.sq? q = some x →
    x.descs.find? (fun d => d.stage == .accepted && d.belay == .bound) = some d → f.reads x.slice = true →
    u = { slice := some x.slice, cls := 5, charge := 256, line := x.ringBase } →
    h = f.offer x.ringStack u → raw = ofBytes 512 (h.readKeyed (h.slotOfSel x.slice 0) (x.slotKey d.seq) (descBytes x.gen)) →
    x.cancelled (viewOf x raw).ctx d.seq = false → d.ending = none → d.begun = false → x.group = none →
    g = h.onDesc q d.seq (fun y => { y with raw := raw, stage := .unbound }) →
    f.readDesc q true = match g.formCheck x { d with raw := raw, stage := .unbound } with
      | none => g
      | some e => g.formFail q x { d with raw := raw, stage := .unbound } e) ∧
  (∀ (f : Fabric) (q : Nat) (x : Sq) (d : Desc) (u : CUnit), f.sq? q = some x →
    x.descs.find? (fun d => d.stage == .accepted && d.belay == .bound) = some d → f.reads x.slice = true →
    u = { slice := some x.slice, cls := 5, charge := 256, line := x.ringBase } →
    f.readDesc q false = (((f.offer x.ringStack u).onDesc q d.seq (fun y => { y with noContext := true })).raise
      (descRec q x { d with noContext := true } srcQm (centralUnit srcQm) 0x070F 0)).pass q d.seq
        (d.ending.getD 3) (if d.ending.isSome then 0 else 15)) ∧
  (∀ (s : State) (q : Nat) (n : BitVec 32) (e : Option (Nat × Nat)) (x : Sq) (d : Desc) (g : Fabric), s.fab.inReset = false →
    s.fab.sq? q = some x → x.desc? n = some d → d.stage = .unbound → d.belay = .bound → s.fab.reads x.slice = true →
    s.fab.fc.inject = none → g = (match e with | some w => (openRun s.fab).loseTable x.slice (d.view x).tag w.1 w.2 | none => openRun s.fab) →
    (g.bindDesc q n).fc.inject = none →
    exec (.descriptorBind q n e) s = .next (s.ends (g.bindDesc q n).settle)) ∧
  (∀ (s : State) (q : Nat) (n : BitVec 32) (e : Option (Nat × Nat)), s.fab.inReset = false → s.fab.quiet = true → s.fab.fc.inject = none →
    (∀ x d, s.fab.sq? q = some x → x.desc? n = some d → d.stage ≠ .unbound ∨ d.belay ≠ .bound ∨ s.fab.reads x.slice = false) →
    exec (.descriptorBind q n e) s = .next (s.after s.fab)) ∧
  (∀ (f : Fabric) (q : Nat) (n : BitVec 32) (x : Sq) (d : Desc), f.sq? q = some x → x.desc? n = some d →
    (d.ending.isSome = true → f.bindDesc q n = f.pass q n (d.ending.getD 2) 0) ∧
    (d.ending = none → (d.view x).kind = 4 → poolOp d.raw ≠ 0 →
      f.bindDesc q n = if (f.slice x.slice).uncommitted < recTiles (f.slice x.slice).record then
          ((f.onSlice x.slice (fun y => { y with uncommitted := y.uncommitted + 1 })).onDesc q n (fun y => { y with
            stage := .bound, quota := true, waitVal := waitValue (d.view x) (f.fence x.fn (d.view x).waitFence).value })).settleDesc q n
        else f.onDesc q n (fun y => { y with stage := .unbound })) ∧
    (d.ending = none → (d.view x).kind ≠ 4 ∨ poolOp d.raw = 0 → (match f.tag? (d.view x).tag with | some t => t.destroying | none => true) = true →
      f.bindDesc q n = f.pass q n 4 16)) ∧
  (∀ (s : State) (q : Nat) (n : BitVec 32) (w : Option (BitVec 32)) (x : Sq) (d : Desc), s.fab.inReset = false → s.fab.sq? q = some x →
    x.desc? n = some d → (d.view x).cond = true → d.stage = .bound → d.belay = .bound → d.readyAt.isSome = true → d.count = none →
    d.ending = none → s.fab.isActive x.slice = true →
    (w = none → exec (.countRead q n w) s = .next (s.after (s.fab.pass q n 3 0))) ∧
    (∀ (v : BitVec 32) (c : Nat), w = some v → c = (if (d.extents.getD 3 []).all (fun e => e.target == 0) then
        leNat ((openRun s.fab).extentBytes x.slice (d.extents.getD 3 []) (4 * (d.view x).countIndex) 4) else v.toNat) →
      (c = 0 → exec (.countRead q n w) s = .next (s.ends (((openRun s.fab).onDesc q n (fun y => { y with count := some 0 })).pass q n 0 0))) ∧
      (c ≠ 0 → (d.view x).countMax < c → exec (.countRead q n w) s = .next (s.ends (((openRun s.fab).raise
        (descRec q x d srcQm (centralUnit srcQm) 0x0711 (BitVec.ofNat 192 c))).pass q n 3 0))) ∧
      (c ≠ 0 → c ≤ (d.view x).countMax → exec (.countRead q n w) s = .next (s.ends ((((openRun s.fab).onDesc q n (fun y => { y with
        count := some c, nInst := (d.view x).instances c,
        insts := (List.range ((d.view x).instances c)).map (fun i => (i, {})) })).runAhead q n).settleCond q n))))) ∧
  (∀ (s : State) (q : Nat) (n : BitVec 32) (w : Option (BitVec 32)), s.fab.inReset = false →
    (∀ x d, s.fab.sq? q = some x → x.desc? n = some d → (d.view x).cond = false ∨ d.stage ≠ .bound ∨ d.belay ≠ .bound ∨ d.readyAt = none ∨
      d.count.isSome = true ∨ d.ending.isSome = true ∨ s.fab.isActive x.slice = false) →
    exec (.countRead q n w) s = .next (s.after s.fab)) ∧
  (∀ (f : Fabric) (q : Nat) (n : BitVec 32) (st dt : Nat), (f.pass q n st dt).desc? q n = (f.desc? q n).map (fun d =>
    { d with belay := .passed, status := st, detail := dt, stage := .bound, check := none }))

/-- R90, R91, R118, R121: TILE_PLACE places the first ready tile of an ACTIVE slice that `tryPlace` can place; at the end of its wait and
at the latest moment at which it fits, a forming tile is placed with the members it has; EXTRA_RUN_PLACE places the extra run that is
wanted, of a descriptor or of its instance, unless it is a third run that no engine can take. R92, R93, R94: a placed tile joins the
queue of its engine behind what waits there, an extra run before it, and starts at once on an idle engine whose slot has room for
it. Where there is nothing to place, nothing changes. -/
def Obligations.TilesArePlacedOnEngines : Prop :=
  (∀ (s : State) (k : Nat), s.fab.inReset = false →
    exec (.tilePlace k) s = .next (s.ends (((openRun s.fab).placeNext k).injectSram 2).placeHangs.settleSlack)) ∧
  (∀ (f : Fabric) (k : Nat), f.isActive k = true → f.rs.frozen = false →
    f.placeNext k = ((f.readyList k).findSome? (fun c => f.tryPlace k c false)).getD f) ∧
  (∀ (s : State) (k c : Nat) (r : Ready) (l : List (Nat × Ready)) (g : Fabric), s.fab.inReset = false → s.fab.isActive k = true →
    s.fab.rs.frozen = false → s.fab.readyList k = (c, r) :: l → (openRun s.fab).tryPlace k (c, r) false = some g →
    g.fc.inject = none → g.rs.hangs = [] → g.frame.slackRun = [] →
    exec (.tilePlace k) s = .next (s.ends g)) ∧
  (∀ (s : State) (k : Nat), s.fab.inReset = false → s.fab.isActive k = false ∨ s.fab.rs.frozen = true → s.fab.fc.inject = none →
    s.fab.rs.hangs = [] → s.fab.frame.slackRun = [] → exec (.tilePlace k) s = .next (s.after s.fab)) ∧
  (∀ (s : State) (q t : Nat) (x : Sq) (r : Ready) (d : Desc) (f : Fabric), s.fab.inReset = false → s.fab.rs.frozen = false →
    s.fab.sq? q = some x → s.fab.isActive x.slice = true → formingOf q x = some r → x.desc? r.seq = some d → (d.view x).form ≠ 0 →
    (openRun s.fab).fitDeadline q x d (d.seq :: (gathered x d).1) = some t → t + 200 < s.fab.nextBoundary → f = (openRun s.fab).advanceTo t →
    exec (.formingFitDeadline q) s = .next (s.ends ((f.tryPlace x.slice ((d.view x).ctx, r) true).getD f))) ∧
  (∀ (s : State) (q : Nat), s.fab.inReset = false →
    (∀ x d, s.fab.sq? q = some x → (formingOf q x).bind (fun r => x.desc? r.seq) = some d →
      (openRun s.fab).fitDeadline q x d (d.seq :: (gathered x d).1) = none) →
    exec (.formingFitDeadline q) s = .next (s.after s.fab)) ∧
  (∀ (s : State) (q : Nat) (x : Sq) (r : Ready) (d : Desc) (f : Fabric), s.fab.inReset = false → s.fab.rs.frozen = false →
    s.fab.sq? q = some x → s.fab.isActive x.slice = true → formingOf q x = some r → x.desc? r.seq = some d → (d.view x).form ≠ 0 →
    d.readyAt.getD 0 + x.formWait + 200 < s.fab.nextBoundary → f = (openRun s.fab).advanceTo (d.readyAt.getD 0 + x.formWait) →
    exec (.formWaitExpiry q) s = .next (s.ends ((f.tryPlace x.slice ((d.view x).ctx, r) true).getD f))) ∧
  (∀ (s : State) (q : Nat), s.fab.inReset = false → s.fab.sq? q = none → 200 < s.fab.nextBoundary →
    exec (.formWaitExpiry q) s = .next (s.after s.fab)) ∧
  (∀ (s : State) (q : Nat) (n : BitVec 32) (d : Desc) (c : Check), s.fab.inReset = false → s.fab.desc? q n = some d →
    d.check = some c → c.wanted.isSome = true → c.placed = false →
    exec (.extraRunPlace q n) s = .next (s.ends (((openRun s.fab).skipThird q n none).placeExtra q n none))) ∧
  (∀ (s : State) (q : Nat) (n : BitVec 32) (d : Desc) (i : Nat) (y : Inst), s.fab.inReset = false → s.fab.desc? q n = some d →
    d.check = none →
    d.insts.find? (fun i => match i.2.check with | some c => c.wanted.isSome && !c.placed | none => false) = some (i, y) →
    exec (.extraRunPlace q n) s = .next (s.ends (((openRun s.fab).skipThird q n (some i)).placeExtra q n (some i)))) ∧
  (∀ (s : State) (q : Nat) (n : BitVec 32), s.fab.inReset = false →
    (∀ d, s.fab.desc? q n = some d → (match d.check with | some c => c.wanted = none ∨ c.placed = true | none => True) ∧
      d.insts.find? (fun i => match i.2.check with | some c => c.wanted.isSome && !c.placed | none => false) = none) →
    exec (.extraRunPlace q n) s = .next (s.after s.fab)) ∧
  (∀ (f : Fabric) (k : Nat) (r : Run), (f.engine k).running.isSome = true →
    ((f.enqueue k r false).engine k).queue = (f.engine k).queue ++ [r] ∧ ((f.enqueue k r true).engine k).queue = r :: (f.engine k).queue) ∧
  (∀ (f : Fabric) (k : Nat) (r : Run) (x : Slot), (f.engine k).running = none → (f.engine k).queue = [] → f.rs.frozen = false →
    (f.engine k).aborting = false → (f.engine k).state = .inService → r.notBefore ≤ f.now → (f.engine k).latch = some r.slice →
    (f.slice r.slice).state = .active → f.slotNow r.slice k = some x → f.now < f.windowEnd x (f.engine k).applied →
    f.fitsSlot r.slice x (f.engine k).applied f.now r.budgetNs false (r.cond || r.extra) = true →
    f.enqueue k r false = (f.onEngine k (fun e => { e with queue := [] })).startRun k r)

/-- R95, R96, R161, R249, R251, R252: TILE_COMPLETE with one beat of a right shape for each member ends the run: the engine is idle from
the end of the run, a corrected error in a beat is recorded, and the digests are judged as `takeDigest` judges them; other beats are an
error of the port, and a beat of an engine that runs nothing is a stray one. ENGINE_ABORT_DONE ends a run that was told to abort, as
`abortDone` gives it, OPERAND_UNREADABLE and EXACT_RANGE_EXCEEDED end one as `inputAbort` gives it. For a first run of one unconditional
descriptor: a NON_REPLAY tile whose digest raises no trigger passes; a run that was aborted makes its descriptor ready again; one that
met unreadable operands, or that left the range of EXACT, passes with status 3. -/
def Obligations.RunsEndOnTheirEngine : Prop :=
  (∀ (s : State) (k : Nat) (m : Meter) (l : List Beat), s.fab.inReset = false →
    exec (.tileComplete k m l) s = .next (s.ends ((openRun s.fab).completeTile k m l)) ∧
    exec (.engineAbortDone k m) s = .next (s.ends ((openRun s.fab).abortDone k m)) ∧
    exec (.operandUnreadable k m) s = .next (s.ends ((openRun s.fab).inputAbort k m false)) ∧
    exec (.exactRangeExceeded k m) s = .next (s.ends ((openRun s.fab).inputAbort k m true))) ∧
  (∀ (f : Fabric) (k : Nat) (m : Meter) (l : List Beat), (f.engine k).running = none → f.completeTile k m l = f.strayBeat k ∧
    f.abortDone k m = f.strayBeat k ∧ f.inputAbort k m false = f.strayBeat k ∧ f.inputAbort k m true = f.strayBeat k) ∧
  (∀ (f : Fabric) (k : Nat) (m : Meter) (l : List Beat) (r : Run), (f.engine k).running = some r →
    ((sortBy (·.member) l).map (·.member) ≠ List.range r.seqs.length ∨ (sortBy (·.member) l).all (fun b => shapeOk b.shape) = false →
      f.completeTile k m l = f.portError k) ∧
    ((sortBy (·.member) l).map (·.member) = List.range r.seqs.length → (sortBy (·.member) l).all (fun b => shapeOk b.shape && b.ce == 0) = true →
      f.completeTile k m l = ((f.endRun k r m (sortBy (·.member) l)).takeDigest k r m (sortBy (·.member) l)).afterEnd k) ∧
    ((f.engine k).aborting = false → f.abortDone k m = f.strayBeat k)) ∧
  (∀ (s : State) (k : Nat) (m : Meter) (r : Run) (x : Sq) (d : Desc), s.fab.inReset = false → (s.fab.engine k).running = some r →
    (s.fab.engine k).queue = [] → (s.fab.engine k).state = .inService → (s.fab.engine k).testOwner = none →
    s.fab.rs.hangs = [] → s.fab.slicesIn (· == .resetting) = [] → s.fab.quiet = true →
    r.startAt + m.counted + m.stall + m.stretch + 200 < s.fab.nextBoundary →
    r.kind = .first → r.hang = false → r.members = [] → r.cond = false → r.onEnd = none →
    s.fab.sq? r.sq = some x → x.desc? r.seq = some d → d.ending = none → d.members = [] → s.fab.isActive r.slice = true →
    (∀ b : Beat, b.member = 0 → b.ce = 0 → shapeOk b.shape = true → (d.view x).chkrow = false → r.nonReplay = true →
      r.watched = false → r.excursion = false → m.stretch = 0 → s.fab.cleat.droopLow = false → (d.view x).force = false →
      ∃ t, exec (.tileComplete k m [b]) s = .next t ∧ (t.fab.engine k).running = none ∧
        t.fab.now = max s.fab.now (r.startAt + m.counted + m.stall + m.stretch) ∧ t.fab.mem = s.fab.mem ∧
        t.fab.desc? r.sq r.seq = some { d with
          belay := .passed, status := 0, detail := 0, engine := k, counted := m.counted, check := none }) ∧
    ((s.fab.engine k).aborting = true → r.nonReplay = false →
      ∃ t, exec (.engineAbortDone k m) s = .next t ∧ (t.fab.engine k).running = none ∧ (t.fab.engine k).aborting = false ∧
        t.fab.now = max s.fab.now (r.startAt + m.counted + m.stall + m.stretch) ∧ t.fab.mem = s.fab.mem ∧
        t.fab.desc? r.sq r.seq = some { d with
          belay := .bound, members := [], stage := if d.stale then .unbound else d.stage } ∧
        (t.fab.sq? r.sq).map (·.issue) = some x.commit) ∧
    (∃ t, exec (.operandUnreadable k m) s = .next t ∧ (t.fab.engine k).running = none ∧
        t.fab.now = max s.fab.now (r.startAt + m.counted + m.stall + m.stretch) ∧ t.fab.mem = s.fab.mem ∧
        t.fab.desc? r.sq r.seq = some { d with
          belay := .passed, status := 3, detail := 0, engine := 0xFFFF, counted := 0, check := none }) ∧
    (∃ t, exec (.exactRangeExceeded k m) s = .next t ∧ (t.fab.engine k).running = none ∧ t.fab.mem = s.fab.mem ∧
        t.fab.desc? r.sq r.seq = some { d with
          belay := .passed, status := 3, detail := 0, engine := 0xFFFF, counted := 0, check := none }))

/-- R95, R98, R72, R374, R380, R381: a pre-empted tile at its budget, a tile at twice its budget and an isolated replay at its limit are
told to abort, the time at which their tile stood still being added to the limit; the second and the third are marked hung, and a
hung tile of an engine in reset ends with status 6 if it is NON_REPLAY. R457: an engine that confirms its RESET is in service again and
the request is answered; one that does not within 40 us, or that misses another bound of its port while it owes the beat, is lost as
`losePort` gives it when that bound has passed: out of service, its queue withdrawn. Where no such run or beat is due nothing changes, but that a confirmation
that no reset awaits is a stray beat. -/
def Obligations.EngineLimitsAndResets : Prop :=
  (∀ (s : State) (k p : Nat) (r : Run), s.fab.inReset = false → (s.fab.engine k).running = some r →
    r.preempt = true → r.nonPreempt = false →
    exec (.budgetExpiry ⟨k, p⟩) s = .next (s.ends (((openRun s.fab).advance (r.startAt + r.budgetNs + p)).abortRun k))) ∧
  (∀ (s : State) (k p : Nat) (r : Run), s.fab.inReset = false → (s.fab.engine k).running = some r → r.kind ≠ .isolated →
    exec (.hangLimit ⟨k, p⟩) s = .next (s.ends ((((openRun s.fab).advance (r.startAt + 2 * r.budgetNs + p)).onEngine k
      (fun e => { e with running := some (if e.state == .resetting then { r with onEnd := if r.nonReplay then some 6 else r.onEnd }
        else { r with hang := true }) })).abortRun k))) ∧
  (∀ (s : State) (k p : Nat) (r : Run), s.fab.inReset = false → (s.fab.engine k).running = some r → r.kind = .isolated →
    exec (.isolatedReplayLimit ⟨k, p⟩) s = .next (s.ends ((((openRun s.fab).advance (r.startAt + 2 * r.budgetNs + p)).onEngine k
      (fun e => { e with running := some { r with hang := true } })).abortRun k))) ∧
  (∀ (f : Fabric) (k : Nat), (f.engine k).running.isSome = true → (f.engine k).aborting = false →
    ((f.abortRun k).engine k).aborting = true ∧ ((f.abortRun k).engine k).abortFrom = f.now ∧ (f.abortRun k).out = f.out ++ [.engine k .abort]) ∧
  (∀ (s : State) (k p : Nat), s.fab.inReset = false →
    ((∀ r, (s.fab.engine k).running = some r → r.preempt = false ∨ r.nonPreempt = true) → exec (.budgetExpiry ⟨k, p⟩) s = .next (s.after s.fab)) ∧
    ((∀ r, (s.fab.engine k).running = some r → r.kind = .isolated) → exec (.hangLimit ⟨k, p⟩) s = .next (s.after s.fab)) ∧
    ((∀ r, (s.fab.engine k).running = some r → r.kind ≠ .isolated) → exec (.isolatedReplayLimit ⟨k, p⟩) s = .next (s.after s.fab))) ∧
  (∀ (s : State) (k : Nat), s.fab.inReset = false → (s.fab.engine k).state = .resetting → (s.fab.engine k).resetWait = false →
    (s.fab.engine k).running = none →
    exec (.engineResetDone k) s = .next (s.ends ((((openRun s.fab).onEngine k (fun e => { e with
      state := .inService, queue := [], resetReq := none })).replyOpt (s.fab.engine k).resetReq repOk).placeHangs.startNext k 9)) ∧
    ((s.fab.engine k).resetReq = none → s.fab.rs.hangs = [] →
      exec (.engineResetDone k) s = .next (s.after (s.fab.onEngine k (fun e => { e with state := .inService, queue := [], resetReq := none }))))) ∧
  (∀ (s : State) (k : Nat), s.fab.inReset = false →
    (s.fab.engine k).state ≠ .resetting ∨ (s.fab.engine k).resetWait = true ∨ (s.fab.engine k).running.isSome = true →
    exec (.engineResetDone k) s = .next (s.ends ((openRun s.fab).strayBeat k)) ∧
    exec (.resetAckTimeout k) s = .next (s.after s.fab)) ∧
  (∀ (s : State) (k : Nat), s.fab.inReset = false → (s.fab.engine k).state = .resetting → (s.fab.engine k).resetWait = false →
    (s.fab.engine k).running = none →
    exec (.resetAckTimeout k) s = .next (s.ends (((openRun s.fab).advance ((s.fab.engine k).resetFrom + 40000)).losePort k))) ∧
  (∀ (s : State) (k : Nat), s.fab.inReset = false → (s.fab.engine k).state = .resetting → (s.fab.engine k).resetWait = false →
    (s.fab.engine k).running = none → (s.fab.engine k).queue = [] → (s.fab.engine k).resetReq = none → s.fab.rs.hangs = [] → s.fab.quiet = true →
    (s.fab.engine k).resetFrom + 40000 + 200 < s.fab.nextBoundary →
    ∃ t, exec (.resetAckTimeout k) s = .next t ∧ (t.fab.engine k).state = .outOfService ∧
      t.fab.now = max s.fab.now ((s.fab.engine k).resetFrom + 40000) ∧ t.fab.sqs = s.fab.sqs ∧ t.fab.mem = s.fab.mem) ∧
  (∀ (s : State) (k : Nat) (b : PortBound), s.fab.inReset = false →
    exec (.enginePortTimeout k b) s = .next (match (match b with
        | .issueReady => (s.fab.engine k).running.map (fun r => r.startAt + ceilDiv 8000 s.fab.mhz)
        | .abort => if (s.fab.engine k).running.isSome && (s.fab.engine k).aborting then some ((s.fab.engine k).abortFrom + 500) else none
        | .scrub => if (s.fab.engine k).scrubbing then some ((s.fab.engine k).scrubFrom + 150000) else none
        | .test => if (s.fab.engine k).testSeed.isSome then some ((s.fab.engine k).testFrom + 200000) else none) with
      | some t => s.ends (((openRun s.fab).advance t).losePort k)
      | none => s.after s.fab)) ∧
  (∀ (s : State) (k : Nat), s.fab.inReset = false → (s.fab.engine k).testSeed.isSome = true → (s.fab.engine k).running = none →
    (s.fab.engine k).queue = [] → (s.fab.engine k).resetReq = none → s.fab.rs.hangs = [] → s.fab.quiet = true →
    (s.fab.engine k).testFrom + 200200 < s.fab.nextBoundary →
    ∃ t, exec (.enginePortTimeout k .test) s = .next t ∧ (t.fab.engine k).state = .outOfService ∧ (t.fab.engine k).testSeed = none ∧
      t.fab.now = max s.fab.now ((s.fab.engine k).testFrom + 200000) ∧ t.fab.sqs = s.fab.sqs ∧ t.fab.mem = s.fab.mem)

/-- R392, R394: an engine's regions are kept, four at most, and its scratchpad samples asked for, beat by beat, but by a dump that is at
its third section; a report that is not due and a beat that is not awaited are stray. R455, R456: an address that an engine asks to
be resolved is looked for in the extents of the range it names, of the member it names, or in the rows of a gather's instance: found
in device memory it is answered with its stack and its place there, in a window with that window and its peer, in host memory with
a free word as its IOVA, each with the length to the extent's end; rows that are not bound yet are answered
not present, and any other address is an error of the port; an engine that runs nothing is not answered. -/
def Obligations.EngineReportsAndAddresses : Prop :=
  (∀ (s : State) (k n c : Nat) (regions : BitVec 512) (status : BitVec 768) (spans : List (Nat × Nat)), s.fab.inReset = false →
    (s.fab.engine k).regionsDue = true → c = min n 4 →
    spans = (if c = 0 || s.fab.rs.dump.taking == some 2 then [] else sampleSpans regions c) →
    exec (.regionsReport k n regions status) s = .next (s.after (s.fab.onEngine k (fun e => { e with
      regionsDue := false, regions := regions, regionCount := c, status := status,
      spPending := (spans.map (fun x => ceilDiv x.2 32)).sum, spData := [] })) (spans.map (fun x => .engine k (.spRead x.1 x.2))))) ∧
  (∀ (s : State) (k : Nat) (beat : BitVec 256), s.fab.inReset = false → (s.fab.engine k).spPending ≠ 0 →
    exec (.spData k beat) s = .next (s.after (s.fab.onEngine k (fun e => { e with
      spPending := e.spPending - 1, spData := e.spData ++ [beat] })))) ∧
  (∀ (s : State) (k n : Nat) (regions : BitVec 512) (status : BitVec 768) (beat : BitVec 256), s.fab.inReset = false →
    ((s.fab.engine k).regionsDue = false → exec (.regionsReport k n regions status) s = .next (s.ends ((openRun s.fab).strayBeat k))) ∧
    ((s.fab.engine k).spPending = 0 → exec (.spData k beat) s = .next (s.ends ((openRun s.fab).strayBeat k)))) ∧
  (∀ (s : State) (k : Nat) (x : BitVec 48), s.fab.inReset = false → (s.fab.engine k).running = none →
    exec (.addressResolve k x) s = .next (s.after s.fab)) ∧
  (∀ (s : State) (k : Nat) (x : BitVec 48) (r : Run) (q : Sq) (n : BitVec 32) (d : Desc) (off range : Nat) (hit : Option (Extent × Nat)),
    s.fab.inReset = false → (s.fab.engine k).running = some r → s.fab.sq? r.sq = some q → r.seqs[(x.extractLsb' 43 5).toNat]? = some n →
    q.desc? n = some d → range = (x.extractLsb' 41 2).toNat → off = (x.extractLsb' 0 36).toNat →
    hit = (if (d.view q).kind = 2 ∧ range = 2 then walkExtents (d.insts.getD r.inst {}).rows off
      else if off < ((d.view q).instPart range r.inst).2 then walkExtents (d.extents.getD range []) (((d.view q).instPart range r.inst).1 + off)
      else none) →
    ((d.view q).kind = 2 → range = 2 → (d.insts.getD r.inst {}).rowsReady = false →
      exec (.addressResolve k x) s = .next (s.after s.fab [.engineXrsp k (BitVec.ofNat 128 (2 * 2 ^ 126))])) ∧
    ((d.view q).kind ≠ 2 ∨ range ≠ 2 ∨ (d.insts.getD r.inst {}).rowsReady = true →
      (hit = none → exec (.addressResolve k x) s = .next (s.ends (((openRun s.fab).emit (.engineXrsp k (BitVec.ofNat 128 (2 ^ 126)))).portError k))) ∧
      (∀ e o, hit = some (e, o) →
        (e.target = 0 → exec (.addressResolve k x) s = .next (s.after s.fab [.engineXrsp k
          (s.fab.xrsp r.slice e o (bitAt x 40) (bf e.stack 70 4 + bf (e.addr + o) 0 36))])) ∧
        (e.target = 1 → exec (.addressResolve k x) s = .next (s.after s.fab.drawWord.2 [.engineXrsp k
          (s.fab.drawWord.2.xrsp r.slice e o (bitAt x 40) s.fab.drawWord.1.toNat)])) ∧
        (1 < e.target → exec (.addressResolve k x) s = .next (s.after s.fab [.engineXrsp k
          (s.fab.xrsp r.slice e o (bitAt x 40) (bf e.port 69 5 + bf e.peer 53 16 + bf e.window 43 10 + bf (e.addr + o) 0 37))]))))) ∧
  (∀ (l : List Extent) (o : Nat) (e : Extent) (p : Nat), walkExtents l o = some (e, p) → e ∈ l ∧ p < e.len)

/-- R362 to R364: a test whose signature is right ends with no failure and one whose signature is wrong falls due again; both have the
effect `endTest` gives them, on each slice that holds the engine; a signature that no test awaits is a stray beat. A test falls due when
the interval has passed in ledger time, and starts as `tryTest` starts it: not before a gap that its pattern has, and not again as a borrow
in the frame in which it was postponed; a test of a watched, absent or retired engine does not fall due. A borrow that no tile
boundary met is postponed. R252: an audit window that is full draws its next place, and no other does. R232, R239, R270: a job of the
CAU that is in service ends as `cauDone` gives it: a digest job that met unreadable bytes leaves its member UNREADABLE; a job that is
not in service ends nothing. -/
def Obligations.TestsAuditsAndDigestJobs : Prop :=
  (∀ (s : State) (k : Nat) (sig : Word), s.fab.inReset = false →
    exec (.testDone k sig) s = .next (s.ends ((openRun s.fab).endTest k sig)) ∧
    ((s.fab.engine k).testSeed = none → exec (.testDone k sig) s = .next (s.ends ((openRun s.fab).strayBeat k)))) ∧
  (∀ (s : State) (k : Nat) (seed : Word), s.fab.inReset = false → (s.fab.engine k).testSeed = some seed → (s.fab.engine k).queue = [] →
    s.fab.tests.enable = false →
    ∃ t, exec (.testDone k (Config.testSignature seed)) s = .next t ∧ (t.fab.engine k).testSeed = none ∧
      (t.fab.engine k).testOwner = none ∧ (t.fab.engine k).testFailAt = none ∧ (t.fab.engine k).state = (s.fab.engine k).state ∧
      t.fab.sqs = s.fab.sqs ∧ t.fab.units = s.fab.units ∧ t.fab.mem = s.fab.mem) ∧
  (∀ (s : State) (k : Nat) (seed sig : Word), s.fab.inReset = false → (s.fab.engine k).testSeed = some seed → (s.fab.engine k).queue = [] →
    s.fab.tests.enable = false → sig ≠ Config.testSignature seed → (s.fab.engine k).testFailAt = none →
    ∃ t, exec (.testDone k sig) s = .next t ∧ (t.fab.engine k).testSeed = none ∧
      (t.fab.engine k).testFailAt = some s.fab.ledgerNow ∧ (t.fab.engine k).testDue = true ∧ t.fab.units = s.fab.units) ∧
  (∀ (s : State) (k : Nat) (g h : Fabric) (t0 : Int), s.fab.inReset = false → s.fab.tests.enable = true → (s.fab.engine k).state ≠ .absent →
    (s.fab.engine k).state ≠ .retired → s.fab.isWatched k = false →
    t0 = ((s.fab.engine k).testAt + s.fab.tests.intervalH * 3600000000000 : Nat) - s.fab.ledger.offset →
    g = (openRun s.fab).advance t0.toNat → h = s.fab.advance t0.toNat →
    exec (.testDue k) s = .next (s.ends ((g.onEngine k (fun e => { e with testDue := e.testSeed.isNone, testAt := g.ledgerNow })).tryTest k)) ∧
    ((s.fab.engine k).testSeed.isSome = true →
      exec (.testDue k) s = .next (s.after (h.onEngine k (fun e => { e with testDue := false, testAt := h.ledgerNow })))) ∧
    ((s.fab.engine k).state ≠ .inService → (s.fab.engine k).testSeed = none →
      exec (.testDue k) s = .next (s.after (h.onEngine k (fun e => { e with testDue := true, testAt := h.ledgerNow }))))) ∧
  (∀ (f : Fabric) (k : Nat), f.hasTestGap k = false → (f.engine k).testHeld = true → f.tryTest k = f) ∧
  (∀ (f : Fabric) (k : Nat), f.hasTestGap k = true → fitsBetween (f.grantTimes k) f.now = false → f.tryTest k = f) ∧
  (∀ (f : Fabric) (k : Nat), f.isWatched k = true → f.tryTest k = f) ∧
  (∀ (s : State) (k : Nat), s.fab.inReset = false → s.fab.tests.enable = false ∨ (s.fab.engine k).state = .absent ∨
    (s.fab.engine k).state = .retired ∨ s.fab.isWatched k = true → exec (.testDue k) s = .next (s.after s.fab)) ∧
  (∀ (s : State) (k o : Nat), s.fab.inReset = false → (s.fab.engine k).testOwner = some o → (s.fab.engine k).testSeed = none →
    exec (.testBorrowTimeout k) s = .next (s.ends ((((((openRun s.fab).advance ((s.fab.engine k).testFrom +
      (match (s.fab.engine k).running with | some r => r.budgetNs | none => 0))).onEngine k
      (fun e => { e with testOwner := none, testDue := true, testHeld := true })).onSlice o (fun y => { y with testPostponed := satAdd 8 y.testPostponed 1 })).raise
        { source := srcTm, unit := unitId 0 0 k, cause := 0x0A03, owners := [o] }).startNext k 9))) ∧
  (∀ (s : State) (k : Nat), s.fab.inReset = false → (s.fab.engine k).testOwner = none ∨ (s.fab.engine k).testSeed.isSome = true →
    exec (.testBorrowTimeout k) s = .next (s.after s.fab)) ∧
  (∀ (s : State) (sl k : Nat) (a : Audit) (y : Slice), s.fab.inReset = false → y = s.fab.slice sl → y.audits.find k = some a →
    y.auditLog2 ≠ 31 → 2 ^ y.auditLog2 ≤ a.n →
    exec (.auditWindowEnd sl k) s = .next (s.after (({ s.fab with belay := { s.fab.belay with rng := xorshift s.fab.belay.rng } } : Fabric).onSlice sl
      (fun z => { z with audits := z.audits.put k { n := 0, pos := (xorshift s.fab.belay.rng).toNat % 2 ^ y.auditLog2 } })))) ∧
  (∀ (s : State) (sl k : Nat), s.fab.inReset = false →
    (∀ a, (s.fab.slice sl).audits.find k = some a → (s.fab.slice sl).auditLog2 = 31 ∨ a.n < 2 ^ (s.fab.slice sl).auditLog2) →
    exec (.auditWindowEnd sl k) s = .next (s.after s.fab)) ∧
  (∀ (s : State) (id : Nat) (u : List Nat) (l : List Host.Cell), s.fab.inReset = false →
    exec (.cauJobDone id u l) s = .next (s.ends ((openRun s.fab).cauDone id u l)) ∧
    (s.fab.cau.jobs.find? (fun j => j.id == id && j.lane.isSome) = none → exec (.cauJobDone id u l) s = .next (s.after s.fab))) ∧
  (∀ (s : State) (id set m m2 : Nat) (j : Job) (x y : Member) (u : List Nat) (l : List Host.Cell), s.fab.inReset = false →
    s.fab.cau.jobs.find? (fun j => j.id == id && j.lane.isSome) = some j → j.kind = .digest set m →
    (s.fab.replica set).members.find m = some x → x.job = some id → u ≠ [] →
    m2 ≠ m → (s.fab.replica set).members.find m2 = some y → y.job.isSome = true →
    s.fab.belay.replicas.all (fun r => r.1 == set || r.2.result != 1) = true → s.fab.frame.slackRun = [] → s.fab.splice.groups = [] →
    s.fab.fns.all (fun n => n.2.resetState != 1) = true → s.fab.rs.l5Drain = none → s.fab.quiet = true →
    ∃ t, exec (.cauJobDone id u l) s = .next t ∧ t.fab.cau.jobs = (s.fab.dropCau (fun k => k.id == id)).cau.jobs ∧
      (t.fab.replica set).members.find m = some { x with state := 5, job := none } ∧
      (t.fab.replica set).result = (s.fab.replica set).result ∧ t.fab.mem = s.fab.mem ∧ t.fab.sqs = s.fab.sqs)

/-- R153, R154, R155, R246, R247: COMMIT commits a queue's head descriptor, if it has passed or is held and has ended with status 5, into
a completion queue with room: TAIL and COMMIT advance by one, the record stands at the old tail and waits at the host port with its
write to the journal's shadow, whose TAIL and COMMIT are as before; the rest is as `commitHead` gives it. With no room it waits and the
stall is counted once; a head that is not decided, or a frozen chip, commits nothing. R155: a coalescing interval that ends owing a
message sends it at the host port, or at once on a frozen chip, and the next interval begins; a function under a reset sends none. -/
def Obligations.CommitsAndCoalescedMessages : Prop :=
  (∀ (s : State) (q : Nat), s.fab.inReset = false → exec (.commit q) s = .next (s.ends ((openRun s.fab).commitHead q).settle)) ∧
  (∀ (s : State) (q : Nat) (x : Sq) (d : Desc) (c : Cq), s.fab.inReset = false → s.fab.sq? q = some x → x.descs = [d] →
    s.fab.cq? x.fn x.cq = some c → d.decided = true → s.fab.rs.frozen = false → c.room = true → (s.fab.fn x.fn).silent = false →
    x.destroy = none → leaving (s.fab.slice x.slice).state = false → (s.fab.slice x.slice).handles = [] → s.fab.quiet = true →
    ∃ t y, exec (.commit q) s = .next t ∧ t.fab.sq? q = some y ∧ y.commit = x.commit + 1 ∧ y.descs = [] ∧ y.shCommit = x.shCommit ∧
      (t.fab.cq? x.fn x.cq).map (fun k => (k.head, k.tail, k.shTail)) = some (c.head, c.tail + 1, c.shTail) ∧ t.fab.mem = s.fab.mem ∧
      .cqRecord x.fn x.cq (c.addr + c.tail.toNat % 2 ^ c.log2 * 32)
        (cqRecord x (s.fab.localEngine x.slice d.engine) d s.fab.now c.phase) ∈ queued s t) ∧
  (∀ (s : State) (q : Nat) (x : Sq) (d : Desc) (rest : List Desc) (c : Cq), s.fab.inReset = false → s.fab.sq? q = some x → x.descs = d :: rest →
    s.fab.cq? x.fn x.cq = some c → d.decided = true → s.fab.rs.frozen = false → c.room = false → s.fab.quiet = true →
    (d.fullStall = true → exec (.commit q) s = .next (s.after s.fab)) ∧
    (d.fullStall = false → exec (.commit q) s = .next (s.after ((s.fab.onCq x.fn x.cq (fun k => { k with
      fullStall := satAdd 16 k.fullStall 1 })).onDesc q d.seq (fun y => { y with fullStall := true }))))) ∧
  (∀ (s : State) (q : Nat), s.fab.inReset = false → s.fab.quiet = true →
    (∀ x d rest, s.fab.sq? q = some x → x.descs = d :: rest → d.decided = false ∨ s.fab.rs.frozen = true) →
    exec (.commit q) s = .next (s.after s.fab)) ∧
  (∀ (s : State) (n k : Nat) (c : Cq) (f : Fabric), s.fab.inReset = false → s.fab.cq? n k = some c → f = (openRun s.fab).advance c.quietUntil →
    (c.owed = true → exec (.msixCoalesceExpiry n k) s = .next (s.ends ((f.irq n c.vector).onCq n k (fun y => { y with
      quietUntil := f.now + y.coalesceNs, owed := false })))) ∧
    (c.owed = false → exec (.msixCoalesceExpiry n k) s = .next (s.ends f))) ∧
  (∀ (f : Fabric) (n v : Nat), f.irq n v = if (f.fn n).silent then f else if f.rs.frozen then f.emit (.msix n v)
    else f.offerHost (f.fn n).slice 4 true [.msix n v]) ∧
  (∀ (s : State) (n k : Nat), s.fab.inReset = false → s.fab.cq? n k = none → exec (.msixCoalesceExpiry n k) s = .next (s.after s.fab))

/-! ### Frames, slots and alignment (R63, R70, R75 to R78, R89, R94, R95, R100 to R102, R114, R116, R254, R389) -/

/-- R70, R102, R384: a boundary advances the frame number, the position in the sequence and fabric time, and the actions that follow act
on that frame with what was fixed 200 ns before; on a frozen chip only those of `frozenActions` follow, or, where L4 ends at it, its end
and then all of them. R102: a due trim, R63: the end of a wait for an activation, and R254: the end of a watch happen at the next
boundary; one that is not due changes nothing, or only fabric time. -/
def Obligations.BoundariesAdvanceTheFrame : Prop :=
  (∀ (s : State) (fx : Fixed) (g : Fabric), s.fab.inReset = false → s.fab.fixBoundary.frame.fixed = some fx →
    g = ((openRun s.fab).advance s.fab.nextBoundary).countMissed.beginFrame →
    exec .frameBoundary s = .next (s.ends (if s.fab.rs.frozen = false then g.boundaryActions fx
      else if g.atStage 10 = true then g.endL4.boundaryActions fx else g.frozenActions fx))) ∧
  (∀ f : Fabric, f.countMissed.beginFrame.frame.frameNum = (f.frame.frameNum + 1) % 2 ^ 48 ∧
    f.countMissed.beginFrame.frame.seqPos = (f.frame.seqPos + 1) % max 1 f.frame.seqLen ∧
    f.countMissed.beginFrame.frame.boundaryAt = f.nextBoundary ∧ f.countMissed.beginFrame.now = max f.now f.nextBoundary ∧
    f.countMissed.beginFrame.frame.slackRun = [] ∧ f.countMissed.beginFrame.engines = f.engines.each (fun _ e => { e with testHeld := false }) ∧ f.countMissed.beginFrame.sqs = f.sqs) ∧
  (∀ s : State, s.fab.inReset = false → s.fab.rs.frozen = true → s.fab.rs.l4Stage ≠ 10 → s.fab.frame.sync.mode ≠ 2 → s.fab.frame.slackRun = [] →
    s.fab.units.retiring = [] → s.fab.frame.fixed = none →
    ∃ t, exec .frameBoundary s = .next t ∧ t.fab.frame.frameNum = (s.fab.frame.frameNum + 1) % 2 ^ 48 ∧
      t.fab.now = max s.fab.now s.fab.nextBoundary ∧ t.fab.frame.boundaryAt = s.fab.nextBoundary ∧
      t.fab.frame.switch = s.fab.frame.switch ∧ t.fab.sqs = s.fab.sqs ∧ t.fab.tags = s.fab.tags ∧ t.fab.mem = s.fab.mem) ∧
  (∀ (s : State) (i : Nat) (t : Trim) (r : FRec), s.fab.inReset = false → s.fab.rs.frozen = false → s.fab.frame.switchNext = false →
    t = s.fab.frame.trims.getD i {} → t.tooLate = true →
    r = { source := srcFs, unit := centralUnit srcFs, cause := 0x0505, owners := [entSlice (bankEntry s.fab.frame.bank i)],
          syndrome := syn3 i (t.steps + 1) 0 } →
    exec (.slotTrim i) s = .next (s.after (((s.fab.advance s.fab.nextBoundary).onFrame
      (fun fr => { fr with trims := fr.trims.put i { steps := t.steps + 1 } })).raise r))) ∧
  (∀ (s : State) (i : Nat) (t : Trim) (r : FRec), s.fab.inReset = false → s.fab.rs.frozen = false → s.fab.frame.switchNext = false →
    t = s.fab.frame.trims.getD i {} → t.tooLate = false → t.recovered = true →
    r = { source := srcFs, unit := centralUnit srcFs, cause := 0x0506, owners := [entSlice (bankEntry s.fab.frame.bank i)],
          syndrome := syn3 i (t.steps - 1) 0 } →
    exec (.slotTrim i) s = .next (s.after (((s.fab.advance s.fab.nextBoundary).onFrame
      (fun fr => { fr with trims := fr.trims.put i { t with steps := t.steps - 1, clean := 0 } })).raise r))) ∧
  (∀ (s : State) (i : Nat), s.fab.inReset = false →
    (s.fab.rs.frozen = true ∨ s.fab.frame.switchNext = true → exec (.slotTrim i) s = .next (s.after s.fab)) ∧
    (s.fab.rs.frozen = false → s.fab.frame.switchNext = false → (s.fab.frame.trims.getD i {}).tooLate = false →
      (s.fab.frame.trims.getD i {}).recovered = false → exec (.slotTrim i) s = .next (s.after (s.fab.advance s.fab.nextBoundary)))) ∧
  (∀ (s : State) (k n : Nat) (req : Req) (g : Fabric), s.fab.inReset = false → s.fab.rs.frozen = false → (s.fab.slice k).activate = some (req, n) → n ≤ 1 →
    (∀ fx, s.fab.fixBoundary.frame.fixed = some fx → fx.activate.contains k = false) →
    g = (((openRun s.fab).advance s.fab.nextBoundary).onSlice k (fun x => { x with activate := none })).reply req (rep stTimeout) →
    exec (.activateTimeout k) s = .next (s.ends g)) ∧
  (∀ (s : State) (k n : Nat) (req : Req) (fx : Fixed), s.fab.inReset = false → s.fab.rs.frozen = false → (s.fab.slice k).activate = some (req, n) → n ≤ 1 →
    s.fab.fixBoundary.frame.fixed = some fx → fx.activate.contains k = true →
    exec (.activateTimeout k) s = .next (s.after (s.fab.advance s.fab.nextBoundary))) ∧
  (∀ (s : State) (k : Nat), s.fab.inReset = false → s.fab.rs.frozen = true ∨ (∀ req n, (s.fab.slice k).activate = some (req, n) → 1 < n) →
    exec (.activateTimeout k) s = .next (s.after s.fab)) ∧
  (∀ (s : State) (k : Nat) (w : Watch), s.fab.inReset = false → s.fab.rs.frozen = false → s.fab.belay.watch.find k = some w →
    w.done s.fab.nextBoundary = true → s.fab.now ≤ s.fab.nextBoundary →
    ∃ t, exec (.watchListExit k) s = .next t ∧ t.fab.isWatched k = false ∧ t.fab.now = s.fab.nextBoundary ∧
      t.fab.engines = s.fab.engines ∧ t.fab.sqs = s.fab.sqs ∧ t.fab.mem = s.fab.mem ∧
      ∀ j, j ≠ k → t.fab.isWatched j = s.fab.isWatched j) ∧
  (∀ (s : State) (k : Nat), s.fab.inReset = false → s.fab.rs.frozen = true ∨ (s.fab.belay.watch.getD k {}).done s.fab.nextBoundary = false →
    exec (.watchListExit k) s = .next (s.after s.fab))

/-- R89: 200 ns before a slot's start the latches of its engines are loaded, those of the slots at a boundary with what that boundary
will do; a start that has passed loads nothing. R91, R100: at its start they take effect and the slice's charge shortens the window.
R116: at the slack start of each engine of a slot the slack of an armed slice runs. R94, R95, R101: at E and at the end of the slot
idle engines stay as they are, and a running tile of the slice has pre-emption raised and, at the end, its guard band counted as
exhausted, unless another slot of the slice follows; where no test is due nothing else starts then. On a frozen chip no latch is loaded and no slot begins; a slot that the pattern
does not hold, and the end of one that has ended, do nothing. -/
def Obligations.SlotsOpenAndClose : Prop :=
  (∀ (s : State) (start : Nat), s.fab.inReset = false → s.fab.rs.frozen = true ∨ (200 ≤ start ∧ s.fab.frame.boundaryAt + start ≤ s.fab.now) →
    exec (.slotOwnerLatchLoad start) s = .next (s.after s.fab)) ∧
  (∀ (s : State) (start : Nat) (f : Fabric), s.fab.inReset = false → s.fab.rs.frozen = false → 200 ≤ start →
    s.fab.now < s.fab.frame.boundaryAt + start → s.fab.frame.boundaryAt + start < s.fab.nextBoundary →
    f = s.fab.advanceTo (s.fab.frame.boundaryAt + start - 200) →
    exec (.slotOwnerLatchLoad start) s = .next (s.after (f.loadLatches f
      (startingAt s.fab.frame.bank s.fab.frame.pattern start) s.fab.isActive (fun _ => false)))) ∧
  (∀ (s : State) (start pat : Nat) (f : Fabric) (fx : Fixed), s.fab.inReset = false → s.fab.rs.frozen = false → start < 200 →
    f = ((openRun s.fab).advance (s.fab.nextBoundary + start - 200)).fixBoundary → f.frame.fixed = some fx →
    pat = (if fx.switch then hdrPattern f.frame.shadowBank.header 0 else f.frame.patternAt ((f.frame.seqPos + 1) % f.frame.seqLen)) →
    exec (.slotOwnerLatchLoad start) s = .next (s.ends (f.loadLatches (f.withAmends fx)
      (startingAt (if fx.switch then f.frame.shadowBank else f.frame.bank) pat start)
      (fun k => f.isActive k || fx.activate.contains k || (f.slice k).l3Over s.fab.nextBoundary)
      (fun k => fx.retire.contains (unitId 0 0 k))))) ∧
  (∀ (f g : Fabric) (i k : Nat) (e : Entry) (a r : Nat → Bool), bitAt (entEngines e) k = true →
    ((f.loadLatches g [(i, e)] a r).engine k).nextLatch = some (g.latchValue e k (a (entSlice e)) (r k))) ∧
  (∀ (s : State) (start : Nat), s.fab.inReset = false → exec (.slotStart start) s = .next (if s.fab.rs.frozen = true then s.after s.fab
    else s.ends (((openRun s.fab).advance (s.fab.frame.boundaryAt + start)).beginSlots start).pumpAll.settle)) ∧
  (∀ (f : Fabric) (x : Slot) (e : Entry) (k c : Nat), (f.engine k).nextLatch = some (some (entSlice e)) → (f.engine k).running = none →
    (f.engine k).queue = [] → c = min ((f.engine k).charges.getD (entSlice e) 0) (f.windowEnd x 0 - x.start) →
    ((f.beginOn x e k).engine k).latch = some (entSlice e) ∧ ((f.beginOn x e k).engine k).applied = c ∧
      ((f.beginOn x e k).engine k).charges.getD (entSlice e) 0 = (f.engine k).charges.getD (entSlice e) 0 - c ∧
      (f.beginOn x e k).sqs = f.sqs ∧ (f.beginOn x e k).fc = f.fc) ∧
  (∀ (s : State) (i : Nat) (e : Entry) (x : Slot) (l : List Nat) (from_ : Nat → Nat) (f : Fabric) (here : List (Nat × Nat)), s.fab.inReset = false →
    s.fab.entryNow i = some e → x = s.fab.slotOf s.fab.frame.boundaryAt (i, e) → from_ = (fun k => s.fab.slackAt x (s.fab.engine k).applied) →
    l = (s.fab.granted e).filter (fun k => !s.fab.frame.slackSeen.contains (i, k)) → l ≠ [] →
    f = s.fab.advance (leastOf (l.map from_)) → here = (l.filter (fun k => decide (from_ k ≤ f.now))).map (fun k => (i, k)) →
    exec (.slackStart i) s = .next (s.after (f.onFrame (fun fr => { fr with
      slackSeen := fr.slackSeen ++ here
      slackRun := if f.isActive (entSlice e) && f.isArmed (entSlice e) then fr.slackRun ++ here else fr.slackRun })))) ∧
  (∀ (s : State) (i : Nat) (e : Entry), s.fab.inReset = false → s.fab.entryNow i = some e → s.fab.quiet = true →
    ((s.fab.granted e).all (fun k => s.fab.frame.slackSeen.contains (i, k)) = true → exec (.slackStart i) s = .next (s.after s.fab)) ∧
    ((s.fab.granted e).all (fun k => s.fab.frame.closed.contains (i, k)) = true → exec (.issueWindowEnd i) s = .next (s.after s.fab)) ∧
    (s.fab.frame.ended.contains i = true → exec (.slotEnd i) s = .next (s.after s.fab))) ∧
  (∀ (s : State) (i : Nat), s.fab.inReset = false → s.fab.entryNow i = none →
    exec (.slackStart i) s = .next (s.after s.fab) ∧ exec (.issueWindowEnd i) s = .next (s.after s.fab) ∧
    exec (.slotEnd i) s = .next (s.after s.fab)) ∧
  (∀ (s : State) (i : Nat), s.fab.inReset = false →
    exec (.issueWindowEnd i) s = .next (s.ends ((openRun s.fab).windowEnds i)) ∧ exec (.slotEnd i) s = .next (s.ends ((openRun s.fab).slotEnds i))) ∧
  (∀ (s : State) (i : Nat) (e : Entry) (l : List Nat), s.fab.inReset = false → s.fab.entryNow i = some e → s.fab.quiet = true → s.fab.rs.hangs = [] →
    (∀ k ∈ s.fab.granted e, (s.fab.engine k).running = none ∧ (s.fab.engine k).queue = []) →
    l = (s.fab.granted e).filter (fun k => !s.fab.frame.closed.contains (i, k)) → l ≠ [] →
    ∃ t, exec (.issueWindowEnd i) s = .next t ∧ t.fab.now = max s.fab.now
        (leastOf (l.map (fun k => s.fab.windowEnd (s.fab.slotOf s.fab.frame.boundaryAt (i, e)) (s.fab.engine k).applied))) ∧
      (∀ k, t.fab.engine k = s.fab.engine k) ∧ t.fab.sqs = s.fab.sqs ∧ t.fab.slices = s.fab.slices ∧ t.fab.mem = s.fab.mem ∧ driven s t = []) ∧
  (∀ (f : Fabric) (x : Slot) (sl k : Nat) (r : Run), f.slotNext sl k x = none → (f.engine k).running = some r → r.slice = sl →
    r.nonPreempt = false → (f.engine k).queue = [] → f.rs.hangs = [] →
    ((f.closeWindow x sl k).engine k).running = some { r with preempt := true } ∧ (f.closeWindow x sl k).sqs = f.sqs ∧
      ((f.closeWindow x sl k).engine k).lateFrom =
        (if (f.engine k).lateFrom = 0 then f.windowEnd x (f.engine k).applied else (f.engine k).lateFrom)) ∧
  (∀ (s : State) (i : Nat) (e : Entry), s.fab.inReset = false → s.fab.entryNow i = some e → s.fab.quiet = true → s.fab.rs.hangs = [] →
    s.fab.frame.ended.contains i = false → s.fab.isActive (entSlice e) = true → s.fab.engines.all (fun e => !e.2.testDue) = true →
    (∀ k ∈ s.fab.granted e, (s.fab.engine k).running = none ∧ (s.fab.engine k).queue = []) →
    ∃ t, exec (.slotEnd i) s = .next t ∧ t.fab.now = max s.fab.now (s.fab.frame.boundaryAt + entStart e + entLen e) ∧
      t.fab.frame.ended = s.fab.frame.ended ++ [i] ∧ t.fab.frame.trims.getD i {} = (s.fab.frame.trims.getD i {}).after false ∧
      (∀ k, t.fab.engine k = s.fab.engine k) ∧ t.fab.sqs = s.fab.sqs ∧ t.fab.slices = s.fab.slices ∧ t.fab.mem = s.fab.mem) ∧
  (∀ (f : Fabric) (x : Slot) (sl k : Nat) (r : Run), f.slotNext sl k x = none → (f.engine k).running = some r → r.slice = sl →
    (f.engine k).queue = [] → f.rs.hangs = [] →
    (f.closeSlot x sl k).1 = true ∧ ((f.closeSlot x sl k).2.slice sl).live.exhaust = ((f.slice sl).live.exhaust + 1) % 2 ^ 64 ∧
      ((f.closeSlot x sl k).2.engine k).running = some { r with preempt := true }) ∧
  (∀ (f : Fabric) (x : Slot) (sl k : Nat), (f.slotNext sl k x).isSome = true → f.closeSlot x sl k = (false, f))

/-- R75 to R78: a follower that may step takes the master's time from a message of its port that verifies; any other measures the offset,
counts the frames near it and steers towards it, at the full rate while it is not locked. R75: the path delay is asked for when its
1,024 frames are over, answered by a master, and the answer that was asked for is halved. R78: a frame without a message is counted, and
the fourth unlocks; a window without an edge is counted, and the third unlocks. R77: a pin follower takes the frame number it adopts from
its first edge; an edge outside the window is a glitch, one inside it is measured. What does not verify, is not asked for or is of
another mode changes nothing but what its arrival did. -/
def Obligations.FollowersAlignTheirFrames : Prop :=
  (∀ (s : State) (u : LinkUnit) (m n p : Nat) (g : Fabric), s.fab.inReset = false → s.fab.ingress u = (some wireCluster, g) → u.vl = 7 →
    s.fab.frame.sync.mode = 2 → u.port = s.fab.frame.sync.port → p = s.fab.frame.periodNs → s.fab.mayStep = true →
    ∃ t, exec (.syncMessage u m n p) s = .next t ∧ t.fab.now = m + s.fab.frame.sync.pathDelay ∧ t.fab.frame.boundaryAt = m ∧
      t.fab.frame.frameNum = n % 2 ^ 48 ∧ t.fab.frame.sync.adopted = true ∧ t.fab.frame.sync.offset = 0 ∧ t.fab.frame.sync.seen = true ∧
      t.fab.frame.sync.missRun = 0 ∧ t.fab.sqs = s.fab.sqs ∧ t.fab.slices = s.fab.slices ∧ t.fab.mem = s.fab.mem ∧ driven s t = []) ∧
  (∀ (s : State) (u : LinkUnit) (m n p : Nat) (g : Fabric) (o : Int), s.fab.inReset = false → s.fab.ingress u = (some wireCluster, g) → u.vl = 7 →
    s.fab.frame.sync.mode = 2 → u.port = s.fab.frame.sync.port → p = s.fab.frame.periodNs → s.fab.mayStep = false →
    o = ((m + s.fab.frame.sync.pathDelay : Nat) : Int) - (s.fab.now : Int) → o.natAbs ≤ 1000 →
    ∃ t, exec (.syncMessage u m n p) s = .next t ∧ t.fab.now = s.fab.now ∧ t.fab.frame.frameNum = s.fab.frame.frameNum ∧
      t.fab.frame.sync.offset = o ∧ t.fab.frame.sync.adopted = true ∧ t.fab.frame.sync.seen = true ∧ t.fab.frame.sync.missRun = 0 ∧
      t.fab.frame.sync.steerPpm.natAbs ≤ 100 ∧ (t.fab.frame.sync.locked = false → o ≠ 0 → t.fab.frame.sync.steerPpm.natAbs = 100) ∧
      t.fab.frame.sync.okFrames = (if o.natAbs ≤ 50 then s.fab.frame.sync.okFrames + (if s.fab.frame.sync.seen then 0 else 1) else 0) ∧
      t.fab.frame.sync.locked = (s.fab.frame.sync.locked || decide (16 ≤ t.fab.frame.sync.okFrames)) ∧ t.fab.fc = s.fab.fc) ∧
  (∀ (s : State) (u : LinkUnit) (m n p d : Nat) (r : Option Nat) (g : Fabric), s.fab.inReset = false → (openRun s.fab).ingress u = (r, g) →
    exec (.syncMessage u m n p) s = .next (s.ends (if r = some wireCluster ∧ s.fab.frame.sync.mode = 2 ∧ u.port = s.fab.frame.sync.port
      then g.followMessage m (n % 2 ^ 48) p else g)) ∧
    exec (.pathDelayRequest u) s = .next (s.ends (if r = some wireCluster ∧ g.frame.sync.mode = 1 ∧ u.port = g.frame.sync.port
      then g.sendPort u.port .delayResponse else g)) ∧
    exec (.pathDelayResponse ⟨u, d⟩) s = .next (s.ends (if r = some wireCluster ∧ g.frame.sync.mode = 2 ∧ g.frame.sync.delayAsked = true
      then g.onSync (fun y => { y with pathDelay := d / 2, delayAsked := false }) else g))) ∧
  (∀ s : State, s.fab.inReset = false →
    (s.fab.frame.sync.mode = 2 → s.fab.frame.sync.delayIn = 0 → exec .pathDelayMeasure s = .next (s.after
      ((s.fab.onSync (fun y => { y with delayIn := 1024, delayAsked := true })).sendPort s.fab.frame.sync.port .delayRequest))) ∧
    (s.fab.frame.sync.mode ≠ 2 ∨ s.fab.frame.sync.delayIn ≠ 0 → exec .pathDelayMeasure s = .next (s.after s.fab))) ∧
  (∀ s : State, s.fab.inReset = false → s.fab.frame.sync.mode = 2 → s.fab.frame.sync.seen = false → s.fab.frame.sync.missed = false →
    s.fab.frame.sync.missRun ≠ 3 →
    exec .syncMessageMissing s = .next (s.after ((s.fab.advance s.fab.nextBoundary).onSync (fun y => { y with
      missRun := y.missRun + 1, missCnt := satAdd 16 y.missCnt 1, missed := true, okFrames := 0 })))) ∧
  (∀ (s : State) (f : Fabric), s.fab.inReset = false → s.fab.frame.sync.mode = 2 → s.fab.frame.sync.seen = false → s.fab.frame.sync.missed = false →
    s.fab.frame.sync.missRun = 3 → f = (s.fab.advance s.fab.nextBoundary).onSync (fun y => { y with
      missRun := 4, missCnt := satAdd 16 y.missCnt 1, missed := true, okFrames := 0, locked := false, steerPpm := 0
      unlockedNoted := y.unlockedNoted && !y.locked }) →
    exec .syncMessageMissing s = .next (s.after (if s.fab.frame.sync.locked then f.raiseCentral srcFs 0x0503 [] (syn3 1 0 0) else f))) ∧
  (∀ s : State, s.fab.inReset = false → s.fab.frame.sync.mode ≠ 2 ∨ s.fab.frame.sync.seen = true ∨ s.fab.frame.sync.missed = true →
    exec .syncMessageMissing s = .next (s.after s.fab)) ∧
  (∀ (s : State) (h : Nat), s.fab.inReset = false → s.fab.frame.sync.mode = 4 → 8 ≤ h → s.fab.mayStep = true →
    ∃ t, exec (.frameSyncInEdge h) s = .next t ∧ t.fab.frame.frameNum = s.fab.frame.sync.adopt ∧ t.fab.frame.sync.adopted = true ∧
      t.fab.frame.boundaryAt = s.fab.nearBoundary (s.fab.now - s.fab.frame.sync.pinDelay) ∧
      t.fab.now = t.fab.frame.boundaryAt + s.fab.frame.sync.pinDelay ∧ t.fab.sqs = s.fab.sqs ∧ t.fab.slices = s.fab.slices ∧ t.fab.mem = s.fab.mem) ∧
  (∀ (s : State) (h b m : Nat), s.fab.inReset = false → s.fab.frame.sync.mode = 4 → 8 ≤ h → s.fab.mayStep = false →
    m = s.fab.now - s.fab.frame.sync.pinDelay → b = s.fab.nearBoundary m →
    (b + 200 < m ∨ m + 200 < b →
      exec (.frameSyncInEdge h) s = .next (s.after (s.fab.onSync (fun y => { y with glitchCnt := satAdd 16 y.glitchCnt 1 })))) ∧
    (m ≤ b + 200 → b ≤ m + 200 → exec (.frameSyncInEdge h) s = .next (s.ends
      (((if s.fab.frame.sync.adopted then openRun s.fab else (openRun s.fab).adoptFrame b).onSync (fun y => { y with
        window := some b, missRun := 0 })).takeOffset ((b : Int) - (m : Int)) (s.fab.frame.sync.window != some b) true)))) ∧
  (∀ (s : State) (h : Nat), s.fab.inReset = false → s.fab.frame.sync.mode ≠ 4 ∨ h < 8 → exec (.frameSyncInEdge h) s = .next (s.after s.fab)) ∧
  (∀ (f : Fabric) (b : Nat), (f.adoptFrame b).frame.frameNum =
      (if b = f.frame.boundaryAt then f.frame.sync.adopt else (f.frame.sync.adopt + (2 ^ 48 - 1)) % 2 ^ 48) ∧ (f.adoptFrame b).frame.sync.adopted = true) ∧
  (∀ (s : State) (b : Nat) (f : Fabric), s.fab.inReset = false → s.fab.frame.sync.mode = 4 → b = s.fab.nearBoundary s.fab.now →
    s.fab.frame.sync.window ≠ some b → f = ((openRun s.fab).advance (b + 200 + s.fab.frame.sync.pinDelay)).onSync (fun y => { y with
      missCnt := satAdd 16 y.missCnt 1, missRun := y.missRun + 1, window := some b, okFrames := 0 }) →
    exec .syncWindowMiss s = .next (s.ends (if s.fab.frame.sync.missRun = 2 then f.unlock (syn3 4 0 0) else f))) ∧
  (∀ s : State, s.fab.inReset = false → s.fab.frame.sync.mode ≠ 4 ∨ s.fab.frame.sync.window = some (s.fab.nearBoundary s.fab.now) →
    exec .syncWindowMiss s = .next (s.after s.fab))

/-! ### Map records, windows, Cleat (R174, R175, R177, R184, R189, R197 to R199, R203 to R213, R309, R311, R458, R461) -/

/-- R174, R175, R177, R184, R187, R189: the TU takes the next record of an enabled map queue as `takeMap` does, and nothing while the queue
is off or empty, the slice is leaving or the chip is frozen: APPLIED advances; a MAP whose checks pass puts its leaves into the tag and
is DONE; an UNMAP or PROTECT changes the tag at once and awaits its acknowledgement; a RESOLVE that aborts a fault on which nothing is
parked closes it; a malformed record has STATUS 0AH; with 16 acknowledgements awaited an UNMAP or PROTECT stalls. R189: at the end of a
fault's park time what is parked on it ends with status 4, but for a fault of cause 3. A STATUS waits at the host port. -/
def Obligations.MapRecordsApplyInOrder : Prop :=
  (∀ (s : State) (c : Instr) (k op : Nat) (r : MapRec) (u : SliceTu), s.fab.inReset = false → u = (s.fab.slice k).tu →
    (c = .map k r ∧ op = 0) ∨ (c = .unmap k r ∧ op = 1) ∨ (c = .protect k r ∧ op = 2) ∨ (c = .resolve k r ∧ op = 3) →
    exec c s = .next (s.ends ((openRun s.fab).takeMap k op r)) ∧
    (mapqEnable u.base = false ∨ u.applied = u.tail ∨ leaving (s.fab.slice k).state = true ∨ s.fab.rs.frozen = true ∨
      (mrOp r < 4 ∧ mrOp r ≠ op) → exec c s = .next (s.after s.fab)) ∧
    (mapqEnable u.base = true → u.applied ≠ u.tail → leaving (s.fab.slice k).state = false → s.fab.rs.frozen = false → mrOp r = op →
      op = 1 ∨ op = 2 → 16 ≤ u.pendingAcks → exec c s = .next (s.after (s.fab.onTu k (fun y => { y with stalled := true })))) ∧
    (mapqEnable u.base = true → u.applied ≠ u.tail → leaving (s.fab.slice k).state = false → s.fab.rs.frozen = false → s.fab.quiet = true →
      u.pendingAcks < 16 → u.unretired = [] → 4 ≤ mrOp r ∨ (mrOp r = op ∧ s.fab.mapForm k op r = false) →
      ∃ t, exec c s = .next t ∧ (t.fab.slice k).tu.applied = u.applied + 1 ∧ (t.fab.slice k).tu.retired = u.retired + 1 ∧
        t.fab.tags = s.fab.tags ∧ t.fab.sqs = s.fab.sqs ∧ t.fab.mem = s.fab.mem ∧
        .mapStatus k (u.recordAddr u.applied.toNat + 1) 0x0A ∈ queued s t)) ∧
  (∀ (s : State) (k n : Nat) (r : MapRec) (u : SliceTu) (x : Tag), s.fab.inReset = false → u = (s.fab.slice k).tu → mapqEnable u.base = true →
    u.applied ≠ u.tail → leaving (s.fab.slice k).state = false → s.fab.rs.frozen = false → s.fab.quiet = true → u.unretired = [] →
    mrOp r = 0 → n = mrTag r → s.fab.tag? n = some x → s.fab.mapForm k 0 r = true → mrVa r + mrSpan r * 65536 ≤ Config.apertureBase →
    x.leaves.any (leafMeets (mrFirst r) (mrSpan r)) = false →
    (mrTarget r = 0 → inExtent (s.fab.slice k).record (mrAddr r / 2 ^ 36) (mrAddr r % 2 ^ 36) (mrSpan r * 65536) = true ∧
      inPool (s.fab.slice k).record (mrAddr r / 2 ^ 36) (mrAddr r % 2 ^ 36) (mrSpan r * 65536) = false) →
    keySelOk (s.fab.slice k).record (mrTarget r) (mrKeySel r) = true →
    (∀ g l, l = (List.range (mrCount r)).map (fun i => (mrFirst r + i * mrPages r, mrLeaf r i)) → g = (s.fab.onTag n (fun y =>
      { y with leaves := l.foldl (fun l e => l.put e.1 e.2) y.leaves, lost := cutSpans y.lost (mrFirst r) (mrSpan r) })).settleTables n →
      g.tableFrames k ≤ 16384) →
    ∃ t y, exec (.map k r) s = .next t ∧ (t.fab.slice k).tu.applied = u.applied + 1 ∧ (t.fab.slice k).tu.retired = u.retired + 1 ∧
      t.fab.tag? n = some y ∧ y.epoch = x.epoch ∧ (∀ i, i < mrCount r → y.leaves.find (mrFirst r + i * mrPages r) = some (mrLeaf r i)) ∧
      t.fab.sqs = s.fab.sqs ∧ t.fab.engines = s.fab.engines ∧ t.fab.mem = s.fab.mem ∧
      .mapStatus k (u.recordAddr u.applied.toNat + 1) 1 ∈ queued s t) ∧
  (∀ (s : State) (k n : Nat) (r : MapRec) (u : SliceTu) (x : Tag) (l : List (Nat × Leaf)), s.fab.inReset = false → u = (s.fab.slice k).tu →
    mapqEnable u.base = true → u.applied ≠ u.tail → leaving (s.fab.slice k).state = false → s.fab.rs.frozen = false → s.fab.quiet = true →
    u.pendingAcks < 16 → n = mrTag r → s.fab.tag? n = some x →
    (mrOp r = 1 → s.fab.unmapCheck k 1 r = (0, l) →
      ∃ t y m, exec (.unmap k r) s = .next t ∧ (t.fab.slice k).tu.applied = u.applied + 1 ∧ (t.fab.slice k).tu.unmaps = u.unmaps ++ [m] ∧
        m.kind = .record u.applied.toNat (u.recordAddr u.applied.toNat) ∧ m.tag = n ∧ m.va = mrVa r ∧ m.len = mrSpan r * 65536 ∧
        t.fab.tag? n = some y ∧ y.epoch = x.epoch + 1 ∧ y.leaves.any (leafMeets (mrFirst r) (mrSpan r)) = false ∧ t.fab.mem = s.fab.mem) ∧
    (mrOp r = 2 → s.fab.unmapCheck k 2 r = (0, l) →
      ∃ t y m, exec (.protect k r) s = .next t ∧ (t.fab.slice k).tu.applied = u.applied + 1 ∧ (t.fab.slice k).tu.unmaps = u.unmaps ++ [m] ∧
        m.kind = .record u.applied.toNat (u.recordAddr u.applied.toNat) ∧ m.tag = n ∧ m.va = mrVa r ∧ m.len = mrSpan r * 65536 ∧
        t.fab.tag? n = some y ∧ y.epoch = x.epoch + 1 ∧ t.fab.mem = s.fab.mem ∧
        ∀ i, i < mrCount r → (y.leaves.find (mrFirst r + i * mrPages r)).map (fun z => (z.write, z.keySel)) = some (mrWrite r, mrKeySel r))) ∧
  (∀ (s : State) (k j : Nat) (r : MapRec) (u : SliceTu) (o : OpenFault), s.fab.inReset = false → u = (s.fab.slice k).tu →
    mapqEnable u.base = true → u.applied ≠ u.tail → leaving (s.fab.slice k).state = false → s.fab.rs.frozen = false →
    (s.fab.onTu k (fun y => { y with faults := y.faults.del j })).quiet = true →
    u.unretired = [] → mrOp r = 3 → s.fab.mapForm k 3 r = true → mrAction r = 1 →
    u.faults.find? (fun e => e.2.tag == mrTag r && e.2.page == mrFirst r) = some (j, o) → s.fab.parkedOn k j = [] →
    s.fab.instsParkedOn k j = [] → s.fab.overflowOf k = [] →
    ∃ t, exec (.resolve k r) s = .next t ∧ (t.fab.slice k).tu.applied = u.applied + 1 ∧ (t.fab.slice k).tu.retired = u.retired + 1 ∧
      (t.fab.slice k).tu.faults = u.faults.del j ∧ t.fab.tags = s.fab.tags ∧ t.fab.sqs = s.fab.sqs ∧ t.fab.mem = s.fab.mem ∧
      .mapStatus k (u.recordAddr u.applied.toNat + 1) 1 ∈ queued s t) ∧
  (∀ (s : State) (k j : Nat), s.fab.inReset = false →
    exec (.parkTimeout k j) s = .next (s.ends ((openRun s.fab).parkEnd k j).settle) ∧
    ((s.fab.slice k).tu.faults.find j = none → s.fab.quiet = true → exec (.parkTimeout k j) s = .next (s.after s.fab))) ∧
  (∀ (f : Fabric) (k j : Nat) (o : OpenFault), (f.slice k).tu.faults.find j = some o →
    f.parkEnd k j = if o.cause = 3 then f
      else (f.advance (o.openedAt + ((f.tag? o.tag).map (·.timeoutMs)).getD 0 * 1000000)).abortFault k j) ∧
  (∀ (s : State) (k j : Nat) (o : OpenFault) (x : Tag), s.fab.inReset = false → (s.fab.slice k).tu.faults.find j = some o → o.cause ≠ 3 →
    s.fab.tag? o.tag = some x → s.fab.parkedOn k j = [] → s.fab.instsParkedOn k j = [] → s.fab.overflowOf k = [] →
    (s.fab.onTu k (fun y => { y with faults := y.faults.del j })).quiet = true →
    exec (.parkTimeout k j) s = .next (s.after ((s.fab.advance (o.openedAt + x.timeoutMs * 1000000)).onTu k (fun u => { u with
      faults := u.faults.del j })))) ∧
  (∀ (s : State) (k j q : Nat) (o : OpenFault) (d : Desc), s.fab.inReset = false → (s.fab.slice k).tu.faults.find j = some o → o.cause ≠ 3 →
    s.fab.parkedOn k j = [(q, d)] → s.fab.instsParkedOn k j = [] → s.fab.overflowOf k = [] →
    (s.fab.onTu k (fun y => { y with faults := y.faults.del j })).quiet = true →
    ∃ t, exec (.parkTimeout k j) s = .next t ∧ (t.fab.slice k).tu.faults.find j = none ∧ t.fab.mem = s.fab.mem ∧
      t.fab.desc? q d.seq = (s.fab.desc? q d.seq).map (fun y => { y with
        belay := .passed, status := 4, detail := 16 + s.fab.rangeOfPage q d o.page, stage := .bound, check := none }))

/-- R197, R198, R205: the Window Gate answers a request that verifies, and counts a refusal in the slice of the lane or an acceptance; a
write of a scratchpad window goes to its engine, and any other access waits at its regulator in units, a written unit with its bytes.
R199: a remote request of an engine or DMA engine of the slice leaves with a number on a port that reaches the peer, and no other does;
a reply that verifies retires it; a refusal is noted and cuts the tile off with status 3, and 20 us without a reply with status 8. A unit
that does not verify, and a number that stands for nothing, do no more than arrive. -/
def Obligations.WindowTraffic : Prop :=
  (∀ (s : State) (u : LinkUnit) (src w off len n code : Nat) (wr : Bool) (data : List Byte) (g : Fabric), s.fab.inReset = false →
    (openRun s.fab).ingress u = (none, g) → exec (.windowRequest u src w off len wr data) s = .next (s.ends g) ∧
      exec (.windowReply u n code) s = .next (s.ends g)) ∧
  (∀ (s : State) (u : LinkUnit) (src w off len sl key code : Nat) (wr : Bool) (data : List Byte) (g h : Fabric) (y : Window), s.fab.inReset = false →
    (openRun s.fab).ingress u = (some key, g) → y = g.window w → code = g.windowCode u key src off len wr y →
    sl = (g.laneOwner u.port u.vl).getD 64 → h = g.sendSlice sl 3 u.port 64 key u.vl (.windowReply u.ctrLo.toNat code) →
    (code ≠ 0 → exec (.windowRequest u src w off len wr data) s = .next (s.ends (h.countRefusal sl code))) ∧
    (code = 0 → y.scratch = true → exec (.windowRequest u src w off len wr data) s = .next (s.ends
      ((h.onWindow w (fun y => { y with reqCnt := (y.reqCnt + 1) % 2 ^ 32 })).emit (.scratchWrite y.engine (y.spOffset + off) data)))) ∧
    (code = 0 → y.scratch = false → exec (.windowRequest u src w off len wr data) s = .next (s.ends
      (((h.onWindow w (fun y => { y with reqCnt := (y.reqCnt + 1) % 2 ^ 32 })).onTag y.tag (fun t => if !t.accEn then t
        else { t with access := t.access.upd ((y.va + off) / 2 ^ 21) (0, 0) (fun c => if wr then (satAdd 16 c.1 1, c.2) else (c.1, satAdd 16 c.2 1)) }))
          |>.windowAccess u w y off len wr data)))) ∧
  (∀ (s : State) (u : LinkUnit) (src w off len key : Nat) (wr : Bool) (data : List Byte) (g : Fabric) (y : Window) (e : Extent) (o : Nat),
    s.fab.inReset = false → s.fab.ingress u = (some key, g) → y = s.fab.window w → s.fab.windowCode u key src off len wr y = 0 →
    y.scratch = false → len ≤ 256 → walkExtents y.extents off = some (e, o) → e.target = 0 →
    ∃ t, exec (.windowRequest u src w off len wr data) s = .next t ∧ (t.fab.window w).reqCnt = (y.reqCnt + 1) % 2 ^ 32 ∧
      (t.fab.window w).inFlight = y.inFlight + 1 ∧ t.fab.sqs = s.fab.sqs ∧ t.fab.engines = s.fab.engines ∧ t.fab.mem = s.fab.mem ∧ driven s t = [] ∧
      ∃ v ∈ (t.fab.reg e.stack).waiting, v.cls = 3 ∧ v.window = some (w, devKey e.stack (e.addr + o)) ∧
        v.store = if wr then some (devKey e.stack (e.addr + o), data.take len) else none) ∧
  (∀ (s : State) (p k sl jk peer w off len : Nat) (dma wr b : Bool) (x : Slice) (g : Fabric), s.fab.inReset = false → x = s.fab.slice sl →
    b = ((x.state == .active || x.state == .resetting) && (if dma then s.fab.hasDma x k && !s.fab.goingOut 1 k else x.hasEngine k) &&
      x.ports.contains p && (s.fab.portsTo x peer).contains p && decide (s.fab.splice.chip ≠ 0)) →
    g = { s.fab with
      remotes := s.fab.remotes.put s.fab.nextRemote { port := p, engine := k, dma := dma, slice := sl, peer := peer, window := w, offset := off,
                                                      length := len, sentAt := s.fab.now }
      nextRemote := s.fab.nextRemote + 1 } →
    exec (.linkRemoteRequest p k dma ⟨sl, jk⟩ peer w off len wr) s = .next (s.after (if b then
      g.sendSlice sl (if dma then 2 else if wr then 1 else 0) p (if wr then len else 64) (g.jobKeyNo sl jk) (g.vlOn sl p) (.remote peer w off len wr)
      else s.fab))) ∧
  (∀ (s : State) (u : LinkUnit) (n code key : Nat) (g : Fabric), s.fab.inReset = false → (openRun s.fab).ingress u = (some key, g) →
    exec (.windowReply u n code) s = .next (s.ends (match g.remotes.find n with
      | some r => if code = 0 then { g with remotes := g.remotes.del n }
          else (({ g with remotes := g.remotes.del n } : Fabric).refusedNote r code).failRemote r 3
      | none => g))) ∧
  (∀ (s : State) (u : LinkUnit) (n code key : Nat) (g : Fabric) (r : RemoteReq) (x : Run), s.fab.inReset = false → s.fab.ingress u = (some key, g) →
    s.fab.remotes.find n = some r → code ≠ 0 → r.dma = false → (s.fab.engine r.engine).running = some x → x.slice = r.slice → x.startAt ≤ r.sentAt →
    ∃ t, exec (.windowReply u n code) s = .next t ∧ (t.fab.engine r.engine).running = some { x with onEnd := x.onEnd.or (some 3) } ∧
      (t.fab.engine r.engine).aborting = true ∧ t.fab.remotes = s.fab.remotes.del n ∧ t.fab.now = s.fab.now ∧ t.fab.sqs = s.fab.sqs ∧
      t.fab.mem = s.fab.mem) ∧
  (∀ (s : State) (n : Nat), s.fab.inReset = false → exec (.windowRequestTimeout n) s = .next (match s.fab.remotes.find n with
    | some r => s.ends ((({ openRun s.fab with remotes := s.fab.remotes.del n } : Fabric).advance (r.sentAt + 20000)).failRemote r 8)
    | none => s.after s.fab)) ∧
  (∀ (s : State) (n : Nat) (r : RemoteReq) (x : Run), s.fab.inReset = false → s.fab.remotes.find n = some r → r.dma = false →
    (s.fab.engine r.engine).running = some x → x.slice = r.slice → x.startAt ≤ r.sentAt →
    ∃ t, exec (.windowRequestTimeout n) s = .next t ∧ (t.fab.engine r.engine).running = some { x with onEnd := x.onEnd.or (some 8) } ∧
      (t.fab.engine r.engine).aborting = true ∧ t.fab.remotes = s.fab.remotes.del n ∧ t.fab.now = max s.fab.now (r.sentAt + 20000) ∧
      t.fab.sqs = s.fab.sqs ∧ t.fab.mem = s.fab.mem)

/-- R309, R311, R458: a checked request waits at its stack, another is refused with a record, FATAL for a key slot that its sender may not
use. R203 to R206: a cycle refills the meters and grants in each direction, and a frozen or absent resource does nothing; a grant takes
a unit that waits, on a path that its checks allow, from its meters. R206, R207, R208: a response is delivered at once, or for a sealed
slice, but at a link port, held with its data until LAT after the grant; a late one is counted, and one that no unit awaits recorded.
R201, R212: lanes and peer of a port as the link layer reports them, with a record for a lost port and for a reduced width. R213, R461:
a droop alarm throttles, marks what runs and is noted once a frame; its release starts the hold of 10 us, and the end of the hold adds
the throttled time up. -/
def Obligations.RegulatorsPortWidthAndDroop : Prop :=
  (∀ (s : State) (st ch k sn : Nat) (q : Word) (data : List Byte) (x : Slice) (b : Bool), s.fab.inReset = false → s.fab.stackIn st = true →
    bitAt q 55 = false → k = miField q 46 6 → sn = miField q 37 9 → x = s.fab.slice k →
    b = ((x.state == .active || x.state == .resetting || x.state == .removing) &&
      (if bitAt q 0 then s.fab.hasDma x (miField q 56 8) && decide (miField q 56 8 < 64) else x.hasEngine (miField q 56 8)) &&
      inExtent x.record st (miField q 6 30 * 64 / 256 * 256) 256) →
    (b = true → x.keyBase ≤ sn → sn < x.keyBase + recMemKeys x.record → exec (.miRequest st ch q data) s = .next (s.after (s.fab.offer st
      { slice := some k, cls := miField q 52 3, charge := 256, write := bitAt q 36, line := miField q 6 30 * 64, chan := ch,
        keySlot := sn, data := (data ++ List.replicate 256 0).take 256, mi := true, src := miField q 56 8 }))) ∧
    (b = true → sn < x.keyBase ∨ x.keyBase + recMemKeys x.record ≤ sn → exec (.miRequest st ch q data) s = .next (s.after (s.fab.raise
      { source := srcStack st, unit := unitId 3 0 st, cause := 0x0104, owners := [k], base := some 3 }) [.miResponse st ch 0 2 []])) ∧
    (b = false → exec (.miRequest st ch q data) s = .next (s.after (s.fab.raise
      { source := srcStack st, unit := unitId 3 0 st, cause := 0x0104, owners := [k] }) [.miResponse st ch 0 2 []]))) ∧
  (∀ (s : State) (st ch sn : Nat) (q : Word) (data : List Byte), s.fab.inReset = false → s.fab.stackIn st = true → bitAt q 55 = true →
    sn = miField q 37 9 →
    (8 ≤ sn → exec (.miRequest st ch q data) s = .next (s.after (s.fab.raise
      { source := srcStack st, unit := unitId 3 0 st, cause := 0x0104, owners := [], fabric := true, base := some 3 }) [.miResponse st ch 0 2 []])) ∧
    (sn < 8 → exec (.miRequest st ch q data) s = .next (s.after (s.fab.offer st
      { cls := 6, charge := 256, write := bitAt q 36, line := miField q 6 30 * 64, chan := ch, keySlot := sn,
        data := (data ++ List.replicate 256 0).take 256, mi := true, src := miField q 56 8 })))) ∧
  (∀ (s : State) (st ch : Nat) (q : Word) (data : List Byte), s.fab.inReset = false → s.fab.stackIn st = false →
    exec (.miRequest st ch q data) s = .next (s.after s.fab)) ∧
  (∀ (s : State) (r n : Nat) (g h : Fabric), s.fab.inReset = false → s.fab.regUp r = true → s.fab.rs.frozen = false →
    n = (s.fab.reg r).out.length → g = ((openRun s.fab).refill r).shortfalls r →
    h = (if regKind r = 2 then (g.grantUnits r false (regGrants r)).grantUnits r true (regGrants r) else g.grantUnits r false (regGrants r)) →
    exec (.cleatCycle r) s = .next (s.ends (h.present r n).settle)) ∧
  (∀ (s : State) (r : Nat), s.fab.inReset = false → s.fab.quiet = true → s.fab.regUp r = false ∨ s.fab.rs.frozen = true →
    exec (.cleatCycle r) s = .next (s.after s.fab)) ∧
  (∀ (f : Fabric) (r : Nat) (up : Bool) (u : CUnit) (p : GPath), f.nextGrant r up = some (u, p) → u ∈ (f.reg r).waiting ∧ u.up r = up ∧
    (match p with | .min => f.minPath r u | .fab => f.fabPath r u | .rem => f.remPath r u) = true) ∧
  (∀ (f : Fabric) (r : Nat) (u : CUnit) (p : GPath) (g : Reg) (a b : Meters), g = f.reg r → (∀ w ∈ g.waiting, w.arrived = u.arrived → w = u) →
    u.zeros = none → u.done = none → u.shadow = none → u.injectBits = 0 → f.fc.inject = none →
    a = g.dir (u.up r) → b = ((f.grantUnit r u p).reg r).dir (u.up r) →
    ((f.grantUnit r u p).reg r).waiting = g.waiting.filter (fun w => w ≠ u) ∧
    (((f.grantUnit r u p).reg r).out.map (·.tag)) = g.out.map (·.tag) ++ [u.tag] ∧
    b.rem = (if p = .min then a.rem else a.rem - u.charge * 65536) ∧ b.fab = (if p = .fab then a.fab - u.charge * 65536 else a.fab)) ∧
  (∀ (s : State) (r tag st : Nat), s.fab.inReset = false →
    exec (.unitResponse r tag st) s = .next (s.ends ((openRun s.fab).takeResponse r tag st)) ∧
    ((s.fab.reg r).out.find? (fun w => w.tag == tag && w.answered.isNone) = none →
      exec (.unitResponse r tag st) s = .next (s.after (s.fab.raiseReg r 0x0104 tag)))) ∧
  (∀ (f : Fabric) (r tag st : Nat) (u : CUnit) (d : List Byte × Fabric) (b : Bool), st ≠ 1 → st ≠ 2 →
    (f.reg r).out.find? (fun w => w.tag == tag && w.answered.isNone) = some u → d = f.unitData r u →
    b = (match u.slice with | some k => recSealed (d.2.slice k).record && regKind r != 1 | none => false) →
    f.takeResponse r tag st = if u.grantedAt + regLat r < d.2.now then (d.2.lateResponse r u).deliverUnit r u st d.1
      else if b && decide (d.2.now < u.grantedAt + regLat r) then
        d.2.onReg r (fun g => { g with out := g.out.map (fun w => if w.tag == tag && w.arrived == u.arrived then
          { w with answered := some st, data := if w.write then w.data else d.1 } else w) })
      else d.2.deliverUnit r u st d.1) ∧
  (∀ (s : State) (r tag : Nat), s.fab.inReset = false → exec (.equalisedDelivery r tag) s = .next (
    match (s.fab.reg r).out.find? (fun w => w.tag == tag && w.answered.isSome) with
    | some u => s.ends (((openRun s.fab).advance (u.grantedAt + regLat r)).deliverUnit r u (u.answered.getD 0) (if u.write then [] else u.data))
    | none => s.after s.fab)) ∧
  (∀ (f : Fabric) (r st : Nat) (u : CUnit) (d : List Byte), u.mi = true → u.window = none →
    (f.deliverUnit r u st d).out = f.out ++ [.miResponse r u.chan u.tag (if st = 2 then 1 else 0) (if st = 2 then [] else d)] ∧
    ((f.deliverUnit r u st d).reg r).back = (f.reg r).back ++ [u] ∧
    ((f.deliverUnit r u st d).reg r).out = (f.reg r).out.filter (fun w => w.tag != u.tag || w.arrived != u.arrived)) ∧
  (∀ (s : State) (p lanes peer pp : Nat), s.fab.inReset = false →
    exec (.linkStateChange p lanes peer pp) s = .next (s.ends ((openRun s.fab).linkChange p lanes peer pp))) ∧
  (∀ (s : State) (p lanes peer pp : Nat), s.fab.inReset = false → s.fab.quiet = true → s.fab.splice.groups = [] → lanes ≠ 0 → s.fab.lanesOf p ≤ lanes →
    exec (.linkStateChange p lanes peer pp) s = .next (s.after (s.fab.onCleat (fun c => { c with
      lanes := c.lanes.put p lanes, peers := c.peers.put p (peer, pp) })))) ∧
  (∀ (s : State) (p lanes peer pp : Nat) (r : FRec), s.fab.inReset = false → s.fab.quiet = true → s.fab.splice.groups = [] → lanes < s.fab.lanesOf p →
    r = { source := srcPort p, unit := unitId 4 0 p, cause := if lanes = 0 then 0x0805 else 0x0804, owners := s.fab.portOwners p, fabric := true,
          syndrome := syn3 lanes (s.fab.lanesOf p) 0 } →
    exec (.linkStateChange p lanes peer pp) s = .next (s.after ((s.fab.onCleat (fun c => { c with
      lanes := c.lanes.put p lanes, peers := c.peers.put p (if lanes = 0 then (0, 0) else (peer, pp)) })).raise r))) ∧
  (∀ s : State, s.fab.inReset = false → s.fab.cleat.droopLow = false →
    ∃ t, exec .droopAssert s = .next t ∧ t.fab.cleat.droopLow = true ∧ t.fab.cleat.droopHold = none ∧ t.fab.cleat.droopNoted = true ∧
      t.fab.cleat.droopFrom = (if s.fab.cleat.droopHold.isSome then s.fab.cleat.droopFrom else s.fab.now) ∧
      t.fab.cleat.droopEvents = satAdd 16 s.fab.cleat.droopEvents 1 ∧ t.fab.cleat.droopEventsAll = (s.fab.cleat.droopEventsAll + 1) % 2 ^ 32 ∧
      (∀ k, (t.fab.engine k).running = (s.fab.engine k).running.map (fun r => { r with excursion := true })) ∧
      (s.fab.cleat.droopNoted = true → t.fab.fc = s.fab.fc) ∧ t.fab.sqs = s.fab.sqs ∧ t.fab.mem = s.fab.mem) ∧
  (∀ s : State, s.fab.inReset = false → s.fab.cleat.droopLow = true → exec .droopAssert s = .next (s.after s.fab)) ∧
  (∀ s : State, s.fab.inReset = false → exec .droopRelease s = .next (s.after (if s.fab.cleat.droopLow then
    s.fab.onCleat (fun c => { c with droopLow := false, droopHold := some (s.fab.now + 10000) }) else s.fab))) ∧
  (∀ (s : State) (t0 : Nat), s.fab.inReset = false → s.fab.cleat.droopHold = some t0 →
    exec .droopHoldEnd s = .next (s.after ((s.fab.advance t0).onCleat (fun c => { c with
      droopHold := none, throttleNs := c.throttleNs + (max s.fab.now t0 - c.droopFrom) })))) ∧
  (∀ s : State, s.fab.inReset = false → s.fab.cleat.droopHold = none → exec .droopHoldEnd s = .next (s.after s.fab))

/-! ### Collective groups (R283, R286 to R292, R296 to R300, R403) -/

/-- R313, R315: a message between members acts only if it verifies under the cluster key. R283: a JOIN whose job no group states is held, one
that agrees is passed on or, at rank 0, answered with JOINED, and one that does not breaks the group; JOINED makes the group READY and
is passed on, but by rank 0; 100 ms of waiting end a joining group, and the JOIN held longest for a job. R299: a broken neighbour breaks
the group: it is BROKEN, tells both neighbours and notes it. R288: a GRANT, a DENY or 20 us without either settles an outstanding
reservation, and does nothing to a group that awaits none. -/
def Obligations.GroupsJoinAndBreak : Prop :=
  (∀ (s : State) (u : LinkUnit) (r : Option Nat) (h : Fabric) (g lease : Nat) (job crc : BitVec 32) (fmt : BitVec 16) (op : BitVec 3),
    s.fab.inReset = false → (openRun s.fab).ingress u = (r, h) →
    exec (.joinMessage u job crc) s = .next (s.ends (if r = some wireCluster then h.takeJoin u.port job crc else h)) ∧
    exec (.joined ⟨u, job⟩) s = .next (s.ends (if r = some wireCluster then (h.takeJoined job).settle else h)) ∧
    exec (.groupBroken ⟨u, job⟩) s = .next (s.ends (if r = some wireCluster then (h.breakGroups (fun x => gJob x.record == job)).settle else h)) ∧
    exec (.grant ⟨u, g⟩ lease fmt op) s = .next (s.ends (if r = some wireCluster ∧ (h.group g).resv = 1 then
      h.onGroup g (fun x => { x with resv := 2, lease := lease, fmtMask := fmt, opMask := op }) else h)) ∧
    exec (.deny ⟨u, g⟩) s = .next (s.ends (if r = some wireCluster ∧ (h.group g).resv = 1 then
      h.onGroup g (fun x => { x with resv := 3, denyFrame := h.frame.frameNum }) else h))) ∧
  (∀ (f : Fabric) (p : Nat) (job crc : BitVec 32), f.groupsOf job (fun x => x.state == 2) = [] →
    f.takeJoin p job crc = if f.groupsOf job (fun x => x.state == 3 || x.state == 4) = [] then
      { f with splice := { f.splice with joins := f.splice.joins ++ [(p, job, crc, f.now)] } } else f) ∧
  (∀ (f : Fabric) (p g : Nat) (job crc : BitVec 32) (l : List Nat) (x : Group), f.groupsOf job (fun x => x.state == 2) = g :: l → x = f.group g →
    f.takeJoin p job crc = (if crc ≠ joinCrcOf x.record then f.breakGroup g
      else if x.leads = true then f.sendSucc g (.joinDone (gJob x.record)) else f.sendSucc g (.join (gJob x.record) crc)).settle) ∧
  (∀ (f : Fabric) (g : Nat) (x : Group), x = f.group g → x.state = 2 ∨ x.state = 3 →
    ((f.breakGroup g).group g).state = 4 ∧ ((f.breakGroup g).group g).running = none ∧ ((f.breakGroup g).group g).resv = 0 ∧
      (f.breakGroup g).writes = f.writes ∧ (f.breakGroup g).mem = f.mem ∧ (f.breakGroup g).now = f.now ∧
      .notice 4 f.splice.chip (gJob x.record) f.now f.rs.l4Count ∈ (f.breakGroup g).out) ∧
  (∀ (s : State) (u : LinkUnit) (h : Fabric) (g : Nat) (job crc : BitVec 32) (l : List Nat), s.fab.inReset = false → s.fab.quiet = true →
    s.fab.ingress u = (some wireCluster, h) → s.fab.groupsOf job (fun x => x.state == 2) = g :: l → (s.fab.group g).state = 2 →
    crc ≠ joinCrcOf (s.fab.group g).record →
    ∃ t, exec (.joinMessage u job crc) s = .next t ∧ (t.fab.group g).state = 4 ∧ (t.fab.group g).resv = 0 ∧ t.fab.mem = s.fab.mem ∧
      t.fab.now = s.fab.now ∧ .notice 4 s.fab.splice.chip (gJob (s.fab.group g).record) s.fab.now s.fab.rs.l4Count ∈ driven s t) ∧
  (∀ (f : Fabric) (g : Nat) (job : BitVec 32) (l : List Nat) (x : Group), f.groupsOf job (fun x => x.state == 2) = g :: l → x = f.group g →
    (x.leads = false → f.takeJoined job = (f.onGroup g (fun y => { y with state := 3 })).sendSucc g (.joinDone job)) ∧
    (x.leads = true → f.takeJoined job = (f.onGroup g (fun y => { y with state := 3 })).askReserve g)) ∧
  (∀ (f : Fabric) (job : BitVec 32), f.groupsOf job (fun x => x.state == 2) = [] → f.takeJoined job = f) ∧
  (∀ (s : State) (g : Nat), s.fab.inReset = false → exec (.joinTimeout g) s = .next (if (s.fab.group g).state = 2 then
    s.ends (((openRun s.fab).advance ((s.fab.group g).joinFrom + 100000000)).breakGroup g).settle else s.after s.fab)) ∧
  (∀ (s : State) (g : Nat), s.fab.inReset = false → s.fab.quiet = true → (s.fab.group g).state = 2 →
    ∃ t, exec (.joinTimeout g) s = .next t ∧ (t.fab.group g).state = 4 ∧ t.fab.mem = s.fab.mem ∧
      t.fab.now = max s.fab.now ((s.fab.group g).joinFrom + 100000000)) ∧
  (∀ (s : State) (job : BitVec 32), s.fab.inReset = false → exec (.joinHoldExpiry job) s = .next (
    match s.fab.splice.joins.find? (fun k => k.2.1 == job) with
    | some j => s.after { s.fab.advance (j.2.2.2 + 100000000) with splice := { s.fab.splice with joins := s.fab.splice.joins.erase j } }
    | none => s.after s.fab)) ∧
  (∀ (s : State) (u : LinkUnit) (h : Fabric) (g : Nat) (job : BitVec 32) (x : Group), s.fab.inReset = false → s.fab.ingress u = (some wireCluster, h) →
    s.fab.splice.groups.find g = some x → gJob x.record = job → x.destroy = none → x.state = 2 ∨ x.state = 3 →
    ∃ t, exec (.groupBroken ⟨u, job⟩) s = .next t ∧ (t.fab.group g).state = 4 ∧ t.fab.now = s.fab.now) ∧
  (∀ (s : State) (g : Nat), s.fab.inReset = false →
    ((s.fab.group g).resv = 1 → exec (.reserveTimeout g) s = .next (s.after ((s.fab.advance ((s.fab.group g).reservedAt + 20000)).onGroup g (fun x => { x with
      resv := 3, denyFrame := s.fab.frame.frameNum })))) ∧
    ((s.fab.group g).resv ≠ 1 → exec (.reserveTimeout g) s = .next (s.after s.fab)))

/-- R286: a step that is ready begins, and one that an ABORT has ended before ends there; nothing begins while another runs, the slice is not
ACTIVE or the chip is frozen. R286, R289, R298: a READY that verifies waits for its step, or is passed on with the worst figures, its CRC
checked, rank 0 choosing the path; GO starts the member's chunks, and ends a barrier with status 0. R287: the first ABORT for a step is
passed on; for a later step it is kept, the step in progress it ends, for a step that is over it does no more. R296, R299: no progress for
the gang timeout aborts the step with TIMEOUT, and a step that ends otherwise ends the run of timeouts. A message that does not verify
only arrives. -/
def Obligations.StepsRunInStep : Prop :=
  (∀ (s : State) (u : LinkUnit) (r : Option Nat) (h : Fabric) (g k : Nat) (t : Token) (c : AbortCause) (fs : Bool),
    s.fab.inReset = false → (openRun s.fab).ingress u = (r, h) →
    exec (.readyToken ⟨u, g⟩ t) s = .next (s.ends (if r = some wireCluster then h.takeReady g t else h)) ∧
    exec (.goToken ⟨u, g⟩ t) s = .next (s.ends (if r = some wireCluster then h.takeGo g t else h)) ∧
    exec (.stepAbort ⟨u, g⟩ k c fs) s = .next (s.ends (if r = some wireCluster then h.takeAbort g k c fs else h))) ∧
  (∀ (s : State) (g q : Nat) (d : Desc) (x : Group), s.fab.inReset = false → x = s.fab.group g → x.state = 3 → x.running = none →
    s.fab.isActive (gSlice x.record) = true → s.fab.rs.frozen = false → s.fab.stepDesc g x.stepNum = some (q, d) → d.stage = .bound →
    d.belay = .bound → d.readyAt.isSome = true → d.stale = false → d.ending = none →
    exec (.stepReady g) s = .next (s.ends (match x.abortAhead.find? (fun a => a.1 == x.stepNum) with
      | some a => ((openRun s.fab).endAhead g d a.2).settle
      | none => ((openRun s.fab).beginStep g q d).settle))) ∧
  (∀ (s : State) (g : Nat) (x : Group), s.fab.inReset = false → x = s.fab.group g →
    x.state ≠ 3 ∨ x.running.isSome = true ∨ s.fab.isActive (gSlice x.record) = false ∨ s.fab.rs.frozen = true ∨
      (∀ q d, s.fab.stepDesc g x.stepNum = some (q, d) →
        d.stage ≠ .bound ∨ d.belay ≠ .bound ∨ d.readyAt = none ∨ d.stale = true ∨ d.ending.isSome = true) →
    exec (.stepReady g) s = .next (s.after s.fab)) ∧
  (∀ (f : Fabric) (g q : Nat) (d : Desc) (x : Group), x = f.group g → x.heldReady = none →
    ((f.beginStep g q d).group g).running = some d.seq ∧ ((f.beginStep g q d).group g).isReady = true ∧
      ((f.beginStep g q d).group g).stepNum = (x.stepNum + 1) % 65536 ∧ ((f.beginStep g q d).group g).readyAt = f.now ∧
      ((f.beginStep g q d).group g).unlocked = (if f.frame.sync.locked then x.unlocked else satAdd 16 x.unlocked 1) ∧
      (f.beginStep g q d).slices = f.slices ∧ (f.beginStep g q d).writes = f.writes) ∧
  (∀ (f : Fabric) (g : Nat) (t : Token) (x : Group), x = f.group g →
    (x.state ≠ 3 → f.takeReady g t = f) ∧
    (x.state = 3 → x.running.isSome = true → t.step = x.stepNow →
      f.takeReady g t = if x.going then f else ((f.progress g).passReady g t f.now).settle) ∧
    (x.state = 3 → x.running.isSome = false ∨ t.step ≠ x.stepNow →
      f.takeReady g t = if t.step = x.stepNum then f.onGroup g (fun y => { y with heldReady := some t, heldAt := f.now }) else f)) ∧
  (∀ (f : Fabric) (g q : Nat) (d : Desc) (t : Token) (h0 : Nat), f.runningStep g = some (q, d) →
    (t.crc ≠ stepCrc d.raw → f.passReady g t h0 = f.raiseAbort g .mismatch 0) ∧
    (t.crc = stepCrc d.raw → (f.group g).leads = true → f.passReady g t h0 = f.choosePath g t) ∧
    (t.crc = stepCrc d.raw → (f.group g).leads = false →
      ∃ u : Token, f.passReady g t h0 = f.sendSucc g (.ready (gJob (f.group g).record) u) ∧ u.step = t.step ∧ u.crc = t.crc ∧
        u.hold = f.now - h0 ∧ u.slowHold = max t.slowHold (f.now - h0) ∧
        u.slowRank = (if t.slowHold < f.now - h0 then gRank (f.group g).record else t.slowRank) ∧
        u.allReachSwitch = (t.allReachSwitch && f.reachesSwitch (f.group g)))) ∧
  (∀ (f : Fabric) (g : Nat) (t : Token) (x : Group), x = f.group g → f.takeGo g t =
    if x.state = 3 ∧ x.running.isSome = true ∧ t.step = x.stepNow ∧ x.going = false ∧ x.leads = false then (f.goNow g t).settle else f) ∧
  (∀ (f : Fabric) (g q : Nat) (d : Desc) (t : Token), f.runningStep g = some (q, d) → field d.raw 0 1 = 5 →
    ((f.goNow g t).group g).running = none ∧ ((f.goNow g t).desc? q d.seq).map (fun y => (y.belay, y.status)) = some (.passed, 0)) ∧
  (∀ (f : Fabric) (g k : Nat) (c : AbortCause) (fs : Bool) (x : Group) (h : Fabric), x = f.group g →
    (x.state ≠ 3 ∨ x.abortSeen.contains k = true → f.takeAbort g k c fs = f) ∧
    (x.state = 3 → x.abortSeen.contains k = false →
      h = (if fs then f.sendPred g (.abort (gJob x.record) k c) else f.sendSucc g (.abort (gJob x.record) k c)).onGroup g (fun y => { y with
        abortSeen := y.abortSeen.filter (fun n => decide ((y.stepNum + 65536 - n) % 65536 < 32768)) ++ [k] }) →
      (x.running.isSome = true → k = x.stepNow → f.takeAbort g k c fs = (h.endStep g (abortStatus c false) 0 (c == .timeout)).settle) ∧
      (x.running.isSome = false ∨ k ≠ x.stepNow → stepPast x k = true → f.takeAbort g k c fs = h) ∧
      (x.running.isSome = false ∨ k ≠ x.stepNow → stepPast x k = false → f.takeAbort g k c fs = h.onGroup g (fun y => { y with
        abortAhead := y.abortAhead ++ [(k, c)]
        heldReady := if (y.heldReady.map (·.step)) = some k then none else y.heldReady })))) ∧
  (∀ (f : Fabric) (g q st dt : Nat) (d : Desc), f.runningStep g = some (q, d) →
    ((f.endStep g st dt).group g).running = none ∧ ((f.endStep g st dt).group g).timeoutRun = 0 ∧
      ((f.endStep g st dt).desc? q d.seq).map (fun y => (y.belay, y.status, y.detail)) = some (.passed, st, dt)) ∧
  (∀ (s : State) (g : Nat) (x : Group), s.fab.inReset = false → x = s.fab.group g → exec (.gangTimeout g) s = .next (if x.running.isSome = true then
    s.ends (((openRun s.fab).advance (x.lastProgress + gTimeoutUs x.record * 1000)).raiseAbort g .timeout 0).settle else s.after s.fab)) ∧
  (∀ (f : Fabric) (g q dt : Nat) (c : AbortCause) (d : Desc), f.runningStep g = some (q, d) → (f.group g).timeoutRun < 2 →
    f.stepDesc g (f.group g).stepNum = none → f.stepGone g (f.group g).stepNum = false →
    ((f.raiseAbort g c dt).group g).running = none ∧
      ((f.raiseAbort g c dt).group g).timeoutRun = (if c = .timeout then (f.group g).timeoutRun + 1 else 0) ∧
      ((f.raiseAbort g c dt).desc? q d.seq).map (fun y => (y.belay, y.status, y.detail)) = some (.passed, abortStatus c true, dt))

/-- R291, R292, R315: a chunk that verifies, of a READY group and its job, whose CRC is wrong is counted and refused; one seen before or of a
step that is over is acknowledged again; a new one of the step in progress is remembered, acknowledged and used, any other is dropped.
An acknowledgement that verifies retires its chunk; a refusal, or 20 us without an answer, marks it to be sent again until its fourth
transmission, which aborts the step with PATH; it goes on the port that it used if that still qualifies, and is counted. R403: a peer's
notice that verifies is recorded, and of a peer that resets or goes down no request stays outstanding. An answer that names no chunk in
flight, and a unit that does not verify, do no more than arrive. -/
def Obligations.ChunksAndNotices : Prop :=
  (∀ (s : State) (u : LinkUnit) (r : Option Nat) (g kind chip : Nat) (h : ChunkHdr) (pl : List Byte) (crc job : BitVec 32) (f : Fabric),
    s.fab.inReset = false → (openRun s.fab).ingress u = (r, f) →
    (r = none → exec (.chunkReceive u g h pl crc) s = .next (s.ends f)) ∧
    exec (.chunkAck ⟨u, g⟩ h) s = .next (s.ends (if r = some wireCluster then f.takeAck g h else f)) ∧
    exec (.chunkNack ⟨u, g⟩ h) s = .next (s.ends (if r = some wireCluster then f.takeNack g h else f)) ∧
    exec (.peerNoticeReceived u kind chip job) s = .next (s.ends (if r = some wireCluster then f.takeNotice kind chip job else f))) ∧
  (∀ (s : State) (u : LinkUnit) (g k : Nat) (h : ChunkHdr) (pl : List Byte) (crc : BitVec 32) (f : Fabric) (x : Group), s.fab.inReset = false →
    (openRun s.fab).ingress u = (some k, f) → x = f.group g →
    (x.state ≠ 3 ∨ h.job ≠ gJob x.record → exec (.chunkReceive u g h pl crc) s = .next (s.ends f)) ∧
    (x.state = 3 → h.job = gJob x.record → crc ≠ chunkCrc h pl →
      exec (.chunkReceive u g h pl crc) s = .next (s.ends ((f.countBadChunk u.port).answerChunk g h false))) ∧
    (x.state = 3 → h.job = gJob x.record → crc = chunkCrc h pl → stepPast x h.step = true →
      exec (.chunkReceive u g h pl crc) s = .next (s.ends (f.answerChunk g h true))) ∧
    (x.state = 3 → h.job = gJob x.record → crc = chunkCrc h pl → stepPast x h.step = false →
      (∀ q d, f.runningStep g = some (q, d) → h.step ≠ x.stepNow ∨ x.isReady = false) → exec (.chunkReceive u g h pl crc) s = .next (s.ends f)) ∧
    (∀ q d, x.state = 3 → h.job = gJob x.record → crc = chunkCrc h pl → stepPast x h.step = false → f.runningStep g = some (q, d) →
      h.step = x.stepNow → x.isReady = true → exec (.chunkReceive u g h pl crc) s = .next (s.ends
        (if x.received.any (sameChunk h) then f.answerChunk g h true
        else (((((f.onGroup g (fun y => { y with received := y.received ++ [h] })).progress g).answerChunk g h true).useChunk g d
          (planOf x d) h pl).pumpAll.checkEnd g).settle)))) ∧
  (∀ (f : Fabric) (g : Nat) (d : Desc) (p : Plan) (h : ChunkHdr) (pl : List Byte), h.phase = 1 ∨ h.phase = 2 → p.rank + 1 < p.n →
    ((f.useChunk g d p h pl).group g).written = (f.group g).written + (unpackElems p.fmt h.count pl).length ∧
    ((f.useChunk g d p h pl).group g).toSend = (if p.rank + 1 = h.src then (f.group g).toSend else (f.group g).toSend ++ [(h, pl)])) ∧
  (∀ (f : Fabric) (g : Nat) (h : ChunkHdr),
    (f.sentChunk? g h = none → f.takeAck g h = f ∧ f.takeNack g h = f) ∧
    ((f.sentChunk? g h).isSome = true →
      f.takeAck g h = (((f.onGroup g (fun x => { x with sent := x.sent.filter (fun c => !sameChunk c.h h) })).progress g).pumpAll.checkEnd g).settle) ∧
    (∀ c, f.sentChunk? g h = some c → f.takeNack g h = (f.chunkLost g c).pumpAll.settle)) ∧
  (∀ (s : State) (g : Nat) (h : ChunkHdr), s.fab.inReset = false → exec (.chunkAckTimeout g h) s = .next (match s.fab.sentChunk? g h with
    | some c => if c.due then s.after s.fab else s.ends (((openRun s.fab).advance (c.sentAt + 20000)).chunkLost g c).pumpAll.settle
    | none => s.after s.fab)) ∧
  (∀ (f : Fabric) (g : Nat) (c : SentChunk), (c.due = true → f.chunkLost g c = f) ∧
    (c.due = false → 4 ≤ c.tries → f.chunkLost g c = f.raiseAbort g .path 0) ∧
    (c.due = false → c.tries < 4 → f.chunkLost g c = f.onGroup g (fun y => { y with sent := y.sent.map (fun k =>
      if sameChunk k.h c.h then { k with due := true } else k) }))) ∧
  (∀ (f : Fabric) (g : Nat) (c : SentChunk) (x : Group), x = f.group g → (f.chunkPorts x c.h).contains c.port = true →
    ((f.sendAgain g c).group g).retryCnt = satAdd 16 x.retryCnt 1 ∧
    ((f.sendAgain g c).group g).sent = x.sent.map (fun k => if sameChunk k.h c.h then
      { k with port := c.port, tries := k.tries + 1, sentAt := f.now, due := false } else k)) ∧
  (∀ (f : Fabric) (kind chip : Nat) (job : BitVec 32), kind ≠ 1 → kind ≠ 3 →
    f.takeNotice kind chip job = f.raiseCentral srcRs 0x0907 [] (syn3 kind chip job.toNat)) ∧
  (∀ (s : State) (u : LinkUnit) (kind chip : Nat) (job : BitVec 32) (f : Fabric), s.fab.inReset = false → s.fab.ingress u = (some wireCluster, f) →
    kind = 1 ∨ kind = 3 →
    ∃ t, exec (.peerNoticeReceived u kind chip job) s = .next t ∧ (∀ e ∈ t.fab.remotes, e.2.peer ≠ chip) ∧ t.fab.now = s.fab.now ∧
      t.fab.sqs = s.fab.sqs ∧ t.fab.splice = s.fab.splice ∧ t.fab.mem = s.fab.mem)

/-! ### The key port, imports, removal (R305 to R307, R317 to R323, R330, R332 to R338, R341) -/

/-- R305 to R308, R318, R319, R341: what an answer of the security block does is `keyAnswer`. An unwrap installs the oldest waiting key
where its slice is still CREATED to RESETTING, a memory key under a new number; a failed one, or 20 µs without an answer, fails its
check 7. A confirmed zeroing of a slice that has drained is kept and its escrows are asked to be destroyed; the confirmed destruction
takes its keys and turns a slice in removal to WHIPPING; that of one slot empties it and replies. An answer that nothing awaits, and a
time that nothing waits for, changes nothing. After 20 µs without a confirmation the escrow is recorded, FATAL at the third time, and it
is asked again 2 ms later, at most three times. Control keys come and go with their sessions, and with the sessions of debug they own. -/
def Obligations.KeyPortAnswers : Prop :=
  (∀ (s : State) (op : KeyPortOp) (k : Nat), s.fab.inReset = false →
    exec (.keyPortResponse op) s = .next (s.ends ((openRun s.fab).keyAnswer op)) ∧
    exec .keyUnwrapTimeout s = .next (s.ends (openRun s.fab).unwrapLate) ∧
    exec (.escrowConfirmTimeout k) s = .next (s.ends ((openRun s.fab).escrowLate k)) ∧
    exec (.escrowRetryDue k) s = .next (s.ends ((openRun s.fab).escrowRetry k))) ∧
  (∀ (f : Fabric) (i : Install) (l : List Install), f.keys.installing = i :: l →
    f.keyAnswer (.unwrap true) = (f.onKeys (fun x => { x with installing := l })).install i ∧
    f.keyAnswer (.unwrap false) = (f.onKeys (fun x => { x with installing := l })).reply i.req (repCheck 7) ∧
    f.unwrapLate = ((f.advance (i.askedAt + 20000)).onKeys (fun x => { x with installing := l })).reply i.req (repCheck 7)) ∧
  (∀ (f : Fabric) (ok : Bool), f.keys.installing = [] → f.keyAnswer (.unwrap ok) = f ∧ f.unwrapLate = f) ∧
  (∀ (f : Fabric) (i : Install), i.kind ≤ 2 → f.sliceUp i.slice = false → f.install i = f) ∧
  (∀ (f : Fabric) (i : Install) (k : Nat) (m : MemSlot), i.kind ≤ 1 → f.sliceUp i.slice = true → k = (f.slice i.slice).keyBase + i.index →
    m = { state := 1, kind := i.kind, slice := i.slice, selector := i.index, keyId := i.keyId, gen := f.keys.keyGen + 1 } →
    f.install i = (f.onKeys (fun x => { x with keyGen := x.keyGen + 1, mem := x.mem.put k m })).reply i.req (repOk [(0x20, 2, k)])) ∧
  (∀ (f : Fabric) (i : Install) (k : Nat) (m : LinkKey), i.kind = 2 → f.sliceUp i.slice = true → f.keys.links.lowestFree 0 1024 = some k →
    m = { state := 1, slice := i.slice, loc := i.index, tag := i.tag, keyId := i.keyId } →
    f.install i = ((f.onKeys (fun x => { x with keyGen := x.keyGen + 1, links := x.links.put k m })).clearCounters 2 k).reply i.req
      (repOk [(0x20, 2, k)])) ∧
  (∀ (f : Fabric) (k : Nat), (leaving (f.slice k).state = false ∨ (f.slice k).keysZeroed = true ∨ f.drained k = false →
      f.keyAnswer (.zeroed k) = f) ∧ ((f.slice k).escrowAsked = false → f.keyAnswer (.escrowDestroyed k) = f)) ∧
  (∀ (s : State) (k : Nat), s.fab.inReset = false → (s.fab.slice k).state = .removing → (s.fab.slice k).keysZeroed = false → s.fab.drained k = true →
    ∃ t, exec (.keyPortResponse (.zeroed k)) s = .next t ∧ (t.fab.slice k).keysZeroed = true ∧ (t.fab.slice k).phase = 2 ∧
      (t.fab.slice k).escrowAsked = true ∧ (t.fab.slice k).escrowAt = s.fab.now ∧ driven s t = [.keyPort keyEscrowSlice k 0] ∧
      (∀ e ∈ t.fab.keys.mem, e.2.slice = k → e.2.kind ≤ 1 → e.2.gen = noKey + 1) ∧ t.fab.mem = s.fab.mem ∧ t.fab.sqs = s.fab.sqs) ∧
  (∀ (s : State) (k e : Nat), s.fab.inReset = false → (s.fab.slice k).state = .removing → (s.fab.slice k).escrowAsked = true →
    (s.fab.slice k).engineSet.contains e = true → (s.fab.engine e).state = .inService →
    ∃ t, exec (.keyPortResponse (.escrowDestroyed k)) s = .next t ∧ (t.fab.slice k).state = .whipping ∧ (t.fab.slice k).phase = 3 ∧
      (t.fab.slice k).escrowDone = true ∧ (t.fab.slice k).destroy = none ∧ e ∈ (t.fab.slice k).scrubs ∧
      (∀ m ∈ t.fab.keys.mem, m.2.slice ≠ k ∨ 2 ≤ m.2.kind) ∧ (∀ m ∈ t.fab.keys.links, m.2.slice ≠ k) ∧ t.fab.mem = s.fab.mem) ∧
  (∀ (f : Fabric) (kind k : Nat), f.keyAnswer (.slotEscrowDestroyed kind k) =
    (match f.keys.revokes.find? (fun r => r.zeroed && r.kind == kind && r.index == k && !f.revokeAbsorbed r) with
    | some r => ((f.emptySlot kind k).onKeys (fun x => { x with revokes := x.revokes.filter (fun y => y.kind != kind || y.index != k) })).replyOpt
        r.req (repOk [(0x20, 1, 0)])
    | none => f)) ∧
  (∀ (f g : Fabric) (k n : Nat), (f.slice k).escrowAsked = true → n = (f.slice k).escrowTries + 1 → g = f.advance ((f.slice k).escrowAt + 20000) →
    f.escrowLate k = (g.onSlice k (fun y => { y with escrowAsked := false, escrowAt := g.now, escrowTries := y.escrowTries + 1 })).raiseCentral
      srcKey 0x0903 [] (BitVec.ofNat 192 n) (if 3 ≤ n then some 3 else none)) ∧
  (∀ (f : Fabric) (k : Nat), (f.slice k).escrowAsked = false → f.keys.revokes.find? (fun r => r.slice == k && r.asked) = none → f.escrowLate k = f) ∧
  (∀ (f g : Fabric) (k : Nat) (r : Revoke), (f.slice k).escrowAsked = false → f.keys.revokes.find? (fun r => r.slice == k && r.asked) = some r →
    g = f.advance (r.askedAt + 20000) →
    f.escrowLate k = (g.onKeys (fun x => { x with revokes := x.revokes.map (fun y =>
      if y.kind == r.kind && y.index == r.index then { y with asked := false, askedAt := g.now, tries := y.tries + 1 } else y) })).raiseCentral
        srcKey 0x0903 [] (BitVec.ofNat 192 (r.tries + 1)) (if 3 ≤ r.tries + 1 then some 3 else none)) ∧
  (∀ (s : State) (k : Nat) (x : Slice) (g : Fabric), s.fab.inReset = false → x = s.fab.slice k → x.escrowAsked = false → x.keysZeroed = true → x.escrowDone = false →
    1 ≤ x.escrowTries → x.escrowTries < 3 → g = s.fab.advance (x.escrowAt + 2000000) →
    exec (.escrowRetryDue k) s = .next (s.after (g.onSlice k (fun y => { y with escrowAsked := true, escrowAt := g.now })) [.keyPort keyEscrowSlice k 0])) ∧
  (∀ (s : State) (k : Nat) (x : Slice) (r : Revoke) (g : Fabric), s.fab.inReset = false → x = s.fab.slice k →
    x.escrowAsked = true ∨ x.keysZeroed = false ∨ x.escrowDone = true ∨ x.escrowTries = 0 ∨ 3 ≤ x.escrowTries →
    (s.fab.keys.revokes.find? (fun r => r.slice == k && r.zeroed && !r.asked && decide (r.tries < 3)) = none →
      exec (.escrowRetryDue k) s = .next (s.after s.fab)) ∧
    (s.fab.keys.revokes.find? (fun r => r.slice == k && r.zeroed && !r.asked && decide (r.tries < 3)) = some r → g = s.fab.advance (r.askedAt + 2000000) →
      exec (.escrowRetryDue k) s = .next (s.after (g.onKeys (fun x => { x with revokes := x.revokes.map (fun y =>
        if y.kind == r.kind && y.index == r.index then { y with asked := true, askedAt := g.now } else y) }))
          [.keyPort keyEscrowSlot (slotArg r.kind r.index) 0]))) ∧
  (∀ (s : State) (id : BitVec 32) (key : BitVec 256), s.fab.inReset = false → s.fab.session? id = none →
    exec (.controlKeyLoad id key) s = .next (s.after (if 2 ≤ s.fab.ctl.sessions.length then s.fab
      else s.fab.onCtl (fun c => { c with sessions :=
        c.sessions ++ [{ id := id, key := key, place := if c.sessions.any (·.place == 0) then 1 else 0 }] })))) ∧
  (∀ (s : State) (id : BitVec 32) (key : BitVec 256) (x : Session), s.fab.inReset = false → s.fab.session? id = some x →
    exec (.controlKeyLoad id key) s = .next (s.after (s.fab.onSession id (fun y =>
      if x.keyLost then { y with key := key, keyLost := false } else { y with key := key, lastSeq := 0, rseq := 1, held := [] })))) ∧
  (∀ (s : State) (id : BitVec 32) (g : Fabric), s.fab.inReset = false →
    g = (s.fab.onCtl (fun c => { c with sessions := c.sessions.filter (fun x => x.id != id) })).onKeys (fun x =>
      { x with dbg := x.dbg.filter (fun d => d.2.owner != id) }) →
    exec (.controlKeyZero id) s = .next (s.after (if g.tapOpen then g else { g with tap := { ir := 0x01 } })) ∧ g.session? id = none) ∧
  (∀ (s : State) (i : Nat), s.fab.inReset = false →
    exec (.measurementRequest i) s = .next (s.after s.fab [.measurement i (s.fab.measure i)]))

/-- R320 to R322, R330, R336, R337: the end of an import is `endImport`: an unmap of what it turned out to hold stops it with ABORTED;
otherwise its outcome by R321 (step 1 of a source that cannot be bound or read, step 2 of a header that fails a check, else step 3, 4 or 5, or
0) is kept until its units are granted, and then it leaves the queue with CHECK_FAILED and the step, or is counted and extends its
slice's digest. A second end, and one with no import, changes nothing. A scrubbed engine leaves the list that a removal waits for; an
engine that was not asked is a port error; the zero writes end with every extent zero and the slice FREE with nothing of it left, and mean
nothing to a slice that does not zero. The tenant environment is published once a second, but not while a removal runs, nor in the
second in which it ended; its sums begin again either way. -/
def Obligations.ImportsScrubsAndPublication : Prop :=
  (∀ (s : State) (hl : Bool) (lost : Option Nat) (hd segs : List Byte) (e : Nat), s.fab.inReset = false →
    exec (.importDone hl lost hd segs) s = .next (s.ends ((openRun s.fab).endImport (if hl then some 0 else lost.map (· + 1)) (hd ++ segs))) ∧
    exec (.scrubDone e) s = .next (s.ends ((openRun s.fab).scrubEnd e)) ∧
    exec (.zeroingDone e) s = .next (s.ends ((openRun s.fab).zeroingEnd e)) ∧
    (s.fab.keys.imports = [] ∨ (s.fab.keys.imports.head?.bind (·.ended)).isSome = true →
      exec (.importDone hl lost hd segs) s = .next (s.after s.fab)) ∧
    ((s.fab.engine e).scrubbing = false → exec (.scrubDone e) s = .next (s.ends ((openRun s.fab).strayBeat e))) ∧
    ((s.fab.slice e).state ≠ .whipping ∨ (s.fab.slice e).zeroing = false → exec (.zeroingDone e) s = .next (s.after s.fab))) ∧
  (∀ (f z : Fabric) (i : Import) (l : List Import) (lost : Option Nat) (host hd : List Byte) (n seg : Nat) (h : BitVec 2048), f.keys.imports = i :: l →
    i.ended = none → h = ((f.bindImport i.slice i.srcTag i.srcVa 256 false).map (fun e => ofBytes 2048 (f.sourceBytes i.slice e host))).getD 0 →
    (i.stale (pkgSize h) (pkgLen h) = true → f.endImport lost host = f.stopImports (·.begun)) ∧
    (i.stale (pkgSize h) (pkgLen h) = false → f.importOutcome i lost host = (n, seg, hd, z) →
      f.endImport lost host = (z.onKeys (fun k => { k with imports := match k.imports with
        | j :: t => { j with ended := some (n, if n = 5 then seg else 0, hd.take 0x60) } :: t
        | [] => [] })).closeImport)) ∧
  (∀ (f : Fabric) (i : Import) (l : List Import) (n seg : Nat) (hd : List Byte) (g : Fabric), f.keys.imports = i :: l → i.ended = some (n, seg, hd) →
    g = (f.onKeys (fun k => { k with imports := l })).startImports →
    (i.left ≠ 0 → f.closeImport = f) ∧
    (i.left = 0 → n ≠ 0 → f.closeImport = g.reply i.req { status := stCheck, detail := BitVec.ofNat 16 n, result := result [(0x20, 4, seg)] }) ∧
    (i.left = 0 → n = 0 → f.closeImport = (g.onSlice i.slice (fun x =>
      { x with packages := satAdd 16 x.packages 1, packageDigest := digestBits (sha384 (bytesOf x.packageDigest ++ hd)) })).reply i.req (repOk))) ∧
  (∀ (f : Fabric) (i : Import) (lost : Option Nat) (host : List Byte), f.bindImport i.slice i.srcTag i.srcVa 256 false = none →
    f.importOutcome i lost host = (1, 0, [], f)) ∧
  (∀ (f : Fabric) (i : Import) (lost : Option Nat) (host hd : List Byte) (e : List Extent), f.bindImport i.slice i.srcTag i.srcVa 256 false = some e →
    hd = f.sourceBytes i.slice e host →
    (lost = some 0 → f.importOutcome i lost host = (1, 0, hd, f)) ∧
    (lost ≠ some 0 → pkgOk (ofBytes 2048 hd) (f.keys.mem.getD ((f.slice i.slice).keyBase + i.selector) {}).keyId = false ∨
        headerTagOk (f.keys.mem.getD ((f.slice i.slice).keyBase + i.selector) {}).gen hd = false →
      f.importOutcome i lost host = (2, 0, hd, f.offerImport i.slice false e []))) ∧
  (∀ (s : State) (e : Nat), s.fab.inReset = false → (s.fab.engine e).scrubbing = true → (∀ x ∈ s.fab.slices, x.2.escrowDone = false) →
    ∃ t, exec (.scrubDone e) s = .next t ∧ (t.fab.engine e).scrubbing = false ∧
      (∀ k, (t.fab.slice k).scrubs = (s.fab.slice k).scrubs.filter (· != e) ∧ (t.fab.slice k).state = (s.fab.slice k).state) ∧ t.fab.mem = s.fab.mem) ∧
  (∀ (s : State) (k : Nat), s.fab.inReset = false → (s.fab.slice k).state = .whipping → (s.fab.slice k).zeroing = true →
    ∃ t, exec (.zeroingDone k) s = .next t ∧ (t.fab.slice k).state = .free ∧ (t.fab.slice k).phase = 5 ∧
      (∀ q ∈ t.fab.sqs, q.2.slice ≠ k) ∧ (∀ a ∈ t.fab.tags, a.2.slice ≠ k) ∧ (∀ w ∈ t.fab.windows, w.2.slice ≠ k) ∧
      t.fab.mem = memStore s.fab.mem ((recStacks (s.fab.slice k).record).map (fun n =>
        .zero (devKey n (gib (recBase (s.fab.slice k).record n))) (gib (recSize (s.fab.slice k).record n))))) ∧
  (∀ (s : State) (n : Nat) (g : Fabric) (a : Env) (m : Sums), s.fab.inReset = false → g = s.fab.advance s.fab.publishAt → n = g.now / 1000000000 →
    a = { g.env.atSecond n with published := n } → m = a.lastSums →
    (s.fab.slicesIn leaving ≠ [] ∨ (a.frozen = true ∧ n * 1000000000 ≤ a.freeSeen) →
      exec .tenantEnvPublish s = .next (s.after (g.onEnv (fun _ => a)))) ∧
    (s.fab.slicesIn leaving = [] → a.frozen = false ∨ a.freeSeen < n * 1000000000 →
      exec .tenantEnvPublish s = .next (s.after (g.onEnv (fun _ => { a with
        updateSeq := (a.updateSeq + 1) % 65536, frozen := false, invalid := m.tempN == 0
        powerW := if m.powerN = 0 then a.powerW else (roundDiv m.powerSum (10 * m.powerN)).toNat * 10
        tempC := if m.tempN = 0 then a.tempC else roundDiv m.tempSum (8 * m.tempN) }))))) ∧
  (∀ (e : Env) (n : Nat), (e.second = n → e.atSecond n = e) ∧ (e.second + 1 = n → (e.atSecond n).lastSums = e.sums ∧ (e.atSecond n).sums = {}) ∧
    (e.second ≠ n → (e.atSecond n).second = n) ∧ (e.second ≠ n → e.second + 1 ≠ n → (e.atSecond n).lastSums = {} ∧ (e.atSecond n).sums = {})) ∧
  (∀ f : Fabric, 0 < f.frame.periodNs → f.frame.boundaryAt ≤ (f.env.published + 1) * 1000000000 →
    (f.env.published + 1) * 1000000000 ≤ f.publishAt ∧ f.publishAt < (f.env.published + 1) * 1000000000 + f.frame.periodNs ∧
      ∃ k, f.publishAt = f.frame.boundaryAt + k * f.frame.periodNs)

/-! ### Faults, the ledger, sensors, recovery (R21, R30 to R34, R344 to R360, R365 to R368, R371, R372, R384 to R402, R450, R452, R453, R462 to R464) -/

/-- R21, R344 to R346, R348 to R350, R355 to R357, R359, R360, R384: a raised pair hands its head record to the FC where it has room; a
broken pair is recorded and polled, and three misses make the site silent, and an engine with it; a pair in another state does nothing.
The next record in order of time is classified 200 ns after its arrival, or at once where a later one has been: the counting rules may
raise its class, and it is kept, delivered, shown at the pin, answered and reacted to. The timers of reactions, the pin's 10 µs and the
second of an injection end as their rules say, and nothing happens where none runs. A request lost between clock domains is
recorded; a register read then reads all ones, and a request to the key port fails or is asked again. -/
def Obligations.FaultsAreCollectedAndClassified : Prop :=
  (∀ (s : State) (n : Nat) (b : Bool) (z : Crossing), s.fab.inReset = false →
    exec (.lanyardRaise n) s = .next (s.ends ((openRun s.fab).pairRaised n)) ∧
    exec (.lanyardBroken n) s = .next (s.ends ((openRun s.fab).pairBroken n)) ∧
    exec (.lanyardPoll n b) s = .next (s.ends ((openRun s.fab).pairPolled n b)) ∧
    exec .classifyRecord s = .next (s.ends (openRun s.fab).classify) ∧
    exec (.containedTimerExpiry n) s = .next (s.ends ((openRun s.fab).containedEnd n)) ∧
    exec .fatalTimerExpiry s = .next (s.ends (openRun s.fab).fatalEnd) ∧
    exec (.xdomainTimeout ⟨n, z⟩) s = .next (s.ends ((openRun s.fab).crossingLate n z)) ∧
    ((s.fab.site n).lanyard ≠ 1 ∨ (s.fab.site n).fifo = [] ∨ 256 ≤ s.fab.fc.queue.length → exec (.lanyardRaise n) s = .next (s.after s.fab)) ∧
    ((s.fab.site n).lanyard ≠ 1 → exec (.lanyardBroken n) s = .next (s.after s.fab)) ∧
    ((s.fab.site n).lanyard ≠ 2 → exec (.lanyardPoll n b) s = .next (s.after s.fab)) ∧
    (s.fab.fc.queue = [] → exec .classifyRecord s = .next (s.after s.fab)) ∧
    (s.fab.fc.timers.find n = none → exec (.containedTimerExpiry n) s = .next (s.after s.fab)) ∧
    (s.fab.fc.fatalTimer = none → exec .fatalTimerExpiry s = .next (s.after s.fab)) ∧
    (s.fab.fc.errOut = false → exec .errOutMinLowEnd s = .next (s.after s.fab)) ∧
    (s.fab.fc.inject = none → exec .injectUnconsumed s = .next (s.after s.fab)) ∧
    (s.fab.fc.consumed = [] → exec .injectNoRecord s = .next (s.after s.fab))) ∧
  (∀ (s : State) (n : Nat) (r : FRec) (l : List FRec) (r1 : FRec), s.fab.inReset = false → (s.fab.site n).lanyard = 1 → (s.fab.site n).fifo = r :: l →
    s.fab.fc.queue.length < 256 →
    r1 = (if (s.fab.site n).lost = 0 then r else { r with flags := r.flags ||| 4, count := min 0xFFFF (s.fab.site n).lost }) →
    exec (.lanyardRaise n) s = .next (s.after ((s.fab.onSite n (fun t => { t with fifo := l, lost := 0 })).onFc (fun c =>
      { c with queue := c.queue ++ [{ r1 with arrived := s.fab.now }] })))) ∧
  (∀ (s : State) (n : Nat), s.fab.inReset = false → (s.fab.site n).lanyard = 1 →
    exec (.lanyardBroken n) s = .next (s.after ((s.fab.onSite n (fun t => { t with lanyard := 2, misses := 0, polledAt := s.fab.now, brokenCnt := satAdd 16 t.brokenCnt 1 })).raise
      { source := srcFc, unit := unitId 8 0 n, cause := 0x0201 }))) ∧
  (∀ (s : State) (n : Nat) (g : Fabric), s.fab.inReset = false → (s.fab.site n).lanyard = 2 →
    g = s.fab.advance ((s.fab.site n).polledAt + 10000) →
    exec (.lanyardPoll n true) s = .next (s.after ((g.onSite n (fun t => { t with misses := 0, polledAt := g.now })).takeAll n 8)) ∧
    ((s.fab.site n).misses < 2 →
      exec (.lanyardPoll n false) s = .next (s.after (g.onSite n (fun t => { t with misses := t.misses + 1, polledAt := g.now })))) ∧
    (2 ≤ (s.fab.site n).misses → 256 ≤ n →
      exec (.lanyardPoll n false) s = .next (s.after ((g.onSite n (fun t => { t with lanyard := 3, misses := 3, polledAt := g.now })).raise
        { source := srcFc, unit := unitId 8 0 n, cause := 0x0202, owners := (g.sourceOwners n).1, fabric := (g.sourceOwners n).2 })))) ∧
  (∀ (f g : Fabric) (n : Nat), (f.site n).lanyard = 2 → 2 ≤ (f.site n).misses → n < 256 → g = f.advance ((f.site n).polledAt + 10000) →
    f.pairPolled n false = ((((g.onSite n (fun t => { t with lanyard := 3, misses := 3, polledAt := g.now })).raise
      { source := srcFc, unit := unitId 8 0 n, cause := 0x0202, owners := (g.sourceOwners n).1, fabric := (g.sourceOwners n).2 }).watchHang n).startL2
        n false).settle) ∧
  (∀ (c : Fc) (b : BitVec 512), c.oper.length < 64 → (c.operPut b).oper = c.oper ++ [b] ∧ (c.operPut b).operLost = c.operLost) ∧
  (∀ (c : Fc) (x b : BitVec 512) (l : List (BitVec 512)), c.oper = x :: l → l.length = 63 →
    (c.operPut b).oper = l ++ [b] ∧ (c.operPut b).operLost = satAdd 16 c.operLost 1) ∧
  (∀ (f : Fabric) (n k : Nat), (f.site n).fifo.length ≤ k → f.fc.queue.length + (f.site n).fifo.length ≤ 256 →
    ((f.takeAll n k).site n).fifo = [] ∧ (f.takeAll n k).fc.queue.length = f.fc.queue.length + (f.site n).fifo.length) ∧
  (∀ (s : State) (r r1 : FRec) (l : List FRec) (f e g : Fabric) (a : Nat × Fabric), s.fab.inReset = false → nextRecord s.fab.fc.queue = some (r, l) →
    e = (openRun s.fab).onFc (fun c => { c with queue := l }) →
    f = (if r.key < s.fab.fc.lastKey then e else (e.advance (r.arrived + 200)).onFc (fun c => { c with lastKey := r.key })) → a = f.applyRules r r.ownedClass →
    r1 = { r with cls := a.1, seqNo := a.2.fc.recordSeq, flags := if r.ownedClass < a.1 then r.flags ||| 0x10 else r.flags } →
    g = ((((a.2.onFc (fun c => { c with recordSeq := c.recordSeq + 1 }.remember r1)).deliver r1).drivePin r1).answerInject r1).react r1 →
    exec .classifyRecord s = .next (s.ends g)) ∧
  (∀ (f : Fabric) (r : FRec) (c : Nat), (∀ u ∈ f.fc.rules, u.hits r = false) → f.applyRules r c = (c, f)) ∧
  (∀ (l : List FRec) (r : FRec) (rest : List FRec), nextRecord l = some (r, rest) → r ∈ l ∧ rest = l.erase r ∧ ∀ x ∈ l, r.key ≤ x.key) ∧
  (∀ r : FRec, (2 ≤ r.baseClass → r.fabric = true → 3 ≤ r.ownedClass) ∧ (r.fabric = false → r.ownedClass = r.baseClass) ∧ r.baseClass ≤ r.ownedClass) ∧
  (∀ (f : Fabric) (r : FRec), f.rs.boot = .running → f.rs.l4Stage = 0 → f.rs.l5Step = 0 →
    (f.reactFatal r).rs.l4Stage = 2 ∧ (f.reactFatal r).rs.frozen = true ∧ (f.reactFatal r).rs.l4Count = f.rs.l4Count + 1 ∧
      (f.reactFatal r).rs.dump.taking = some 0 ∧ (f.reactFatal r).fc.fatalTimer = some (f.now + f.fc.reactFatalMs * 1000000) ∧
      (f.reactFatal r).frame.switch = none ∧ (f.reactFatal r).writes = f.writes) ∧
  (∀ (s : State) (k t0 : Nat), s.fab.inReset = false → s.fab.fc.timers.find k = some t0 →
    ((s.fab.slice k).state = .resetting → exec (.containedTimerExpiry k) s = .next (s.after
      (((s.fab.advance t0).onFc (fun c => { c with timers := c.timers.del k })).escalate srcFc 3))) ∧
    ((s.fab.slice k).state ≠ .resetting → exec (.containedTimerExpiry k) s = .next (s.after
      ((s.fab.advance t0).onFc (fun c => { c with timers := c.timers.del k }))))) ∧
  (∀ (s : State) (t0 : Nat), s.fab.inReset = false → s.fab.fc.fatalTimer = some t0 →
    (s.fab.rs.l4Stage ≠ 0 ∨ s.fab.rs.boot ≠ .running → exec .fatalTimerExpiry s = .next (s.after
      (((s.fab.advance t0).onFc (fun c => { c with fatalTimer := none })).escalate srcFc 4))) ∧
    (s.fab.rs.l4Stage = 0 → s.fab.rs.boot = .running → exec .fatalTimerExpiry s = .next (s.after
      ((s.fab.advance t0).onFc (fun c => { c with fatalTimer := none }))))) ∧
  (∀ (f g : Fabric) (n k : Nat) (ok : Bool), g = f.raise { source := n, unit := sourceUnit n, cause := 0x0105 } →
    (∀ fn off size, f.crossingLate n (.register fn off size) = g.emit (.readData fn off size (if size = 8 then BitVec.allOnes 64 else 0xFFFFFFFF))) ∧
    f.crossingLate n .other = g ∧ f.crossingLate n (.keyPort (.unwrap ok)) = g.unwrapDone false ∧
    (∀ kind, f.crossingLate n (.keyPort (.restore kind k ok)) = g.restored kind k false) ∧
    f.crossingLate n (.keyPort (.projKey ok)) = g.projDrawn false ∧ f.crossingLate n (.keyPort (.auditSeed ok)) = g.seedDrawn false ∧
    f.crossingLate n (.keyPort (.fabricSlots ok)) = g.slotsDrawn false ∧
    (leaving (g.slice k).state = true → (g.slice k).keysZeroed = false → f.crossingLate n (.keyPort (.zeroed k)) = g.askKey keyZero k) ∧
    f.crossingLate n (.keyPort (.escrowDestroyed k)) = g.escrowLate k ∧
    (∀ kind, f.crossingLate n (.keyPort (.slotEscrowDestroyed kind k)) = g.escrowLate (g.slotSlice kind k))) ∧
  (∀ s : State, s.fab.inReset = false → s.fab.fc.errOut = true →
    exec .errOutMinLowEnd s = .next (s.after ((s.fab.advance s.fab.fc.lowUntil).onFc (fun c =>
      { c with errOut := !(s.fab.fc.clearWanted && !s.fab.fc.terminalSeen), clearWanted := false })))) ∧
  (∀ (s : State) (i : Inject) (g : Fabric), s.fab.inReset = false → s.fab.fc.inject = some i →
    g = (((openRun s.fab).advance (i.armedAt + 1000000000)).onFc (fun c => { c with inject := none })).reply i.req (rep stTimeout) →
    exec .injectUnconsumed s = .next (s.ends g)) ∧
  (∀ (s : State) (i : Inject) (l : List Inject) (t0 : Nat) (g : Fabric), s.fab.inReset = false → s.fab.fc.consumed = i :: l → i.consumedAt = some t0 →
    g = (((openRun s.fab).advance (t0 + 1000000000)).onFc (fun c => { c with consumed := l })).reply i.req
      { status := stTimeout, detail := 1, result := result [(0x20, 4, 0xFFFFFFFF), (0x28, 8, t0)] } →
    exec .injectNoRecord s = .next (s.ends g))

/-- R327, R330, R365 to R368, R450, R463, R464: while the cores run, a flush, 60 s after the last, puts a stress checkpoint into the buffer and asks for the
buffer to be written; the third failure in a row is recorded; written entries reach the log in order while its sector has room. The
answer of a read reaches the oldest one asked; that of start-up sets the ledger's figures, and is TERMINAL for a module with
another identity. A token comes back every 60 s, up to 16. Stress grows each second and is noted at 80 and 95 percent of the rated life. Every sensor that is
not disabled is asked a millisecond after the last round; a good answer to a question is kept, a hot one also recorded, one that an armed injection replaces taken as 7FFFH, one out of range and a missing one kept as missing
and recorded, and an answer not asked for is dropped; a rail out of band is FATAL. Without an open session that has the test port only
IDCODE and BYPASS act there. -/
def Obligations.LedgerSensorsAndTestPort : Prop :=
  (∀ (s : State) (b : Bool) (f g : Fabric), s.fab.inReset = false → (s.fab.coresUp = false → exec (.ledgerFlush b) s = .next (s.after s.fab)) ∧
    (f = (if s.fab.ledger.flushFails = 0 then s.fab.advance (s.fab.ledger.flushAt + 60000000000) else s.fab) → s.fab.coresUp = true →
    (g = (f.ledgerPut (.stress f.ledgerNow f.ledger.stress)).onLedger (fun l => { l with flushing := true, flushAt := f.now }) →
      exec (.ledgerFlush false) s = .next (s.after g [.ledger 1 (g.ledger.buffer.flatMap LedgerEntry.bytes)])) ∧
    (s.fab.ledger.flushFails + 1 < 3 →
      exec (.ledgerFlush true) s = .next (s.after (f.onLedger (fun l => { l with flushFails := l.flushFails + 1, flushAt := f.now })))) ∧
    (3 ≤ s.fab.ledger.flushFails + 1 →
      exec (.ledgerFlush true) s = .next (s.after ((f.onLedger (fun l =>
        { l with flushFails := 0, ioError := true, flushing := false, flushAt := f.now })).raiseCentral srcTm 0x0B03))))) ∧
  (∀ (s : State) (op : LedgerOp), s.fab.inReset = false →
    exec (.ledgerAccessDone op) s = .next (s.ends ((openRun s.fab).ledgerDone op)) ∧
    exec (.ledgerAccessDone .flush) s = .next (s.after (s.fab.onLedger (fun l => { l.write l.buffer with flushFails := 0, flushing := false })))) ∧
  (∀ (l : Ledger) (es : List LedgerEntry), l.used + es.length ≤ 64 → (l.write es).log = l.log ++ es ∧ (l.write es).buffer = [] ∧
    (l.write es).tokens = l.tokens ∧ (l.write es).used = l.used + es.length) ∧
  (∀ (f : Fabric) (b : BitVec 256), (f.ledger.readReqs = [] → f.ledgerDone (.read b) = f) ∧
    (∀ q l, f.ledger.readReqs = q :: l → f.ledgerDone (.read b) = (f.onLedger (fun y => { y with readReqs := l })).reply q { status := stOk, result := b })) ∧
  (∀ (f : Fabric) (time stress : Nat) (n80 n95 ok : Bool) (l : List (BitVec 32)),
    (f.rs.boot ≠ .ledger → f.ledgerDone (.startUp ok time stress n80 n95 l) = f) ∧
    (f.rs.boot = .ledger → f.ledgerDone (.startUp false time stress n80 n95 l) =
      f.raise { source := srcTm, unit := unitId 9 0 0, cause := 0x0B03, fabric := true, base := some 4 })) ∧
  (∀ (s : State) (time stress : Nat) (n80 n95 : Bool) (l : List (BitVec 32)), s.fab.rs.boot = .ledger →
    ∃ t, exec (.ledgerAccessDone (.startUp true time stress n80 n95 l)) s = .next t ∧ t.fab.rs.boot = .beat ∧ t.fab.ledger.valid = true ∧
      t.fab.ledger.stress = stress + 60 * 160 * 36 ∧ t.fab.ledger.offset = (time : Int) + 60000000000 - (s.fab.now : Int) ∧
      t.fab.ledger.life80 = n80 ∧ t.fab.ledger.life95 = n95 ∧ t.fab.ledger.retired = l ∧ t.fab.mem = s.fab.mem) ∧
  (∀ (f : Fabric), f.ledgerDone .summary = (if f.rs.summaryDue then
      (fun g : Fabric => if g.rs.l5Step = 3 then g.askTray else g) ((f.onRs (fun r =>
        { r with summaryDue := false, dump := { r.dump with summary := true } })).onLedger (fun l => { l with summaries := l.summaries + 1 }))
    else f)) ∧
  (∀ s : State, s.fab.inReset = false →
    exec .eraseTokenRefill s = .next (s.after ((s.fab.advance (s.fab.ledger.tokenAt + 60000000000)).onLedger (fun l =>
      { l with tokens := min 16 (l.tokens + 1), tokenAt := l.tokenAt + 60000000000 })))) ∧
  (∀ (s : State) (f g : Fabric) (n rated : Nat), s.fab.inReset = false → n = s.fab.ledger.stress + stressT s.fab.hottest * stressV s.fab.env.volt →
    rated = Config.ratedStressH s.fab.rs.fuses.grade * 3600 * 400 →
    f = (s.fab.advance (s.fab.ledger.stressAt + 1000000000)).onLedger (fun l => { l with stress := n, stressAt := l.stressAt + 1000000000 }) →
    g = (if rated * 80 ≤ n * 100 ∧ f.ledger.life80 = false then (f.onLedger (fun l => { l with life80 := true })).lifeNotice 80 else f) →
    exec .stressAccumulate s = .next (s.after (if rated * 95 ≤ n * 100 ∧ g.ledger.life95 = false then
      (g.onLedger (fun l => { l with life95 := true })).lifeNotice 95 else g))) ∧
  (∀ (s : State) (l : List Nat) (g : Fabric), s.fab.inReset = false →
    l = (List.range Config.sensors ++ [railAddr, powerAddr]).filter (fun a => !s.fab.env.disabled.contains a) →
    g = s.fab.advance (s.fab.env.askedAt + 1000000) →
    exec .sensorReadingDue s = .next (s.after (g.onEnv (fun e => { e with asked := l, askedAt := g.now })) (l.map .sensor))) ∧
  (∀ (s : State) (a : Nat) (d : BitVec 16) (f g : Fabric), s.fab.inReset = false →
    (∀ i, s.fab.fc.inject = some i → i.target ≠ 5 ∨ unitIdx i.unit ≠ a) →
    f = s.fab.onEnv (fun e => { e with asked := e.asked.filter (· != a) }) →
    (s.fab.env.asked.contains a = false →
      exec (.sensorReply a d) s = .next (s.after s.fab) ∧ exec (.sensorNoReply a) s = .next (s.after s.fab)) ∧
    (s.fab.env.asked.contains a = true → a = railAddr → g = (if 500 ≤ d.toNat ∧ d.toNat ≤ 1000 then f.onEnv (fun e => { e with volt := some d.toNat })
        else (f.onEnv (fun e => { e with volt := none })).sensorRec a 0x0302 (BitVec.ofNat 192 d.toNat)) →
      exec (.sensorReply a d) s = .next (s.after g.roundDone)) ∧
    (s.fab.env.asked.contains a = true → a = powerAddr → g = (if d.toNat ≤ 4000 then
          (f.onEnv (fun e => { e with power := some d.toNat })).sample (fun m => { m with powerSum := m.powerSum + d.toNat, powerN := m.powerN + 1 })
        else (f.onEnv (fun e => { e with power := none })).sensorRec a 0x0302 (BitVec.ofNat 192 d.toNat)) →
      exec (.sensorReply a d) s = .next (s.after g.roundDone)) ∧
    (s.fab.env.asked.contains a = true → a ≠ railAddr → a ≠ powerAddr → g = (if -320 ≤ d.toInt ∧ d.toInt < 800 then
          f.onEnv (fun e => { e with temps := e.temps.put a (some d.toInt) })
        else if 800 ≤ d.toInt ∧ d.toInt ≤ 1200 then
          ((f.onEnv (fun e => { e with temps := e.temps.put a (some d.toInt) })).markExcursion a).sensorRec a 0x0305 (BitVec.ofNat 192 d.toNat)
        else ((f.onEnv (fun e => { e with temps := e.temps.put a none })).markExcursion a).sensorRec a 0x0301 (BitVec.ofNat 192 d.toNat)) →
      exec (.sensorReply a d) s = .next (s.after g.roundDone)) ∧
    (s.fab.env.asked.contains a = true → g = (s.fab.advance (s.fab.env.askedAt + 20000)).onEnv (fun e =>
        { e with asked := e.asked.filter (· != a), volt := if a = railAddr then none else e.volt, power := if a = powerAddr then none else e.power,
                 temps := if a = railAddr ∨ a = powerAddr then e.temps else e.temps.put a none }) →
      exec (.sensorNoReply a) s = .next (s.after (((g.markExcursion a).sensorRec a 0x0303 0).roundDone)))) ∧
  (∀ f : Fabric, (f.env.asked ≠ [] → f.roundDone = f) ∧ (∀ t u, f.env.asked = [] → f.env.temps.filterMap (·.2) = t :: u →
    f.roundDone = f.sample (fun m => { m with tempSum := m.tempSum + u.foldl max t, tempN := m.tempN + 1 }))) ∧
  (∀ (f : Fabric) (x : Sums → Sums), (f.sample x).env.second = f.now / 1000000000 ∧
    (f.sample x).env.sums = x (f.env.atSecond (f.now / 1000000000)).sums ∧
    (f.sample x).env.lastSums = (f.env.atSecond (f.now / 1000000000)).lastSums ∧ (f.sample x).env.temps = f.env.temps) ∧
  (∀ (s : State) (a : Nat) (d : BitVec 16) (i : Inject), s.fab.inReset = false → s.fab.fc.inject = some i → s.fab.env.asked.contains a = true →
    i.target = 5 → unitIdx i.unit = a →
    exec (.sensorReply a d) s = .next (s.ends (((openRun s.fab).onFc (fun c =>
      { c with inject := none, consumed := c.consumed ++ [{ i with consumedAt := some s.fab.now }] })).sensorIn a 0x7FFF))) ∧
  (∀ (s : State) (xa : Bool), s.fab.inReset = false → exec (.railOutOfBand xa) s = .next (s.after (s.fab.raise
    { source := srcTm, unit := unitId 7 0 (Config.sensors + b2n xa), cause := 0x0302, fabric := true, base := some 3 }))) ∧
  (∀ s : State, s.fab.inReset = false →
    exec (.tapInstruction 0x01) s = .next (s.after { s.fab with tap := { ir := 0x01 } } [.tdo s.fab.idcode]) ∧
    (∀ ir, ir ≠ 0x01 → s.fab.tapOpen = false ∨ (ir ≠ 0x10 ∧ ir ≠ 0x20) →
      exec (.tapInstruction ir) s = .next (s.after { s.fab with tap := { ir := 0xFF } })) ∧
    (s.fab.tapOpen = true → exec (.tapInstruction 0x10) s = .next (s.after { s.fab with tap := { ir := 0x10 } }) ∧
      exec (.tapInstruction 0x20) s = .next (s.after { s.fab with tap := { ir := 0x20 } })) ∧
    exec .trstNAssert s = .next (s.after { s.fab with tap := {} }))

/-- R30, R31, R34, R237, R372, R385, R452, R453, R462: a missed heartbeat, a disagreement of the cores and an error of their memory each
begin a restart, the first only before stage 4 of L4 and all only where the cores have run; a pending switch that is not fixed and pending
changes of the synchronisation fail with it. The image that is stored serves it, or stage 6 of L4, where its SHA-384 is the one
measured at start-up; 20 ms without a heartbeat escalate. Either reset input resets the fabric but for the ledger flash, a pulse under
100 ns does not, and a release starts it; a good reading of the fuses is latched and the draws asked for, a bad one counted and the
third TERMINAL; the image is stored under slot 4 and measured. Any of these where it is not awaited changes nothing. -/
def Obligations.RestartAndStartUp : Prop :=
  (∀ s : State, s.fab.inReset = false →
    exec .watchdogExpiry s = .next (s.ends (openRun s.fab).watchdogExpire) ∧ exec .lockstepDisagree s = .next (s.ends (openRun s.fab).lockstep) ∧
    exec .ccMemoryError s = .next (s.ends ((openRun s.fab).startRestart 2)) ∧
    (s.fab.coresRun = false → exec .lockstepDisagree s = .next (s.after s.fab) ∧ exec .ccMemoryError s = .next (s.after s.fab)) ∧
    (s.fab.rs.armed = false ∨ s.fab.rs.restart.isSome = true ∨ 4 ≤ s.fab.rs.l4Stage → exec .watchdogExpiry s = .next (s.after s.fab))) ∧
  (∀ (f g : Fabric) (trig : Nat), f.coresRun = true → g = f.dropSwitch.dropSyncSets →
    f.startRestart trig = (g.onRs (fun r => { r with
      restart := some g.now, restartLoaded := false, restartLate := false, armed := false, hbAny := false,
      restartCount := satAdd 16 r.restartCount 1 })).raise { source := srcRs, unit := centralUnit srcCc, cause := 0x0901, syndrome := BitVec.ofNat 192 trig }) ∧
  (∀ f : Fabric, (f.frame.switch = none → f.dropSwitch = f) ∧ (f.frame.sync.waiting = [] → f.dropSyncSets = f) ∧
    (f.frame.switchNext = true → f.boundaryFixed = true → f.dropSwitch = f) ∧
    (∀ w q, f.frame.switch = some w → f.frame.switchNext = false ∨ f.boundaryFixed = false → w.req = some q →
      f.dropSwitch = (f.onFrame (fun fr => { fr with switch := none })).bounce q)) ∧
  (∀ (s : State) (c : Instr) (trig : Nat) (r : Recovery) (f : Fabric), s.fab.coresRun = true → s.fab.frame.switch = none →
    s.fab.frame.sync.waiting = [] → s.fab.fc.inject = none →
    (c = .watchdogExpiry ∧ trig = 0 ∧ s.fab.rs.armed = true ∧ s.fab.rs.restart = none ∧ s.fab.rs.l4Stage < 4 ∧
      f = s.fab.advance (s.fab.rs.hbAt + 4000000)) ∨
    (c = .lockstepDisagree ∧ trig = 1 ∧ f = s.fab.raiseCentral srcCc 0x0107) ∨
    (c = .ccMemoryError ∧ trig = 2 ∧ f = s.fab) →
    r = { s.fab.rs with restart := some f.now, restartLoaded := false, restartLate := false, armed := false, hbAny := false,
                        restartCount := satAdd 16 s.fab.rs.restartCount 1 } →
    exec c s = .next (s.after (({ f with rs := r } : Fabric).raise
      { source := srcRs, unit := centralUnit srcCc, cause := 0x0901, syndrome := BitVec.ofNat 192 trig }))) ∧
  (∀ (s : State) (t0 : Nat), s.fab.inReset = false → (s.fab.rs.restart = none ∨ s.fab.rs.restartLate = true →
      exec .ccRestartTimeout s = .next (s.after s.fab)) ∧
    (s.fab.rs.restart = some t0 → s.fab.rs.restartLate = false →
      exec .ccRestartTimeout s = .next (s.after (((s.fab.advance (t0 + 20000000)).onRs (fun r => { r with restartLate := true })).escalate srcRs 3)))) ∧
  (∀ (s : State) (b : Bool), s.fab.inReset = false →
    (b = false ∨ digestBits (sha384 ((openRun s.fab).readKeyed 4 imageAt s.fab.rs.imageLen)) ≠ s.fab.rs.firmware ∨
        (s.fab.atStage 6 = false ∧ s.fab.rs.restart = none) →
      exec (.firmwareLoaded b) s = .next (s.after s.fab)) ∧
    (b = true → digestBits (sha384 ((openRun s.fab).readKeyed 4 imageAt s.fab.rs.imageLen)) = s.fab.rs.firmware →
      (s.fab.atStage 6 = false → s.fab.rs.restart.isSome = true →
        exec (.firmwareLoaded b) s = .next (s.after (s.fab.onRs (fun r => { r with restartLoaded := true })))) ∧
      (s.fab.atStage 6 = true → ∃ t l, exec (.firmwareLoaded b) s = .next t ∧ t.fab.rs.l4Stage = 7 ∧ t.fab.rs.restoring = s.fab.fabricSlots ∧
        driven s t = .selfRefresh false :: l ∧ t.fab.keys = s.fab.keys ∧ t.fab.mem = s.fab.mem))) ∧
  (∀ (s : State) (u : Fuses) (caps : BitVec 512), s.fab.rs.boot = .fuses → fusesOk u = true →
    ∃ t, exec (.fuseReadDone u true caps) s = .next t ∧ t.fab.rs.boot = .draws ∧ t.fab.rs.fuses = u ∧ t.fab.rs.fuseFails = 0 ∧
      t.fab.units.dmaPresent = u.dmaPresent ∧ t.fab.units.stackPresent = u.stackPresent ∧ t.fab.units.portPresent = u.portPresent ∧
      (∀ k, k < Config.engines → bitAt u.enginePresent k = false → (t.fab.engine k).state = .absent) ∧
      driven s t = [.keyPort keyFabric 0 0, .keyPort keyProj 0 0, .keyPort keySeed 0 0]) ∧
  (∀ (s : State) (u : Fuses) (crcOk : Bool) (caps : BitVec 512), s.fab.inReset = false →
    (s.fab.rs.boot ≠ .fuses → s.fab.atStage 5 = false → exec (.fuseReadDone u crcOk caps) s = .next (s.after s.fab)) ∧
    (s.fab.rs.boot ≠ .fuses → s.fab.atStage 5 = true → crcOk = true → fusesOk u = true → exec (.fuseReadDone u crcOk caps) s =
      .next (s.after (s.fab.latchFuses u caps) [.keyPort keyProj 0 0, .keyPort keySeed 0 0]))) ∧
  (∀ (s : State) (u : Fuses) (crcOk : Bool) (caps : BitVec 512) (f : Fabric), s.fab.inReset = false → s.fab.rs.boot = .fuses ∨ s.fab.atStage 5 = true →
    crcOk = false ∨ fusesOk u = false → f = s.fab.onRs (fun r => { r with fuseFails := r.fuseFails + 1 }) →
    exec (.fuseReadDone u crcOk caps) s = .next (s.after (if s.fab.rs.fuseFails + 1 = 3 then
      f.raise { source := srcCc, unit := unitId 10 0 0, cause := 0x0103, fabric := true, base := some 4 } else f))) ∧
  (∀ (s : State) (image : List Byte), s.fab.inReset = false →
    (s.fab.rs.boot ≠ .image → exec (.firmwareImageReceived image) s = .next (s.after s.fab)) ∧
    (s.fab.rs.boot = .image → exec (.firmwareImageReceived image) s = .next (s.ends (((openRun s.fab).writeKeyed 4 imageAt image).onRs (fun r =>
      { r with firmware := digestBits (sha384 image), imageLen := image.length, boot := .ledger }))))) ∧
  (∀ (s : State) (n : Nat), n < 100 → exec (.fabRstNAssert n) s = .next (s.after s.fab)) ∧
  (∀ (s : State) (n : Nat), 100 ≤ n → ∃ t, exec (.fabRstNAssert n) s = .next t ∧ t.fab.rs = { powerOk := s.fab.rs.powerOk } ∧ t.fab.slices = [] ∧
    t.fab.engines = [] ∧ t.fab.sqs = [] ∧ t.fab.keys = {} ∧ t.fab.fc = {} ∧ t.fab.ctl = {} ∧ t.fab.frame = {} ∧ t.fab.mem = [] ∧
    t.fab.ledger.log = s.fab.ledger.log ∧ t.fab.ledger.summaries = s.fab.ledger.summaries ∧ t.fab.ledger.buffer = [] ∧ driven s t = []) ∧
  (∀ s : State, exec (.fabPwrOkChange true) s = .next (s.after (s.fab.onRs (fun r => { r with powerOk := true }))) ∧
    ∃ t, exec (.fabPwrOkChange false) s = .next t ∧ t.fab.rs = { powerOk := false } ∧ t.fab.slices = [] ∧ t.fab.sqs = [] ∧ t.fab.keys = {} ∧
      t.fab.mem = [] ∧ t.fab.ledger.log = s.fab.ledger.log) ∧
  (∀ s : State, (s.fab.rs.boot = .held → s.fab.rs.powerOk = true →
      exec .fabRstNRelease s = .next (s.after (s.fab.onRs (fun r => { r with boot := .fuses })))) ∧
    (s.fab.rs.boot ≠ .held ∨ s.fab.rs.powerOk = false → exec .fabRstNRelease s = .next (s.after s.fab)))

/-- R384 to R387, R389, R391, R392, R396 to R402: an ended dump moves L4 to self-refresh, L5 to the summary, and answers the one that was
asked for; self-refresh resets the units and keeps fabric time, tables of translation, the ledger and device memory, the queues standing
where their shadows do, and 20 µs without it fail L4; reinstatement, which no restart holds up, waits for its boundary; a function-level
reset silences its function and stops its queues, and ends at once for a function with no slice; VF_QUIESCE ends with TIMEOUT after
2 ms; the drain and the summary of L5 end after 100 ms; the tray's request is asserted, acknowledged, released and asserted again, and
after three attempts not asked again. Each of these where it is not awaited changes nothing, but for the time of a drain. -/
def Obligations.ChipResetAndPowerCycleEvents : Prop :=
  (∀ (s : State) (a b : List Nat) (found : List (Nat × Nat)) (n : Nat), s.fab.inReset = false →
    exec (.fidDumpDone a b) s = .next (s.ends ((openRun s.fab).dumpDone a b)) ∧
    exec .selfRefreshEntered s = .next (s.ends (openRun s.fab).refreshEntered) ∧
    exec (.reinstatementDone found a) s = .next (s.ends ((openRun s.fab).reinstate found a)) ∧
    exec (.functionLevelReset n) s = .next (s.ends ((openRun s.fab).startFlr n)) ∧
    exec .l5DrainTimeout s = .next (s.ends (openRun s.fab).drainLate) ∧ exec .summaryWaitTimeout s = .next (s.ends (openRun s.fab).summaryLate) ∧
    (s.fab.rs.dump.taking = none → exec (.fidDumpDone a b) s = .next (s.after s.fab)) ∧
    (s.fab.atStage 3 = false → exec .selfRefreshEntered s = .next (s.after s.fab) ∧ exec .selfRefreshTimeout s = .next (s.after s.fab)) ∧
    (s.fab.atStage 9 = false ∨ s.fab.rs.restart.isSome = true → exec (.reinstatementDone found a) s = .next (s.after s.fab)) ∧
    ((s.fab.fn n).flr = true → exec (.functionLevelReset n) s = .next (s.after s.fab)) ∧
    ((s.fab.fn n).quiesceReq = none → exec (.vfQuiesceTimeout n) s = .next (s.after s.fab)) ∧
    (s.fab.rs.l5Drain = none → exec .l5DrainTimeout s = .next (s.after s.fab)) ∧
    (s.fab.rs.l5Step ≠ 3 → exec .summaryWaitTimeout s = .next (s.after s.fab)) ∧
    (s.fab.rs.pwrReq = false ∨ s.fab.rs.acked = true ∨ s.fab.rs.noAck = true → exec .pwrCycleReqRetry s = .next (s.after s.fab)) ∧
    (s.fab.rs.l5Step ≠ 6 ∨ s.fab.rs.pwrReq = true ∨ s.fab.rs.acked = true → exec .pwrCycleReqReassert s = .next (s.after s.fab))) ∧
  (∀ (f g : Fabric) (a b : List Nat) (n : Nat), f.rs.dump.taking = some n → g = f.finishDump a b →
    (n = 0 → f.atStage 2 = true → f.dumpDone a b = ((g.toStage 3).onRs (fun r => { r with reqAt := g.now })).emit (.selfRefresh true)) ∧
    (n = 0 → g.atStage 2 = false → f.dumpDone a b = g) ∧
    (n = 1 → f.dumpDone a b = (g.onRs (fun r => { r with l5Step := 3, reqAt := g.now })).writeSummary) ∧
    (1 < n → f.dumpDone a b = g.replyOpt f.rs.dump.req (repOk [(0x20, 4, g.rs.dump.num)]))) ∧
  (∀ (s : State) (a b : List Nat), s.fab.inReset = false → s.fab.rs.dump.taking = some 0 → s.fab.atStage 2 = true →
    ∃ t, exec (.fidDumpDone a b) s = .next t ∧ t.fab.rs.l4Stage = 3 ∧ t.fab.rs.reqAt = s.fab.now ∧ t.fab.rs.dump.valid = true ∧
      t.fab.rs.dump.taking = none ∧ t.fab.rs.dump.num = (s.fab.rs.dump.num + 1) % 2 ^ 32 ∧ t.fab.rs.summaryDue = true ∧
      driven s t = [.selfRefresh true] ∧ t.fab.sqs = s.fab.sqs ∧ t.fab.slices = s.fab.slices ∧ t.fab.mem = s.fab.mem) ∧
  (∀ (s : State) (a b : List Nat), s.fab.inReset = false → s.fab.rs.dump.taking = some 1 →
    ∃ t, exec (.fidDumpDone a b) s = .next t ∧ t.fab.rs.l5Step = 3 ∧ t.fab.rs.reqAt = s.fab.now ∧ t.fab.rs.dump.taking = none ∧
      t.fab.rs.summaryDue = true ∧ t.fab.sqs = s.fab.sqs ∧ t.fab.slices = s.fab.slices ∧ t.fab.mem = s.fab.mem) ∧
  (∀ s : State, s.fab.inReset = false → s.fab.atStage 3 = true →
    ∃ t, exec .selfRefreshEntered s = .next t ∧ t.fab.rs.l4Stage = 5 ∧ t.fab.now = s.fab.now ∧ t.fab.mem = s.fab.mem ∧ t.fab.ledger = s.fab.ledger ∧
      t.fab.tags = s.fab.tags ∧ t.fab.remotes = [] ∧ t.fab.rs.armed = false ∧ t.fab.splice.chip = s.fab.splice.chip ∧
      (∀ q, (t.fab.sq? q).map (fun x => (x.commit, x.issue, x.accepted)) = (s.fab.sq? q).map (fun x => (x.shCommit, x.shCommit, x.shAccepted))) ∧
      (∀ k, (s.fab.slice k).state = .active → (t.fab.slice k).state = .resetting) ∧
      (∀ e, (s.fab.engine e).state ≠ .absent → (s.fab.engine e).state ≠ .retired → (t.fab.engine e).running = none) ∧
      exec .selfRefreshTimeout s = .next (s.after (((s.fab.advance (s.fab.rs.reqAt + 20000)).onRs (fun r => { r with l4Fail := true })).escalate srcRs 4))) ∧
  (∀ (s : State) (found : List (Nat × Nat)) (lost : List Nat) (m p d : Nat), s.fab.inReset = false → s.fab.atStage 9 = true →
    s.fab.rs.restart = none → s.fab.rs.l4Sync = some (m, p, d) →
    ∃ t, exec (.reinstatementDone found lost) s = .next t ∧ t.fab.rs.l4Stage = 10 ∧ t.fab.now = s.fab.now ∧ t.fab.frame.sync.mode = m ∧
      t.fab.frame.sync.port = p ∧ t.fab.frame.sync.pinDelay = d ∧ t.fab.mem = s.fab.mem) ∧
  (∀ (s : State) (n : Nat), s.fab.inReset = false → (s.fab.fn n).flr = false → n = 0 ∨ (s.fab.fn n).slice.isSome = true →
    ∃ t, exec (.functionLevelReset n) s = .next t ∧ (t.fab.fn n).flr = true ∧ (t.fab.fn n).silent = true ∧ (t.fab.fn n).resetState = 3 ∧
      (t.fab.fn n).intake = [] ∧ (t.fab.fn n).quiesceReq = none ∧ t.fab.mem = s.fab.mem ∧ t.fab.now = s.fab.now ∧
      ∀ q x, s.fab.sq? q = some x → x.fn = n → (t.fab.sq? q).map (·.state) = some 3) ∧
  (∀ (s : State) (n : Nat), s.fab.inReset = false → (s.fab.fn n).flr = false → n ≠ 0 → (s.fab.fn n).slice = none →
    exec (.functionLevelReset n) s = .next (s.after s.fab [.flrDone n])) ∧
  (∀ (s : State) (n : Nat) (q : Req) (g : Fabric), s.fab.inReset = false → (s.fab.fn n).quiesceReq = some q →
    g = (((openRun s.fab).advance ((s.fab.fn n).quiesceAt + 2000000)).onFn n (fun y => { y with quiesceReq := none })).reply q
      { status := stTimeout, result := result [(0x20, 4, s.fab.stillIssued n)] } →
    exec (.vfQuiesceTimeout n) s = .next (s.ends g)) ∧
  (∀ (s : State) (t0 : Nat), s.fab.inReset = false → s.fab.rs.l5Drain = some t0 →
    (2 ≤ s.fab.rs.l5Step → exec .l5DrainTimeout s = .next (s.after (s.fab.advance (t0 + 100000000)))) ∧
    (s.fab.rs.l5Step < 2 →
      ∃ t, exec .l5DrainTimeout s = .next t ∧ t.fab.rs.l5Step = 2 ∧ t.fab.rs.l5Drain = none ∧ t.fab.rs.level = 5 ∧ t.fab.rs.frozen = true ∧
        t.fab.rs.dump.taking = some 1 ∧ t.fab.fc.fatalTimer = none ∧ t.fab.now = max s.fab.now (t0 + 100000000) ∧ t.fab.sqs = s.fab.sqs ∧
        t.fab.mem = s.fab.mem)) ∧
  (∀ s : State, s.fab.inReset = false → s.fab.rs.l5Step = 3 →
    ∃ t, exec .summaryWaitTimeout s = .next t ∧ t.fab.rs.l5Step = 6 ∧ t.fab.rs.pwrReq = true ∧ t.fab.rs.attempt = 1 ∧ t.fab.rs.acked = false ∧
      t.fab.keys.links = [] ∧ (∀ m ∈ t.fab.keys.mem, m.2.kind ≤ 1 → m.2.gen = noKey + 1) ∧
      t.fab.now = max s.fab.now (s.fab.rs.reqAt + 100000000) ∧ t.fab.rs.reqAt = t.fab.now ∧ t.fab.mem = s.fab.mem) ∧
  (∀ s : State, s.fab.inReset = false → exec .trayAck s = .next (s.after (s.fab.onRs (fun r =>
    if r.pwrReq then { r with acked := true } else { r with strayAck := satAdd 16 r.strayAck 1 })))) ∧
  (∀ (s : State) (f : Fabric), s.fab.inReset = false → s.fab.rs.pwrReq = true → s.fab.rs.acked = false → s.fab.rs.noAck = false →
    f = s.fab.advance (s.fab.rs.reqAt + 1000000000) →
    exec .pwrCycleReqRetry s = .next (s.after (if s.fab.rs.attempt < 3 then f.onRs (fun r => { r with pwrReq := false, reqAt := f.now })
      else (f.onRs (fun r => { r with noAck := true })).escalate srcRs 4))) ∧
  (∀ (s : State) (f : Fabric), s.fab.inReset = false → s.fab.rs.l5Step = 6 → s.fab.rs.pwrReq = false → s.fab.rs.acked = false →
    f = s.fab.advance (s.fab.rs.reqAt + 10000000) →
    exec .pwrCycleReqReassert s = .next (s.after (f.onRs (fun r => { r with pwrReq := true, attempt := r.attempt + 1, reqAt := f.now }))))

/-! ### The machine as a whole (R3, R6, R79, R81, R128, R351, R408, R409, R412, R414, R415, R417, R419, R452, R454) -/

/-- The model's step, over the queue of commands that this model gives the fabric: with a command at the front of the queue
the step is that command's effect on the state with the queue's rest. On an empty queue a fabric held in reset stays as it
is; otherwise the next packet of an intake is taken as the command of its opcode (R409), CTX_CANCEL with the scope that its
receipt fixed (R161), and with no packet waiting the oldest record of the operator's FIFO is taken (R353) and fabric time
runs on by one nanosecond (R6). The idle step is the model's choice, log entry 2. -/
def Obligations.AStepRunsTheFrontCommand : Prop :=
  (∀ (s : State) (c : Instr) (rest : List Instr), s.pending = c :: rest → step s = exec c { s with pending := rest }) ∧
  (∀ s : State, s.pending = [] → s.fab.inReset = true → step s = .next s) ∧
  (∀ (s : State) (k : Nat) (p : Packet) (c : Instr) (f : Fabric), s.pending = [] → s.fab.inReset = false → s.fab.nextPath = some k →
    s.fab.takePacket k = some (p, f) → packetCommand p = some c → (∀ p', c ≠ .ctxCancel p') → step s = exec c (s.fabric f)) ∧
  (∀ (s : State) (k : Nat) (p : Packet) (f : Fabric), s.pending = [] → s.fab.inReset = false → s.fab.nextPath = some k →
    s.fab.takePacket k = some (p, f) → packetCommand p = some (.ctxCancel p) →
    step s = (s.fabric f).run (control (rowCtxCancelAt (s.fab.receipt k)) p)) ∧
  (∀ s : State, s.pending = [] → s.fab.inReset = false → s.fab.waitingPaths = [] → s.fab.fc.oper = [] →
    step s = .next (s.after (s.fab.advance (s.fab.now + 1)))) ∧
  (∀ (s : State) (b : BitVec 512) (l : List (BitVec 512)), s.pending = [] → s.fab.inReset = false → s.fab.waitingPaths = [] → s.fab.fc.oper = b :: l →
    step s = .next (s.after ((s.fab.onFc (fun c => { c with oper := l })).advance (s.fab.now + 1)) [.operatorRecord b]))

/-- R79, R304, R351, R453, R454: what the spec gives the fabric at power-up, before FAB_RST_N rises: fabric time, frame
number and both table banks at 0, every slice FREE, every key slot EMPTY, the default counting rules, nothing driven; and
the state is a good one. -/
def Obligations.ResetState : Prop :=
  State.reset.fab.inReset = true ∧ State.reset.pending = [] ∧ State.reset.fab.now = 0 ∧ State.reset.fab.frame.frameNum = 0 ∧
  State.reset.fab.frame.bank0 = {} ∧ State.reset.fab.frame.bank1 = {} ∧ State.reset.fab.frame.switch = none ∧
  (∀ k, (State.reset.fab.slice k).state = .free) ∧ (∀ kind k, State.reset.fab.slotState kind k = 0) ∧
  State.reset.fab.fc.rules = defaultRules ∧ State.reset.fab.fc.pinClass = 3 ∧ State.reset.fab.fc.errOut = false ∧
  State.reset.fab.out = [] ∧ (∀ q, State.reset.fab.sq? q = none) ∧ (∀ n, State.reset.fab.tag? n = none) ∧
  (∀ g, (State.reset.fab.group g).state = 0) ∧ State.reset.fab.ctl.sessions = [] ∧ State.reset.Inv

/-- From every good state, whether a run reaches it or not, a step that answers a next state leaves a good state: device
memory keeps its canonical form, and no write of a command is left over. -/
def Obligations.StepKeepsTheInvariant : Prop := ∀ s t : State, s.Inv → step s = .next t → t.Inv

/-- Every command of the table answers a next state in every state, keeps the rest of the queue, and only adds to what has
been driven; and R452, R454: a fabric held in reset sees no command but the changes of its two reset inputs. -/
def Obligations.EveryCommandCompletes : Prop :=
  (∀ (c : Instr) (s : State), ∃ (t : State) (o : List Out), exec c s = .next t ∧ t.pending = s.pending ∧ t.fab.out = s.fab.out ++ o ∧
    t.fab.writes = []) ∧
  (∀ (c : Instr) (s : State), s.fab.inReset = true → (∀ n, c ≠ .fabRstNAssert n) → (∀ b, c ≠ .fabPwrOkChange b) → c ≠ .fabRstNRelease →
    exec c s = .next { s with fab := { s.fab with writes := [] } })

/-- R414, R415: the tag of an operator packet is the AES-256-GCM tag, with an empty plaintext, under the control key of the
session that the mailbox names, with the nonce 01, 00, 00, 00, the session identifier and SEQ, and with packet bytes 00H to
07H and 18H to 3FH as additional data (byte 0 lowest). A packet with another tag, or of a session with no loaded key, is
discarded and counted whatever its opcode, with no reply; one with the right tag and a new SEQ goes on to the later checks,
and is answered FORM where its length is wrong. -/
def Obligations.OperatorPacketsAreVerified : Prop :=
  (∀ (s : State) (p : Packet) (c : Instr) (id : BitVec 32), packetCommand p = some c → p.path = .mailbox id → s.fab.coresUp = true →
    s.fab.session? id = none → exec c s = .next (s.after s.fab.authFail)) ∧
  (∀ (s : State) (p : Packet) (c : Instr) (id : BitVec 32) (x : Session), packetCommand p = some c → p.path = .mailbox id →
    s.fab.coresUp = true → s.fab.session? id = some x →
    x.keyLost = true ∨ p.tag ≠ Config.gcmTag x.key ((0x01#8 ++ 0#24) ++ id ++ p.seq)
      (p.params ++ (p.seq ++ p.sliceByte ++ p.len ++ p.opcode)) →
    exec c s = .next (s.after s.fab.authFail)) ∧
  (∀ (s : State) (p : Packet) (c : Instr) (id : BitVec 32) (x : Session), packetCommand p = some c → p.path = .mailbox id →
    s.fab.coresUp = true → s.fab.session? id = some x → x.keyLost = false →
    p.tag = Config.gcmTag x.key ((0x01#8 ++ 0#24) ++ id ++ p.seq) (p.params ++ (p.seq ++ p.sliceByte ++ p.len ++ p.opcode)) →
    x.lastSeq < p.seq → p.len ≠ 0x40 →
    ∃ t, exec c s = .next t ∧ Answered s t p (rep stForm) ∧ t.fab.bare p = s.fab.bare p ∧ t.fab.ctl.authFail = s.fab.ctl.authFail)

/-- R408, R409, R412, R417, R419: what becomes of a packet that fails a check. While the cores do not run it is answered BUSY,
or FORM where its length is wrong; on the mailbox a SEQ that is not new is a duplicate, with its reply written again where
it was written, or is stale; on a function a packet of a disabled ring is counted, and one behind a waiting reply goes to
the intake; a packet that passes up to its opcode and has none of the listed ones is answered UNKNOWN_OPCODE; one that its
path may not send DENIED; one with a reserved bit or a parameter out of range FORM. A failed packet changes nothing else. -/
def Obligations.FailedPacketsChangeNothing : Prop :=
  (∀ (s : State) (p : Packet) (c : Instr), packetCommand p = some c → s.fab.inReset = false → s.fab.coresUp = false →
    (∀ id, p.path = .mailbox id → ∃ x, s.fab.session? id = some x ∧ x.verifiesBusy p = true) →
    (∀ n, p.path = .fn n → (s.fab.fn n).ctlRing.enable = true ∧ (s.fab.fn n).waiting = []) →
    ∃ t, exec c s = .next t ∧ Answers s t p (rep (if p.len = 0x40 then stBusy else stForm)) ∧ t.fab.bare p = s.fab.bare p) ∧
  (∀ (s : State) (p : Packet) (c : Instr) (id : BitVec 32) (x : Session) (h : HeldPkt), packetCommand p = some c → p.path = .mailbox id →
    s.fab.coresUp = true → s.fab.session? id = some x → x.verifies p = true → ¬ x.lastSeq < p.seq →
    x.held.find? (fun h => h.seq == p.seq && h.tag == p.tag) = some h → h.reply = none → exec c s = .next (s.after s.fab)) ∧
  (∀ (s : State) (p : Packet) (c : Instr) (id : BitVec 32) (x : Session) (h : HeldPkt) (r : Reply), packetCommand p = some c →
    p.path = .mailbox id → s.fab.coresUp = true → s.fab.session? id = some x → x.verifies p = true → ¬ x.lastSeq < p.seq →
    x.held.find? (fun h => h.seq == p.seq && h.tag == p.tag) = some h → h.reply = some r →
    ∃ t, exec c s = .next t ∧ Answered s t p r ∧ t.fab.bare p = s.fab.bare p ∧ t.fab.ctl.stale = s.fab.ctl.stale) ∧
  (∀ (s : State) (p : Packet) (c : Instr) (id : BitVec 32) (x : Session), packetCommand p = some c → p.path = .mailbox id →
    s.fab.coresUp = true → s.fab.session? id = some x → x.verifies p = true → ¬ x.lastSeq < p.seq →
    x.held.find? (fun h => h.seq == p.seq && h.tag == p.tag) = none →
    ∃ t, exec c s = .next t ∧ Answered s t p (rep stStale) ∧ t.fab.bare p = s.fab.bare p ∧
      t.fab.ctl.stale = satAdd 16 s.fab.ctl.stale 1) ∧
  (∀ (s : State) (p : Packet) (c : Instr) (n : Nat), packetCommand p = some c → p.path = .fn n → s.fab.coresUp = true →
    (s.fab.fn n).ctlRing.enable = false →
    exec c s = .next (s.after (s.fab.onFn n (fun x => { x with ctlRing := { x.ctlRing with lost := satAdd 16 x.ctlRing.lost 1 } })))) ∧
  (∀ (s : State) (p : Packet) (row : Row), s.fab.hears p = true → row.authorised p (s.fab.taking p) = false →
    ∃ t, s.run (control row p) = .next t ∧ Answers s t p (rep stDenied) ∧ t.fab.bare p = s.fab.bare p) ∧
  (∀ (s : State) (p : Packet) (row : Row), s.fab.hears p = true → row.authorised p (s.fab.taking p) = true →
    row.formOk p (s.fab.taking p) = false →
    ∃ t, s.run (control row p) = .next t ∧ Answers s t p (rep stForm) ∧ t.fab.bare p = s.fab.bare p) ∧
  (∀ (s : State) (k : Nat) (p : Packet) (f : Fabric), s.pending = [] → s.fab.inReset = false → s.fab.nextPath = some k →
    s.fab.takePacket k = some (p, f) → packetCommand p = none → f.hears p = true →
    ∃ t, step s = .next t ∧ Answers (s.fabric f) t p (rep stUnknown) ∧ t.fab.bare p = f.bare p)

/-- R128: the need of a live sequence with T tokens, growth g and t tokens a page is the least number of pages that holds
T + 4g tokens; the sequence is low with fewer pages than that, and unbacked with fewer than hold T tokens. -/
def Obligations.NeedOfALiveSequence : Prop :=
  (∀ T g t : Nat, 0 < t → T + 4 * g ≤ poolNeed T g t * t ∧ ∀ n, T + 4 * g ≤ n * t → poolNeed T g t ≤ n) ∧
  (∀ q : Seqn, 0 < q.perPage → (q.isLow = true ↔ q.pages.length < poolNeed q.tokens q.grow q.perPage)) ∧
  (∀ q : Seqn, 0 < q.perPage → (q.isLow = true ↔ q.pages.length * q.perPage < q.tokens + 4 * q.grow)) ∧
  (∀ q : Seqn, 0 < q.perPage → (q.unbacked = true ↔ q.pages.length * q.perPage < q.tokens))

/-- R81: a frame that begins has the next position, and after position SEQ_LEN − 1 position 0; the frame whose boundary
performs a switch has position 0. -/
def Obligations.PositionsOfTheSequence : Prop :=
  (∀ f : Fabric, f.frame.seqPos + 1 < f.frame.seqLen → f.countMissed.beginFrame.frame.seqPos = f.frame.seqPos + 1) ∧
  (∀ f : Fabric, f.frame.seqPos + 1 = f.frame.seqLen → f.countMissed.beginFrame.frame.seqPos = 0) ∧
  (∀ (f : Fabric) (w : Switch), f.frame.switch = some w → f.applySwitch.frame.seqPos = 0 ∧
    f.applySwitch.frame.seqLen = hdrSeqLen f.frame.shadowBank.header ∧ f.applySwitch.frame.active = !f.frame.active ∧
    f.applySwitch.frame.frameNum = f.frame.frameNum)
end

