-- ==== Sys2Proof/Laws/Memory.lean ====
section
/-! SUPPORT. Every operation on device memory keeps its canonical form, and a read sees the last write. -/

namespace Sys2Proof.Machine

theorem memWfFrom_le {lo hi : Nat} (m : List Host.Cell) (h : memWfFrom hi m = true) (hle : lo ≤ hi) :
    memWfFrom lo m = true := by
  cases m with
  | nil => rfl
  | cons c t =>
    obtain ⟨a, b⟩ := c
    simp only [memWfFrom, Bool.and_eq_true, decide_eq_true_eq] at *
    exact ⟨⟨by omega, h.1.2⟩, h.2⟩

theorem memPut_wfFrom (m : List Host.Cell) : ∀ (lo a : Nat) (v : Byte), lo ≤ a → memWfFrom lo m = true →
    memWfFrom lo (memPut m a v) = true := by
  induction m with
  | nil =>
    intro lo a v ha _
    by_cases hv : v = memDefault <;> simp [memPut, memWfFrom, hv, ha]
  | cons c t ih =>
    obtain ⟨a', b⟩ := c
    intro lo a v ha h
    simp only [memWfFrom, Bool.and_eq_true, decide_eq_true_eq] at h
    obtain ⟨⟨h1, h2⟩, h3⟩ := h
    simp only [memPut]
    split
    · rename_i hlt
      by_cases hv : v = memDefault
      · simp [hv, memWfFrom, h1, h2, h3]
      · have : memWfFrom (a' + 1) t = true := h3
        simp [hv, memWfFrom, ha, h2, this]; omega
    · split
      · rename_i _ he
        subst he
        by_cases hv : v = memDefault
        · simp only [hv, if_true]
          exact memWfFrom_le t h3 (by omega)
        · simp [hv, memWfFrom, ha, h3]
      · rename_i hn he
        simp only [memWfFrom, Bool.and_eq_true, decide_eq_true_eq]
        exact ⟨⟨h1, h2⟩, ih (a' + 1) a v (by omega) h3⟩

theorem memPut_wf (m : List Host.Cell) (a : Nat) (v : Byte) (h : memWf m = true) : memWf (memPut m a v) = true :=
  memPut_wfFrom m 0 a v (Nat.zero_le a) h

theorem memPutAll_wf (l : List Byte) : ∀ (m : List Host.Cell) (a : Nat), memWf m = true → memWf (memPutAll m a l) = true := by
  induction l with
  | nil => intro m a h; exact h
  | cons b t ih => intro m a h; exact ih _ _ (memPut_wf m a b h)

theorem memFilter_wfFrom (p : Host.Cell → Bool) (m : List Host.Cell) : ∀ lo, memWfFrom lo m = true →
    memWfFrom lo (m.filter p) = true := by
  induction m with
  | nil => intro lo _; rfl
  | cons c t ih =>
    obtain ⟨a, b⟩ := c
    intro lo h
    simp only [memWfFrom, Bool.and_eq_true, decide_eq_true_eq] at h
    simp only [List.filter_cons]
    split
    · simp only [memWfFrom, Bool.and_eq_true, decide_eq_true_eq]
      exact ⟨h.1, ih _ h.2⟩
    · exact memWfFrom_le _ (ih _ h.2) (by omega)

theorem memZero_wf (m : List Host.Cell) (a len : Nat) (h : memWf m = true) : memWf (memZero m a len) = true :=
  memFilter_wfFrom _ m 0 h

theorem memApply_wf (m : List Host.Cell) (w : MemOp) (h : memWf m = true) : memWf (memApply m w) = true := by
  cases w with
  | bytes a l => exact memPutAll_wf l m a h
  | zero a len => exact memZero_wf m a len h
  | wipe => rfl

/-- All that the writes of a command can do to the form of memory. -/
theorem memStore_wf (ws : List MemOp) : ∀ m, memWf m = true → memWf (memStore m ws) = true := by
  induction ws with
  | nil => intro m h; exact h
  | cons w t ih => intro m h; exact ih _ (memApply_wf m w h)

/-- A byte written is the byte read. -/
theorem memGet_memPut_self (m : List Host.Cell) (a : Nat) (v : Byte) : ∀ lo, memWfFrom lo m = true →
    memGet (memPut m a v) a = v := by
  induction m with
  | nil => intro lo _; by_cases hv : v = memDefault <;> simp [memPut, memGet, hv]
  | cons c t ih =>
    obtain ⟨a', b⟩ := c
    intro lo h
    simp only [memWfFrom, Bool.and_eq_true, decide_eq_true_eq] at h
    have above : ∀ (u : List Host.Cell) (k x : Nat), memWfFrom k u = true → x < k → memGet u x = memDefault := by
      intro u
      induction u with
      | nil => intros; rfl
      | cons c u ihu =>
        obtain ⟨y, z⟩ := c
        intro k x hk hx
        simp only [memWfFrom, Bool.and_eq_true, decide_eq_true_eq] at hk
        have : y ≠ x := by omega
        simp only [memGet, this, if_false]
        exact ihu _ x hk.2 (by omega)
    simp only [memPut]
    split
    · rename_i hlt
      by_cases hv : v = memDefault
      · have : a' ≠ a := by omega
        simp only [hv, if_true, memGet, this, if_false]
        exact above t _ a h.2 (by omega)
      · simp [hv, memGet]
    · split
      · rename_i _ he
        subst he
        by_cases hv : v = memDefault
        · simp only [hv, if_true]; exact above t _ a h.2 (by omega)
        · simp [hv, memGet]
      · rename_i hn he
        have : a' ≠ a := fun e => he e.symm
        simp only [memGet, this, if_false]
        exact ih _ h.2

/-- A write leaves every other byte alone. -/
theorem memGet_memPut_other (m : List Host.Cell) (a x : Nat) (v : Byte) (hx : x ≠ a) :
    memGet (memPut m a v) x = memGet m x := by
  induction m with
  | nil => by_cases hv : v = memDefault <;> simp [memPut, memGet, hv, Ne.symm hx]
  | cons c t ih =>
    obtain ⟨a', b⟩ := c
    simp only [memPut]
    split
    · by_cases hv : v = memDefault <;> simp [hv, memGet, Ne.symm hx]
    · split
      · rename_i _ he
        subst he
        by_cases hv : v = memDefault <;> simp [hv, memGet, Ne.symm hx]
      · simp only [memGet, ih]

/-- A command that writes nothing leaves memory as it is. -/
@[simp] theorem memStore_nil (m : List Host.Cell) : memStore m [] = m := rfl

end Sys2Proof.Machine
end

