-- ==== Sys2Proof/Laws/Run.lean ====
section
/-! SUPPORT. What running a command can do, whatever its effect: it answers a next state, keeps the queue, appends to
what was driven, and closes its memory writes. -/

namespace Sys2Proof.Machine

theorem State.runAlways_eq (s : State) (x : Fabric → Fabric) :
    s.runAlways x = .next { s with fab := closeRun s.fab (x (openRun s.fab)) } := rfl

/-- A fabric out of reset sees the command. -/
theorem State.run_eq (s : State) (x : Fabric → Fabric) (h : s.fab.inReset = false) :
    s.run x = .next { s with fab := closeRun s.fab (x (openRun s.fab)) } := by
  have h' : (openRun s.fab).inReset = false := h
  simp [State.run, State.runAlways, h']

/-- A command that writes no memory: its effect on the fabric and what it drives. -/
theorem State.run_after (s : State) (x : Fabric → Fabric) (f : Fabric) (o : List Out) (h : s.fab.inReset = false)
    (hx : x (openRun s.fab) = { f with out := o, writes := [] }) (hm : f.mem = s.fab.mem) : s.run x = .next (s.after f o) := by
  rw [State.run_eq s x h, hx]
  simp only [closeRun, State.after, memStore, List.foldl_nil, hm]

/-- A fabric held in reset does not see the command. -/
theorem State.run_held (s : State) (x : Fabric → Fabric) (h : s.fab.inReset = true) :
    s.run x = .next { s with fab := { s.fab with writes := [] } } := by
  have h' : (openRun s.fab).inReset = true := h
  unfold State.run State.runAlways
  simp only [h', if_true]
  simp [closeRun, openRun]

/-- Whatever a command does, the run of it is the closed form of some effect. -/
theorem State.run_closes (s : State) (x : Fabric → Fabric) :
    ∃ g : Fabric, s.run x = .next { s with fab := closeRun s.fab g } := ⟨_, rfl⟩

@[simp] theorem closeRun_writes (f g : Fabric) : (closeRun f g).writes = [] := rfl
@[simp] theorem closeRun_out (f g : Fabric) : (closeRun f g).out = f.out ++ g.out := rfl
@[simp] theorem closeRun_mem (f g : Fabric) : (closeRun f g).mem = memStore f.mem g.writes := rfl

/-- Fixing a boundary changes the frame alone. -/
theorem Fabric.fixBoundary_eq (f : Fabric) : f.fixBoundary = { f with frame := f.fixBoundary.frame } := by
  unfold Fabric.fixBoundary; split <;> rfl

/-- Passing of time changes the frame alone. -/
theorem Fabric.advance_eq (f : Fabric) (t : Nat) : f.advance t = { f with frame := (f.advance t).frame } := by
  unfold Fabric.advance; split
  · rw [Fabric.fixBoundary_eq]; rfl
  · rfl

theorem openRun_fixBoundary (f : Fabric) : (openRun f).fixBoundary = openRun f.fixBoundary := by
  unfold Fabric.fixBoundary
  have h : (openRun f).frame = f.frame := rfl
  rw [h]; split <;> rfl

/-- Time passes for a command as it does for the fabric that the command finds. -/
theorem openRun_advance (f : Fabric) (t : Nat) : (openRun f).advance t = openRun (f.advance t) := by
  unfold Fabric.advance
  have h : (openRun f).nextBoundary = f.nextBoundary := rfl
  rw [h]; split
  · rw [openRun_fixBoundary]; rfl
  · rfl

/-- The closed form of any effect on a good state is a good state. -/
theorem closeRun_inv (s : State) (g : Fabric) (h : s.Inv) : ({ s with fab := closeRun s.fab g } : State).Inv :=
  ⟨memStore_wf g.writes s.fab.mem h.1, rfl⟩

/-- What a step drove, read off its closed form. -/
theorem driven_close (s : State) (g : Fabric) : driven s { s with fab := closeRun s.fab g } = g.out := by
  simp [driven]

end Sys2Proof.Machine
end

