-- ==== Sys2Proof/Laws/State.lean ====
section
/-! SUPPORT. What each update of the fabric leaves alone and what it writes, one lemma for each field, each true by
definition. -/

namespace Sys2Proof.Machine

variable (f : Fabric)

/-! ### Fabric.onSlice -/

@[simp] theorem Fabric.onSlice_frame (s : Nat) (g : Slice → Slice) : (f.onSlice s g).frame = f.frame := rfl
@[simp] theorem Fabric.onSlice_units (s : Nat) (g : Slice → Slice) : (f.onSlice s g).units = f.units := rfl
@[simp] theorem Fabric.onSlice_engines (s : Nat) (g : Slice → Slice) : (f.onSlice s g).engines = f.engines := rfl
@[simp] theorem Fabric.onSlice_slices (s : Nat) (g : Slice → Slice) : (f.onSlice s g).slices = f.slices.upd s {} g := rfl
@[simp] theorem Fabric.onSlice_fns (s : Nat) (g : Slice → Slice) : (f.onSlice s g).fns = f.fns := rfl
@[simp] theorem Fabric.onSlice_sqs (s : Nat) (g : Slice → Slice) : (f.onSlice s g).sqs = f.sqs := rfl
@[simp] theorem Fabric.onSlice_accepts (s : Nat) (g : Slice → Slice) : (f.onSlice s g).accepts = f.accepts := rfl
@[simp] theorem Fabric.onSlice_tags (s : Nat) (g : Slice → Slice) : (f.onSlice s g).tags = f.tags := rfl
@[simp] theorem Fabric.onSlice_windows (s : Nat) (g : Slice → Slice) : (f.onSlice s g).windows = f.windows := rfl
@[simp] theorem Fabric.onSlice_remotes (s : Nat) (g : Slice → Slice) : (f.onSlice s g).remotes = f.remotes := rfl
@[simp] theorem Fabric.onSlice_nextRemote (s : Nat) (g : Slice → Slice) : (f.onSlice s g).nextRemote = f.nextRemote := rfl
@[simp] theorem Fabric.onSlice_belay (s : Nat) (g : Slice → Slice) : (f.onSlice s g).belay = f.belay := rfl
@[simp] theorem Fabric.onSlice_cau (s : Nat) (g : Slice → Slice) : (f.onSlice s g).cau = f.cau := rfl
@[simp] theorem Fabric.onSlice_cleat (s : Nat) (g : Slice → Slice) : (f.onSlice s g).cleat = f.cleat := rfl
@[simp] theorem Fabric.onSlice_splice (s : Nat) (g : Slice → Slice) : (f.onSlice s g).splice = f.splice := rfl
@[simp] theorem Fabric.onSlice_keys (s : Nat) (g : Slice → Slice) : (f.onSlice s g).keys = f.keys := rfl
@[simp] theorem Fabric.onSlice_env (s : Nat) (g : Slice → Slice) : (f.onSlice s g).env = f.env := rfl
@[simp] theorem Fabric.onSlice_fc (s : Nat) (g : Slice → Slice) : (f.onSlice s g).fc = f.fc := rfl
@[simp] theorem Fabric.onSlice_ledger (s : Nat) (g : Slice → Slice) : (f.onSlice s g).ledger = f.ledger := rfl
@[simp] theorem Fabric.onSlice_rs (s : Nat) (g : Slice → Slice) : (f.onSlice s g).rs = f.rs := rfl
@[simp] theorem Fabric.onSlice_ctl (s : Nat) (g : Slice → Slice) : (f.onSlice s g).ctl = f.ctl := rfl
@[simp] theorem Fabric.onSlice_tests (s : Nat) (g : Slice → Slice) : (f.onSlice s g).tests = f.tests := rfl
@[simp] theorem Fabric.onSlice_tap (s : Nat) (g : Slice → Slice) : (f.onSlice s g).tap = f.tap := rfl
@[simp] theorem Fabric.onSlice_mem (s : Nat) (g : Slice → Slice) : (f.onSlice s g).mem = f.mem := rfl
@[simp] theorem Fabric.onSlice_writes (s : Nat) (g : Slice → Slice) : (f.onSlice s g).writes = f.writes := rfl
@[simp] theorem Fabric.onSlice_free (s : Nat) (g : Slice → Slice) : (f.onSlice s g).free = f.free := rfl
@[simp] theorem Fabric.onSlice_out (s : Nat) (g : Slice → Slice) : (f.onSlice s g).out = f.out := rfl

/-! ### Fabric.onEngine -/

@[simp] theorem Fabric.onEngine_frame (e : Nat) (g : Engine → Engine) : (f.onEngine e g).frame = f.frame := rfl
@[simp] theorem Fabric.onEngine_units (e : Nat) (g : Engine → Engine) : (f.onEngine e g).units = f.units := rfl
@[simp] theorem Fabric.onEngine_engines (e : Nat) (g : Engine → Engine) : (f.onEngine e g).engines = f.engines.upd e {} g := rfl
@[simp] theorem Fabric.onEngine_slices (e : Nat) (g : Engine → Engine) : (f.onEngine e g).slices = f.slices := rfl
@[simp] theorem Fabric.onEngine_fns (e : Nat) (g : Engine → Engine) : (f.onEngine e g).fns = f.fns := rfl
@[simp] theorem Fabric.onEngine_sqs (e : Nat) (g : Engine → Engine) : (f.onEngine e g).sqs = f.sqs := rfl
@[simp] theorem Fabric.onEngine_accepts (e : Nat) (g : Engine → Engine) : (f.onEngine e g).accepts = f.accepts := rfl
@[simp] theorem Fabric.onEngine_tags (e : Nat) (g : Engine → Engine) : (f.onEngine e g).tags = f.tags := rfl
@[simp] theorem Fabric.onEngine_windows (e : Nat) (g : Engine → Engine) : (f.onEngine e g).windows = f.windows := rfl
@[simp] theorem Fabric.onEngine_remotes (e : Nat) (g : Engine → Engine) : (f.onEngine e g).remotes = f.remotes := rfl
@[simp] theorem Fabric.onEngine_nextRemote (e : Nat) (g : Engine → Engine) : (f.onEngine e g).nextRemote = f.nextRemote := rfl
@[simp] theorem Fabric.onEngine_belay (e : Nat) (g : Engine → Engine) : (f.onEngine e g).belay = f.belay := rfl
@[simp] theorem Fabric.onEngine_cau (e : Nat) (g : Engine → Engine) : (f.onEngine e g).cau = f.cau := rfl
@[simp] theorem Fabric.onEngine_cleat (e : Nat) (g : Engine → Engine) : (f.onEngine e g).cleat = f.cleat := rfl
@[simp] theorem Fabric.onEngine_splice (e : Nat) (g : Engine → Engine) : (f.onEngine e g).splice = f.splice := rfl
@[simp] theorem Fabric.onEngine_keys (e : Nat) (g : Engine → Engine) : (f.onEngine e g).keys = f.keys := rfl
@[simp] theorem Fabric.onEngine_env (e : Nat) (g : Engine → Engine) : (f.onEngine e g).env = f.env := rfl
@[simp] theorem Fabric.onEngine_fc (e : Nat) (g : Engine → Engine) : (f.onEngine e g).fc = f.fc := rfl
@[simp] theorem Fabric.onEngine_ledger (e : Nat) (g : Engine → Engine) : (f.onEngine e g).ledger = f.ledger := rfl
@[simp] theorem Fabric.onEngine_rs (e : Nat) (g : Engine → Engine) : (f.onEngine e g).rs = f.rs := rfl
@[simp] theorem Fabric.onEngine_ctl (e : Nat) (g : Engine → Engine) : (f.onEngine e g).ctl = f.ctl := rfl
@[simp] theorem Fabric.onEngine_tests (e : Nat) (g : Engine → Engine) : (f.onEngine e g).tests = f.tests := rfl
@[simp] theorem Fabric.onEngine_tap (e : Nat) (g : Engine → Engine) : (f.onEngine e g).tap = f.tap := rfl
@[simp] theorem Fabric.onEngine_mem (e : Nat) (g : Engine → Engine) : (f.onEngine e g).mem = f.mem := rfl
@[simp] theorem Fabric.onEngine_writes (e : Nat) (g : Engine → Engine) : (f.onEngine e g).writes = f.writes := rfl
@[simp] theorem Fabric.onEngine_free (e : Nat) (g : Engine → Engine) : (f.onEngine e g).free = f.free := rfl
@[simp] theorem Fabric.onEngine_out (e : Nat) (g : Engine → Engine) : (f.onEngine e g).out = f.out := rfl

/-! ### Fabric.onFn -/

@[simp] theorem Fabric.onFn_frame (n : Nat) (g : Fn → Fn) : (f.onFn n g).frame = f.frame := rfl
@[simp] theorem Fabric.onFn_units (n : Nat) (g : Fn → Fn) : (f.onFn n g).units = f.units := rfl
@[simp] theorem Fabric.onFn_engines (n : Nat) (g : Fn → Fn) : (f.onFn n g).engines = f.engines := rfl
@[simp] theorem Fabric.onFn_slices (n : Nat) (g : Fn → Fn) : (f.onFn n g).slices = f.slices := rfl
@[simp] theorem Fabric.onFn_fns (n : Nat) (g : Fn → Fn) : (f.onFn n g).fns = f.fns.upd n {} g := rfl
@[simp] theorem Fabric.onFn_sqs (n : Nat) (g : Fn → Fn) : (f.onFn n g).sqs = f.sqs := rfl
@[simp] theorem Fabric.onFn_accepts (n : Nat) (g : Fn → Fn) : (f.onFn n g).accepts = f.accepts := rfl
@[simp] theorem Fabric.onFn_tags (n : Nat) (g : Fn → Fn) : (f.onFn n g).tags = f.tags := rfl
@[simp] theorem Fabric.onFn_windows (n : Nat) (g : Fn → Fn) : (f.onFn n g).windows = f.windows := rfl
@[simp] theorem Fabric.onFn_remotes (n : Nat) (g : Fn → Fn) : (f.onFn n g).remotes = f.remotes := rfl
@[simp] theorem Fabric.onFn_nextRemote (n : Nat) (g : Fn → Fn) : (f.onFn n g).nextRemote = f.nextRemote := rfl
@[simp] theorem Fabric.onFn_belay (n : Nat) (g : Fn → Fn) : (f.onFn n g).belay = f.belay := rfl
@[simp] theorem Fabric.onFn_cau (n : Nat) (g : Fn → Fn) : (f.onFn n g).cau = f.cau := rfl
@[simp] theorem Fabric.onFn_cleat (n : Nat) (g : Fn → Fn) : (f.onFn n g).cleat = f.cleat := rfl
@[simp] theorem Fabric.onFn_splice (n : Nat) (g : Fn → Fn) : (f.onFn n g).splice = f.splice := rfl
@[simp] theorem Fabric.onFn_keys (n : Nat) (g : Fn → Fn) : (f.onFn n g).keys = f.keys := rfl
@[simp] theorem Fabric.onFn_env (n : Nat) (g : Fn → Fn) : (f.onFn n g).env = f.env := rfl
@[simp] theorem Fabric.onFn_fc (n : Nat) (g : Fn → Fn) : (f.onFn n g).fc = f.fc := rfl
@[simp] theorem Fabric.onFn_ledger (n : Nat) (g : Fn → Fn) : (f.onFn n g).ledger = f.ledger := rfl
@[simp] theorem Fabric.onFn_rs (n : Nat) (g : Fn → Fn) : (f.onFn n g).rs = f.rs := rfl
@[simp] theorem Fabric.onFn_ctl (n : Nat) (g : Fn → Fn) : (f.onFn n g).ctl = f.ctl := rfl
@[simp] theorem Fabric.onFn_tests (n : Nat) (g : Fn → Fn) : (f.onFn n g).tests = f.tests := rfl
@[simp] theorem Fabric.onFn_tap (n : Nat) (g : Fn → Fn) : (f.onFn n g).tap = f.tap := rfl
@[simp] theorem Fabric.onFn_mem (n : Nat) (g : Fn → Fn) : (f.onFn n g).mem = f.mem := rfl
@[simp] theorem Fabric.onFn_writes (n : Nat) (g : Fn → Fn) : (f.onFn n g).writes = f.writes := rfl
@[simp] theorem Fabric.onFn_free (n : Nat) (g : Fn → Fn) : (f.onFn n g).free = f.free := rfl
@[simp] theorem Fabric.onFn_out (n : Nat) (g : Fn → Fn) : (f.onFn n g).out = f.out := rfl

/-! ### Fabric.onSq -/

@[simp] theorem Fabric.onSq_frame (q : Nat) (g : Sq → Sq) : (f.onSq q g).frame = f.frame := rfl
@[simp] theorem Fabric.onSq_units (q : Nat) (g : Sq → Sq) : (f.onSq q g).units = f.units := rfl
@[simp] theorem Fabric.onSq_engines (q : Nat) (g : Sq → Sq) : (f.onSq q g).engines = f.engines := rfl
@[simp] theorem Fabric.onSq_slices (q : Nat) (g : Sq → Sq) : (f.onSq q g).slices = f.slices := rfl
@[simp] theorem Fabric.onSq_fns (q : Nat) (g : Sq → Sq) : (f.onSq q g).fns = f.fns := rfl
@[simp] theorem Fabric.onSq_sqs (q : Nat) (g : Sq → Sq) : (f.onSq q g).sqs = f.sqs.onKey q g := rfl
@[simp] theorem Fabric.onSq_accepts (q : Nat) (g : Sq → Sq) : (f.onSq q g).accepts = f.accepts := rfl
@[simp] theorem Fabric.onSq_tags (q : Nat) (g : Sq → Sq) : (f.onSq q g).tags = f.tags := rfl
@[simp] theorem Fabric.onSq_windows (q : Nat) (g : Sq → Sq) : (f.onSq q g).windows = f.windows := rfl
@[simp] theorem Fabric.onSq_remotes (q : Nat) (g : Sq → Sq) : (f.onSq q g).remotes = f.remotes := rfl
@[simp] theorem Fabric.onSq_nextRemote (q : Nat) (g : Sq → Sq) : (f.onSq q g).nextRemote = f.nextRemote := rfl
@[simp] theorem Fabric.onSq_belay (q : Nat) (g : Sq → Sq) : (f.onSq q g).belay = f.belay := rfl
@[simp] theorem Fabric.onSq_cau (q : Nat) (g : Sq → Sq) : (f.onSq q g).cau = f.cau := rfl
@[simp] theorem Fabric.onSq_cleat (q : Nat) (g : Sq → Sq) : (f.onSq q g).cleat = f.cleat := rfl
@[simp] theorem Fabric.onSq_splice (q : Nat) (g : Sq → Sq) : (f.onSq q g).splice = f.splice := rfl
@[simp] theorem Fabric.onSq_keys (q : Nat) (g : Sq → Sq) : (f.onSq q g).keys = f.keys := rfl
@[simp] theorem Fabric.onSq_env (q : Nat) (g : Sq → Sq) : (f.onSq q g).env = f.env := rfl
@[simp] theorem Fabric.onSq_fc (q : Nat) (g : Sq → Sq) : (f.onSq q g).fc = f.fc := rfl
@[simp] theorem Fabric.onSq_ledger (q : Nat) (g : Sq → Sq) : (f.onSq q g).ledger = f.ledger := rfl
@[simp] theorem Fabric.onSq_rs (q : Nat) (g : Sq → Sq) : (f.onSq q g).rs = f.rs := rfl
@[simp] theorem Fabric.onSq_ctl (q : Nat) (g : Sq → Sq) : (f.onSq q g).ctl = f.ctl := rfl
@[simp] theorem Fabric.onSq_tests (q : Nat) (g : Sq → Sq) : (f.onSq q g).tests = f.tests := rfl
@[simp] theorem Fabric.onSq_tap (q : Nat) (g : Sq → Sq) : (f.onSq q g).tap = f.tap := rfl
@[simp] theorem Fabric.onSq_mem (q : Nat) (g : Sq → Sq) : (f.onSq q g).mem = f.mem := rfl
@[simp] theorem Fabric.onSq_writes (q : Nat) (g : Sq → Sq) : (f.onSq q g).writes = f.writes := rfl
@[simp] theorem Fabric.onSq_free (q : Nat) (g : Sq → Sq) : (f.onSq q g).free = f.free := rfl
@[simp] theorem Fabric.onSq_out (q : Nat) (g : Sq → Sq) : (f.onSq q g).out = f.out := rfl

/-! ### Fabric.onDesc -/

@[simp] theorem Fabric.onDesc_frame (q : Nat) (n : BitVec 32) (g : Desc → Desc) : (f.onDesc q n g).frame = f.frame := rfl
@[simp] theorem Fabric.onDesc_units (q : Nat) (n : BitVec 32) (g : Desc → Desc) : (f.onDesc q n g).units = f.units := rfl
@[simp] theorem Fabric.onDesc_engines (q : Nat) (n : BitVec 32) (g : Desc → Desc) : (f.onDesc q n g).engines = f.engines := rfl
@[simp] theorem Fabric.onDesc_slices (q : Nat) (n : BitVec 32) (g : Desc → Desc) : (f.onDesc q n g).slices = f.slices := rfl
@[simp] theorem Fabric.onDesc_fns (q : Nat) (n : BitVec 32) (g : Desc → Desc) : (f.onDesc q n g).fns = f.fns := rfl
@[simp] theorem Fabric.onDesc_sqs (q : Nat) (n : BitVec 32) (g : Desc → Desc) : (f.onDesc q n g).sqs = f.sqs.onKey q (fun x => x.onDesc n g) := rfl
@[simp] theorem Fabric.onDesc_accepts (q : Nat) (n : BitVec 32) (g : Desc → Desc) : (f.onDesc q n g).accepts = f.accepts := rfl
@[simp] theorem Fabric.onDesc_tags (q : Nat) (n : BitVec 32) (g : Desc → Desc) : (f.onDesc q n g).tags = f.tags := rfl
@[simp] theorem Fabric.onDesc_windows (q : Nat) (n : BitVec 32) (g : Desc → Desc) : (f.onDesc q n g).windows = f.windows := rfl
@[simp] theorem Fabric.onDesc_remotes (q : Nat) (n : BitVec 32) (g : Desc → Desc) : (f.onDesc q n g).remotes = f.remotes := rfl
@[simp] theorem Fabric.onDesc_nextRemote (q : Nat) (n : BitVec 32) (g : Desc → Desc) : (f.onDesc q n g).nextRemote = f.nextRemote := rfl
@[simp] theorem Fabric.onDesc_belay (q : Nat) (n : BitVec 32) (g : Desc → Desc) : (f.onDesc q n g).belay = f.belay := rfl
@[simp] theorem Fabric.onDesc_cau (q : Nat) (n : BitVec 32) (g : Desc → Desc) : (f.onDesc q n g).cau = f.cau := rfl
@[simp] theorem Fabric.onDesc_cleat (q : Nat) (n : BitVec 32) (g : Desc → Desc) : (f.onDesc q n g).cleat = f.cleat := rfl
@[simp] theorem Fabric.onDesc_splice (q : Nat) (n : BitVec 32) (g : Desc → Desc) : (f.onDesc q n g).splice = f.splice := rfl
@[simp] theorem Fabric.onDesc_keys (q : Nat) (n : BitVec 32) (g : Desc → Desc) : (f.onDesc q n g).keys = f.keys := rfl
@[simp] theorem Fabric.onDesc_env (q : Nat) (n : BitVec 32) (g : Desc → Desc) : (f.onDesc q n g).env = f.env := rfl
@[simp] theorem Fabric.onDesc_fc (q : Nat) (n : BitVec 32) (g : Desc → Desc) : (f.onDesc q n g).fc = f.fc := rfl
@[simp] theorem Fabric.onDesc_ledger (q : Nat) (n : BitVec 32) (g : Desc → Desc) : (f.onDesc q n g).ledger = f.ledger := rfl
@[simp] theorem Fabric.onDesc_rs (q : Nat) (n : BitVec 32) (g : Desc → Desc) : (f.onDesc q n g).rs = f.rs := rfl
@[simp] theorem Fabric.onDesc_ctl (q : Nat) (n : BitVec 32) (g : Desc → Desc) : (f.onDesc q n g).ctl = f.ctl := rfl
@[simp] theorem Fabric.onDesc_tests (q : Nat) (n : BitVec 32) (g : Desc → Desc) : (f.onDesc q n g).tests = f.tests := rfl
@[simp] theorem Fabric.onDesc_tap (q : Nat) (n : BitVec 32) (g : Desc → Desc) : (f.onDesc q n g).tap = f.tap := rfl
@[simp] theorem Fabric.onDesc_mem (q : Nat) (n : BitVec 32) (g : Desc → Desc) : (f.onDesc q n g).mem = f.mem := rfl
@[simp] theorem Fabric.onDesc_writes (q : Nat) (n : BitVec 32) (g : Desc → Desc) : (f.onDesc q n g).writes = f.writes := rfl
@[simp] theorem Fabric.onDesc_free (q : Nat) (n : BitVec 32) (g : Desc → Desc) : (f.onDesc q n g).free = f.free := rfl
@[simp] theorem Fabric.onDesc_out (q : Nat) (n : BitVec 32) (g : Desc → Desc) : (f.onDesc q n g).out = f.out := rfl

/-! ### Fabric.onTag -/

@[simp] theorem Fabric.onTag_frame (n : Nat) (g : Tag → Tag) : (f.onTag n g).frame = f.frame := rfl
@[simp] theorem Fabric.onTag_units (n : Nat) (g : Tag → Tag) : (f.onTag n g).units = f.units := rfl
@[simp] theorem Fabric.onTag_engines (n : Nat) (g : Tag → Tag) : (f.onTag n g).engines = f.engines := rfl
@[simp] theorem Fabric.onTag_slices (n : Nat) (g : Tag → Tag) : (f.onTag n g).slices = f.slices := rfl
@[simp] theorem Fabric.onTag_fns (n : Nat) (g : Tag → Tag) : (f.onTag n g).fns = f.fns := rfl
@[simp] theorem Fabric.onTag_sqs (n : Nat) (g : Tag → Tag) : (f.onTag n g).sqs = f.sqs := rfl
@[simp] theorem Fabric.onTag_accepts (n : Nat) (g : Tag → Tag) : (f.onTag n g).accepts = f.accepts := rfl
@[simp] theorem Fabric.onTag_tags (n : Nat) (g : Tag → Tag) : (f.onTag n g).tags = f.tags.onKey n g := rfl
@[simp] theorem Fabric.onTag_windows (n : Nat) (g : Tag → Tag) : (f.onTag n g).windows = f.windows := rfl
@[simp] theorem Fabric.onTag_remotes (n : Nat) (g : Tag → Tag) : (f.onTag n g).remotes = f.remotes := rfl
@[simp] theorem Fabric.onTag_nextRemote (n : Nat) (g : Tag → Tag) : (f.onTag n g).nextRemote = f.nextRemote := rfl
@[simp] theorem Fabric.onTag_belay (n : Nat) (g : Tag → Tag) : (f.onTag n g).belay = f.belay := rfl
@[simp] theorem Fabric.onTag_cau (n : Nat) (g : Tag → Tag) : (f.onTag n g).cau = f.cau := rfl
@[simp] theorem Fabric.onTag_cleat (n : Nat) (g : Tag → Tag) : (f.onTag n g).cleat = f.cleat := rfl
@[simp] theorem Fabric.onTag_splice (n : Nat) (g : Tag → Tag) : (f.onTag n g).splice = f.splice := rfl
@[simp] theorem Fabric.onTag_keys (n : Nat) (g : Tag → Tag) : (f.onTag n g).keys = f.keys := rfl
@[simp] theorem Fabric.onTag_env (n : Nat) (g : Tag → Tag) : (f.onTag n g).env = f.env := rfl
@[simp] theorem Fabric.onTag_fc (n : Nat) (g : Tag → Tag) : (f.onTag n g).fc = f.fc := rfl
@[simp] theorem Fabric.onTag_ledger (n : Nat) (g : Tag → Tag) : (f.onTag n g).ledger = f.ledger := rfl
@[simp] theorem Fabric.onTag_rs (n : Nat) (g : Tag → Tag) : (f.onTag n g).rs = f.rs := rfl
@[simp] theorem Fabric.onTag_ctl (n : Nat) (g : Tag → Tag) : (f.onTag n g).ctl = f.ctl := rfl
@[simp] theorem Fabric.onTag_tests (n : Nat) (g : Tag → Tag) : (f.onTag n g).tests = f.tests := rfl
@[simp] theorem Fabric.onTag_tap (n : Nat) (g : Tag → Tag) : (f.onTag n g).tap = f.tap := rfl
@[simp] theorem Fabric.onTag_mem (n : Nat) (g : Tag → Tag) : (f.onTag n g).mem = f.mem := rfl
@[simp] theorem Fabric.onTag_writes (n : Nat) (g : Tag → Tag) : (f.onTag n g).writes = f.writes := rfl
@[simp] theorem Fabric.onTag_free (n : Nat) (g : Tag → Tag) : (f.onTag n g).free = f.free := rfl
@[simp] theorem Fabric.onTag_out (n : Nat) (g : Tag → Tag) : (f.onTag n g).out = f.out := rfl

/-! ### Fabric.onCq -/

@[simp] theorem Fabric.onCq_frame (n k : Nat) (g : Cq → Cq) : (f.onCq n k g).frame = f.frame := rfl
@[simp] theorem Fabric.onCq_units (n k : Nat) (g : Cq → Cq) : (f.onCq n k g).units = f.units := rfl
@[simp] theorem Fabric.onCq_engines (n k : Nat) (g : Cq → Cq) : (f.onCq n k g).engines = f.engines := rfl
@[simp] theorem Fabric.onCq_slices (n k : Nat) (g : Cq → Cq) : (f.onCq n k g).slices = f.slices := rfl
@[simp] theorem Fabric.onCq_fns (n k : Nat) (g : Cq → Cq) : (f.onCq n k g).fns = f.fns.upd n {} (fun x => { x with cqs := x.cqs.onKey k g }) := rfl
@[simp] theorem Fabric.onCq_sqs (n k : Nat) (g : Cq → Cq) : (f.onCq n k g).sqs = f.sqs := rfl
@[simp] theorem Fabric.onCq_accepts (n k : Nat) (g : Cq → Cq) : (f.onCq n k g).accepts = f.accepts := rfl
@[simp] theorem Fabric.onCq_tags (n k : Nat) (g : Cq → Cq) : (f.onCq n k g).tags = f.tags := rfl
@[simp] theorem Fabric.onCq_windows (n k : Nat) (g : Cq → Cq) : (f.onCq n k g).windows = f.windows := rfl
@[simp] theorem Fabric.onCq_remotes (n k : Nat) (g : Cq → Cq) : (f.onCq n k g).remotes = f.remotes := rfl
@[simp] theorem Fabric.onCq_nextRemote (n k : Nat) (g : Cq → Cq) : (f.onCq n k g).nextRemote = f.nextRemote := rfl
@[simp] theorem Fabric.onCq_belay (n k : Nat) (g : Cq → Cq) : (f.onCq n k g).belay = f.belay := rfl
@[simp] theorem Fabric.onCq_cau (n k : Nat) (g : Cq → Cq) : (f.onCq n k g).cau = f.cau := rfl
@[simp] theorem Fabric.onCq_cleat (n k : Nat) (g : Cq → Cq) : (f.onCq n k g).cleat = f.cleat := rfl
@[simp] theorem Fabric.onCq_splice (n k : Nat) (g : Cq → Cq) : (f.onCq n k g).splice = f.splice := rfl
@[simp] theorem Fabric.onCq_keys (n k : Nat) (g : Cq → Cq) : (f.onCq n k g).keys = f.keys := rfl
@[simp] theorem Fabric.onCq_env (n k : Nat) (g : Cq → Cq) : (f.onCq n k g).env = f.env := rfl
@[simp] theorem Fabric.onCq_fc (n k : Nat) (g : Cq → Cq) : (f.onCq n k g).fc = f.fc := rfl
@[simp] theorem Fabric.onCq_ledger (n k : Nat) (g : Cq → Cq) : (f.onCq n k g).ledger = f.ledger := rfl
@[simp] theorem Fabric.onCq_rs (n k : Nat) (g : Cq → Cq) : (f.onCq n k g).rs = f.rs := rfl
@[simp] theorem Fabric.onCq_ctl (n k : Nat) (g : Cq → Cq) : (f.onCq n k g).ctl = f.ctl := rfl
@[simp] theorem Fabric.onCq_tests (n k : Nat) (g : Cq → Cq) : (f.onCq n k g).tests = f.tests := rfl
@[simp] theorem Fabric.onCq_tap (n k : Nat) (g : Cq → Cq) : (f.onCq n k g).tap = f.tap := rfl
@[simp] theorem Fabric.onCq_mem (n k : Nat) (g : Cq → Cq) : (f.onCq n k g).mem = f.mem := rfl
@[simp] theorem Fabric.onCq_writes (n k : Nat) (g : Cq → Cq) : (f.onCq n k g).writes = f.writes := rfl
@[simp] theorem Fabric.onCq_free (n k : Nat) (g : Cq → Cq) : (f.onCq n k g).free = f.free := rfl
@[simp] theorem Fabric.onCq_out (n k : Nat) (g : Cq → Cq) : (f.onCq n k g).out = f.out := rfl

/-! ### Fabric.onGroup -/

@[simp] theorem Fabric.onGroup_frame (n : Nat) (g : Group → Group) : (f.onGroup n g).frame = f.frame := rfl
@[simp] theorem Fabric.onGroup_units (n : Nat) (g : Group → Group) : (f.onGroup n g).units = f.units := rfl
@[simp] theorem Fabric.onGroup_engines (n : Nat) (g : Group → Group) : (f.onGroup n g).engines = f.engines := rfl
@[simp] theorem Fabric.onGroup_slices (n : Nat) (g : Group → Group) : (f.onGroup n g).slices = f.slices := rfl
@[simp] theorem Fabric.onGroup_fns (n : Nat) (g : Group → Group) : (f.onGroup n g).fns = f.fns := rfl
@[simp] theorem Fabric.onGroup_sqs (n : Nat) (g : Group → Group) : (f.onGroup n g).sqs = f.sqs := rfl
@[simp] theorem Fabric.onGroup_accepts (n : Nat) (g : Group → Group) : (f.onGroup n g).accepts = f.accepts := rfl
@[simp] theorem Fabric.onGroup_tags (n : Nat) (g : Group → Group) : (f.onGroup n g).tags = f.tags := rfl
@[simp] theorem Fabric.onGroup_windows (n : Nat) (g : Group → Group) : (f.onGroup n g).windows = f.windows := rfl
@[simp] theorem Fabric.onGroup_remotes (n : Nat) (g : Group → Group) : (f.onGroup n g).remotes = f.remotes := rfl
@[simp] theorem Fabric.onGroup_nextRemote (n : Nat) (g : Group → Group) : (f.onGroup n g).nextRemote = f.nextRemote := rfl
@[simp] theorem Fabric.onGroup_belay (n : Nat) (g : Group → Group) : (f.onGroup n g).belay = f.belay := rfl
@[simp] theorem Fabric.onGroup_cau (n : Nat) (g : Group → Group) : (f.onGroup n g).cau = f.cau := rfl
@[simp] theorem Fabric.onGroup_cleat (n : Nat) (g : Group → Group) : (f.onGroup n g).cleat = f.cleat := rfl
@[simp] theorem Fabric.onGroup_splice (n : Nat) (g : Group → Group) : (f.onGroup n g).splice = { f.splice with groups := f.splice.groups.upd n {} g } := rfl
@[simp] theorem Fabric.onGroup_keys (n : Nat) (g : Group → Group) : (f.onGroup n g).keys = f.keys := rfl
@[simp] theorem Fabric.onGroup_env (n : Nat) (g : Group → Group) : (f.onGroup n g).env = f.env := rfl
@[simp] theorem Fabric.onGroup_fc (n : Nat) (g : Group → Group) : (f.onGroup n g).fc = f.fc := rfl
@[simp] theorem Fabric.onGroup_ledger (n : Nat) (g : Group → Group) : (f.onGroup n g).ledger = f.ledger := rfl
@[simp] theorem Fabric.onGroup_rs (n : Nat) (g : Group → Group) : (f.onGroup n g).rs = f.rs := rfl
@[simp] theorem Fabric.onGroup_ctl (n : Nat) (g : Group → Group) : (f.onGroup n g).ctl = f.ctl := rfl
@[simp] theorem Fabric.onGroup_tests (n : Nat) (g : Group → Group) : (f.onGroup n g).tests = f.tests := rfl
@[simp] theorem Fabric.onGroup_tap (n : Nat) (g : Group → Group) : (f.onGroup n g).tap = f.tap := rfl
@[simp] theorem Fabric.onGroup_mem (n : Nat) (g : Group → Group) : (f.onGroup n g).mem = f.mem := rfl
@[simp] theorem Fabric.onGroup_writes (n : Nat) (g : Group → Group) : (f.onGroup n g).writes = f.writes := rfl
@[simp] theorem Fabric.onGroup_free (n : Nat) (g : Group → Group) : (f.onGroup n g).free = f.free := rfl
@[simp] theorem Fabric.onGroup_out (n : Nat) (g : Group → Group) : (f.onGroup n g).out = f.out := rfl

/-! ### Fabric.onWindow -/

@[simp] theorem Fabric.onWindow_frame (w : Nat) (g : Window → Window) : (f.onWindow w g).frame = f.frame := rfl
@[simp] theorem Fabric.onWindow_units (w : Nat) (g : Window → Window) : (f.onWindow w g).units = f.units := rfl
@[simp] theorem Fabric.onWindow_engines (w : Nat) (g : Window → Window) : (f.onWindow w g).engines = f.engines := rfl
@[simp] theorem Fabric.onWindow_slices (w : Nat) (g : Window → Window) : (f.onWindow w g).slices = f.slices := rfl
@[simp] theorem Fabric.onWindow_fns (w : Nat) (g : Window → Window) : (f.onWindow w g).fns = f.fns := rfl
@[simp] theorem Fabric.onWindow_sqs (w : Nat) (g : Window → Window) : (f.onWindow w g).sqs = f.sqs := rfl
@[simp] theorem Fabric.onWindow_accepts (w : Nat) (g : Window → Window) : (f.onWindow w g).accepts = f.accepts := rfl
@[simp] theorem Fabric.onWindow_tags (w : Nat) (g : Window → Window) : (f.onWindow w g).tags = f.tags := rfl
@[simp] theorem Fabric.onWindow_windows (w : Nat) (g : Window → Window) : (f.onWindow w g).windows = f.windows.upd w {} g := rfl
@[simp] theorem Fabric.onWindow_remotes (w : Nat) (g : Window → Window) : (f.onWindow w g).remotes = f.remotes := rfl
@[simp] theorem Fabric.onWindow_nextRemote (w : Nat) (g : Window → Window) : (f.onWindow w g).nextRemote = f.nextRemote := rfl
@[simp] theorem Fabric.onWindow_belay (w : Nat) (g : Window → Window) : (f.onWindow w g).belay = f.belay := rfl
@[simp] theorem Fabric.onWindow_cau (w : Nat) (g : Window → Window) : (f.onWindow w g).cau = f.cau := rfl
@[simp] theorem Fabric.onWindow_cleat (w : Nat) (g : Window → Window) : (f.onWindow w g).cleat = f.cleat := rfl
@[simp] theorem Fabric.onWindow_splice (w : Nat) (g : Window → Window) : (f.onWindow w g).splice = f.splice := rfl
@[simp] theorem Fabric.onWindow_keys (w : Nat) (g : Window → Window) : (f.onWindow w g).keys = f.keys := rfl
@[simp] theorem Fabric.onWindow_env (w : Nat) (g : Window → Window) : (f.onWindow w g).env = f.env := rfl
@[simp] theorem Fabric.onWindow_fc (w : Nat) (g : Window → Window) : (f.onWindow w g).fc = f.fc := rfl
@[simp] theorem Fabric.onWindow_ledger (w : Nat) (g : Window → Window) : (f.onWindow w g).ledger = f.ledger := rfl
@[simp] theorem Fabric.onWindow_rs (w : Nat) (g : Window → Window) : (f.onWindow w g).rs = f.rs := rfl
@[simp] theorem Fabric.onWindow_ctl (w : Nat) (g : Window → Window) : (f.onWindow w g).ctl = f.ctl := rfl
@[simp] theorem Fabric.onWindow_tests (w : Nat) (g : Window → Window) : (f.onWindow w g).tests = f.tests := rfl
@[simp] theorem Fabric.onWindow_tap (w : Nat) (g : Window → Window) : (f.onWindow w g).tap = f.tap := rfl
@[simp] theorem Fabric.onWindow_mem (w : Nat) (g : Window → Window) : (f.onWindow w g).mem = f.mem := rfl
@[simp] theorem Fabric.onWindow_writes (w : Nat) (g : Window → Window) : (f.onWindow w g).writes = f.writes := rfl
@[simp] theorem Fabric.onWindow_free (w : Nat) (g : Window → Window) : (f.onWindow w g).free = f.free := rfl
@[simp] theorem Fabric.onWindow_out (w : Nat) (g : Window → Window) : (f.onWindow w g).out = f.out := rfl

/-! ### Fabric.onSite -/

@[simp] theorem Fabric.onSite_frame (n : Nat) (g : Site → Site) : (f.onSite n g).frame = f.frame := rfl
@[simp] theorem Fabric.onSite_units (n : Nat) (g : Site → Site) : (f.onSite n g).units = f.units := rfl
@[simp] theorem Fabric.onSite_engines (n : Nat) (g : Site → Site) : (f.onSite n g).engines = f.engines := rfl
@[simp] theorem Fabric.onSite_slices (n : Nat) (g : Site → Site) : (f.onSite n g).slices = f.slices := rfl
@[simp] theorem Fabric.onSite_fns (n : Nat) (g : Site → Site) : (f.onSite n g).fns = f.fns := rfl
@[simp] theorem Fabric.onSite_sqs (n : Nat) (g : Site → Site) : (f.onSite n g).sqs = f.sqs := rfl
@[simp] theorem Fabric.onSite_accepts (n : Nat) (g : Site → Site) : (f.onSite n g).accepts = f.accepts := rfl
@[simp] theorem Fabric.onSite_tags (n : Nat) (g : Site → Site) : (f.onSite n g).tags = f.tags := rfl
@[simp] theorem Fabric.onSite_windows (n : Nat) (g : Site → Site) : (f.onSite n g).windows = f.windows := rfl
@[simp] theorem Fabric.onSite_remotes (n : Nat) (g : Site → Site) : (f.onSite n g).remotes = f.remotes := rfl
@[simp] theorem Fabric.onSite_nextRemote (n : Nat) (g : Site → Site) : (f.onSite n g).nextRemote = f.nextRemote := rfl
@[simp] theorem Fabric.onSite_belay (n : Nat) (g : Site → Site) : (f.onSite n g).belay = f.belay := rfl
@[simp] theorem Fabric.onSite_cau (n : Nat) (g : Site → Site) : (f.onSite n g).cau = f.cau := rfl
@[simp] theorem Fabric.onSite_cleat (n : Nat) (g : Site → Site) : (f.onSite n g).cleat = f.cleat := rfl
@[simp] theorem Fabric.onSite_splice (n : Nat) (g : Site → Site) : (f.onSite n g).splice = f.splice := rfl
@[simp] theorem Fabric.onSite_keys (n : Nat) (g : Site → Site) : (f.onSite n g).keys = f.keys := rfl
@[simp] theorem Fabric.onSite_env (n : Nat) (g : Site → Site) : (f.onSite n g).env = f.env := rfl
@[simp] theorem Fabric.onSite_fc (n : Nat) (g : Site → Site) : (f.onSite n g).fc = { f.fc with sites := f.fc.sites.upd n {} g } := rfl
@[simp] theorem Fabric.onSite_ledger (n : Nat) (g : Site → Site) : (f.onSite n g).ledger = f.ledger := rfl
@[simp] theorem Fabric.onSite_rs (n : Nat) (g : Site → Site) : (f.onSite n g).rs = f.rs := rfl
@[simp] theorem Fabric.onSite_ctl (n : Nat) (g : Site → Site) : (f.onSite n g).ctl = f.ctl := rfl
@[simp] theorem Fabric.onSite_tests (n : Nat) (g : Site → Site) : (f.onSite n g).tests = f.tests := rfl
@[simp] theorem Fabric.onSite_tap (n : Nat) (g : Site → Site) : (f.onSite n g).tap = f.tap := rfl
@[simp] theorem Fabric.onSite_mem (n : Nat) (g : Site → Site) : (f.onSite n g).mem = f.mem := rfl
@[simp] theorem Fabric.onSite_writes (n : Nat) (g : Site → Site) : (f.onSite n g).writes = f.writes := rfl
@[simp] theorem Fabric.onSite_free (n : Nat) (g : Site → Site) : (f.onSite n g).free = f.free := rfl
@[simp] theorem Fabric.onSite_out (n : Nat) (g : Site → Site) : (f.onSite n g).out = f.out := rfl

/-! ### Fabric.onReg -/

@[simp] theorem Fabric.onReg_frame (r : Nat) (g : Reg → Reg) : (f.onReg r g).frame = f.frame := rfl
@[simp] theorem Fabric.onReg_units (r : Nat) (g : Reg → Reg) : (f.onReg r g).units = f.units := rfl
@[simp] theorem Fabric.onReg_engines (r : Nat) (g : Reg → Reg) : (f.onReg r g).engines = f.engines := rfl
@[simp] theorem Fabric.onReg_slices (r : Nat) (g : Reg → Reg) : (f.onReg r g).slices = f.slices := rfl
@[simp] theorem Fabric.onReg_fns (r : Nat) (g : Reg → Reg) : (f.onReg r g).fns = f.fns := rfl
@[simp] theorem Fabric.onReg_sqs (r : Nat) (g : Reg → Reg) : (f.onReg r g).sqs = f.sqs := rfl
@[simp] theorem Fabric.onReg_accepts (r : Nat) (g : Reg → Reg) : (f.onReg r g).accepts = f.accepts := rfl
@[simp] theorem Fabric.onReg_tags (r : Nat) (g : Reg → Reg) : (f.onReg r g).tags = f.tags := rfl
@[simp] theorem Fabric.onReg_windows (r : Nat) (g : Reg → Reg) : (f.onReg r g).windows = f.windows := rfl
@[simp] theorem Fabric.onReg_remotes (r : Nat) (g : Reg → Reg) : (f.onReg r g).remotes = f.remotes := rfl
@[simp] theorem Fabric.onReg_nextRemote (r : Nat) (g : Reg → Reg) : (f.onReg r g).nextRemote = f.nextRemote := rfl
@[simp] theorem Fabric.onReg_belay (r : Nat) (g : Reg → Reg) : (f.onReg r g).belay = f.belay := rfl
@[simp] theorem Fabric.onReg_cau (r : Nat) (g : Reg → Reg) : (f.onReg r g).cau = f.cau := rfl
@[simp] theorem Fabric.onReg_cleat (r : Nat) (g : Reg → Reg) : (f.onReg r g).cleat = { f.cleat with regs := f.cleat.regs.upd r {} g } := rfl
@[simp] theorem Fabric.onReg_splice (r : Nat) (g : Reg → Reg) : (f.onReg r g).splice = f.splice := rfl
@[simp] theorem Fabric.onReg_keys (r : Nat) (g : Reg → Reg) : (f.onReg r g).keys = f.keys := rfl
@[simp] theorem Fabric.onReg_env (r : Nat) (g : Reg → Reg) : (f.onReg r g).env = f.env := rfl
@[simp] theorem Fabric.onReg_fc (r : Nat) (g : Reg → Reg) : (f.onReg r g).fc = f.fc := rfl
@[simp] theorem Fabric.onReg_ledger (r : Nat) (g : Reg → Reg) : (f.onReg r g).ledger = f.ledger := rfl
@[simp] theorem Fabric.onReg_rs (r : Nat) (g : Reg → Reg) : (f.onReg r g).rs = f.rs := rfl
@[simp] theorem Fabric.onReg_ctl (r : Nat) (g : Reg → Reg) : (f.onReg r g).ctl = f.ctl := rfl
@[simp] theorem Fabric.onReg_tests (r : Nat) (g : Reg → Reg) : (f.onReg r g).tests = f.tests := rfl
@[simp] theorem Fabric.onReg_tap (r : Nat) (g : Reg → Reg) : (f.onReg r g).tap = f.tap := rfl
@[simp] theorem Fabric.onReg_mem (r : Nat) (g : Reg → Reg) : (f.onReg r g).mem = f.mem := rfl
@[simp] theorem Fabric.onReg_writes (r : Nat) (g : Reg → Reg) : (f.onReg r g).writes = f.writes := rfl
@[simp] theorem Fabric.onReg_free (r : Nat) (g : Reg → Reg) : (f.onReg r g).free = f.free := rfl
@[simp] theorem Fabric.onReg_out (r : Nat) (g : Reg → Reg) : (f.onReg r g).out = f.out := rfl

/-! ### Fabric.onFrame -/

@[simp] theorem Fabric.onFrame_frame (g : Frame → Frame) : (f.onFrame g).frame = g f.frame := rfl
@[simp] theorem Fabric.onFrame_units (g : Frame → Frame) : (f.onFrame g).units = f.units := rfl
@[simp] theorem Fabric.onFrame_engines (g : Frame → Frame) : (f.onFrame g).engines = f.engines := rfl
@[simp] theorem Fabric.onFrame_slices (g : Frame → Frame) : (f.onFrame g).slices = f.slices := rfl
@[simp] theorem Fabric.onFrame_fns (g : Frame → Frame) : (f.onFrame g).fns = f.fns := rfl
@[simp] theorem Fabric.onFrame_sqs (g : Frame → Frame) : (f.onFrame g).sqs = f.sqs := rfl
@[simp] theorem Fabric.onFrame_accepts (g : Frame → Frame) : (f.onFrame g).accepts = f.accepts := rfl
@[simp] theorem Fabric.onFrame_tags (g : Frame → Frame) : (f.onFrame g).tags = f.tags := rfl
@[simp] theorem Fabric.onFrame_windows (g : Frame → Frame) : (f.onFrame g).windows = f.windows := rfl
@[simp] theorem Fabric.onFrame_remotes (g : Frame → Frame) : (f.onFrame g).remotes = f.remotes := rfl
@[simp] theorem Fabric.onFrame_nextRemote (g : Frame → Frame) : (f.onFrame g).nextRemote = f.nextRemote := rfl
@[simp] theorem Fabric.onFrame_belay (g : Frame → Frame) : (f.onFrame g).belay = f.belay := rfl
@[simp] theorem Fabric.onFrame_cau (g : Frame → Frame) : (f.onFrame g).cau = f.cau := rfl
@[simp] theorem Fabric.onFrame_cleat (g : Frame → Frame) : (f.onFrame g).cleat = f.cleat := rfl
@[simp] theorem Fabric.onFrame_splice (g : Frame → Frame) : (f.onFrame g).splice = f.splice := rfl
@[simp] theorem Fabric.onFrame_keys (g : Frame → Frame) : (f.onFrame g).keys = f.keys := rfl
@[simp] theorem Fabric.onFrame_env (g : Frame → Frame) : (f.onFrame g).env = f.env := rfl
@[simp] theorem Fabric.onFrame_fc (g : Frame → Frame) : (f.onFrame g).fc = f.fc := rfl
@[simp] theorem Fabric.onFrame_ledger (g : Frame → Frame) : (f.onFrame g).ledger = f.ledger := rfl
@[simp] theorem Fabric.onFrame_rs (g : Frame → Frame) : (f.onFrame g).rs = f.rs := rfl
@[simp] theorem Fabric.onFrame_ctl (g : Frame → Frame) : (f.onFrame g).ctl = f.ctl := rfl
@[simp] theorem Fabric.onFrame_tests (g : Frame → Frame) : (f.onFrame g).tests = f.tests := rfl
@[simp] theorem Fabric.onFrame_tap (g : Frame → Frame) : (f.onFrame g).tap = f.tap := rfl
@[simp] theorem Fabric.onFrame_mem (g : Frame → Frame) : (f.onFrame g).mem = f.mem := rfl
@[simp] theorem Fabric.onFrame_writes (g : Frame → Frame) : (f.onFrame g).writes = f.writes := rfl
@[simp] theorem Fabric.onFrame_free (g : Frame → Frame) : (f.onFrame g).free = f.free := rfl
@[simp] theorem Fabric.onFrame_out (g : Frame → Frame) : (f.onFrame g).out = f.out := rfl

/-! ### Fabric.onSync -/

@[simp] theorem Fabric.onSync_frame (g : Sync → Sync) : (f.onSync g).frame = { f.frame with sync := g f.frame.sync } := rfl
@[simp] theorem Fabric.onSync_units (g : Sync → Sync) : (f.onSync g).units = f.units := rfl
@[simp] theorem Fabric.onSync_engines (g : Sync → Sync) : (f.onSync g).engines = f.engines := rfl
@[simp] theorem Fabric.onSync_slices (g : Sync → Sync) : (f.onSync g).slices = f.slices := rfl
@[simp] theorem Fabric.onSync_fns (g : Sync → Sync) : (f.onSync g).fns = f.fns := rfl
@[simp] theorem Fabric.onSync_sqs (g : Sync → Sync) : (f.onSync g).sqs = f.sqs := rfl
@[simp] theorem Fabric.onSync_accepts (g : Sync → Sync) : (f.onSync g).accepts = f.accepts := rfl
@[simp] theorem Fabric.onSync_tags (g : Sync → Sync) : (f.onSync g).tags = f.tags := rfl
@[simp] theorem Fabric.onSync_windows (g : Sync → Sync) : (f.onSync g).windows = f.windows := rfl
@[simp] theorem Fabric.onSync_remotes (g : Sync → Sync) : (f.onSync g).remotes = f.remotes := rfl
@[simp] theorem Fabric.onSync_nextRemote (g : Sync → Sync) : (f.onSync g).nextRemote = f.nextRemote := rfl
@[simp] theorem Fabric.onSync_belay (g : Sync → Sync) : (f.onSync g).belay = f.belay := rfl
@[simp] theorem Fabric.onSync_cau (g : Sync → Sync) : (f.onSync g).cau = f.cau := rfl
@[simp] theorem Fabric.onSync_cleat (g : Sync → Sync) : (f.onSync g).cleat = f.cleat := rfl
@[simp] theorem Fabric.onSync_splice (g : Sync → Sync) : (f.onSync g).splice = f.splice := rfl
@[simp] theorem Fabric.onSync_keys (g : Sync → Sync) : (f.onSync g).keys = f.keys := rfl
@[simp] theorem Fabric.onSync_env (g : Sync → Sync) : (f.onSync g).env = f.env := rfl
@[simp] theorem Fabric.onSync_fc (g : Sync → Sync) : (f.onSync g).fc = f.fc := rfl
@[simp] theorem Fabric.onSync_ledger (g : Sync → Sync) : (f.onSync g).ledger = f.ledger := rfl
@[simp] theorem Fabric.onSync_rs (g : Sync → Sync) : (f.onSync g).rs = f.rs := rfl
@[simp] theorem Fabric.onSync_ctl (g : Sync → Sync) : (f.onSync g).ctl = f.ctl := rfl
@[simp] theorem Fabric.onSync_tests (g : Sync → Sync) : (f.onSync g).tests = f.tests := rfl
@[simp] theorem Fabric.onSync_tap (g : Sync → Sync) : (f.onSync g).tap = f.tap := rfl
@[simp] theorem Fabric.onSync_mem (g : Sync → Sync) : (f.onSync g).mem = f.mem := rfl
@[simp] theorem Fabric.onSync_writes (g : Sync → Sync) : (f.onSync g).writes = f.writes := rfl
@[simp] theorem Fabric.onSync_free (g : Sync → Sync) : (f.onSync g).free = f.free := rfl
@[simp] theorem Fabric.onSync_out (g : Sync → Sync) : (f.onSync g).out = f.out := rfl

/-! ### Fabric.onRs -/

@[simp] theorem Fabric.onRs_frame (g : Recovery → Recovery) : (f.onRs g).frame = f.frame := rfl
@[simp] theorem Fabric.onRs_units (g : Recovery → Recovery) : (f.onRs g).units = f.units := rfl
@[simp] theorem Fabric.onRs_engines (g : Recovery → Recovery) : (f.onRs g).engines = f.engines := rfl
@[simp] theorem Fabric.onRs_slices (g : Recovery → Recovery) : (f.onRs g).slices = f.slices := rfl
@[simp] theorem Fabric.onRs_fns (g : Recovery → Recovery) : (f.onRs g).fns = f.fns := rfl
@[simp] theorem Fabric.onRs_sqs (g : Recovery → Recovery) : (f.onRs g).sqs = f.sqs := rfl
@[simp] theorem Fabric.onRs_accepts (g : Recovery → Recovery) : (f.onRs g).accepts = f.accepts := rfl
@[simp] theorem Fabric.onRs_tags (g : Recovery → Recovery) : (f.onRs g).tags = f.tags := rfl
@[simp] theorem Fabric.onRs_windows (g : Recovery → Recovery) : (f.onRs g).windows = f.windows := rfl
@[simp] theorem Fabric.onRs_remotes (g : Recovery → Recovery) : (f.onRs g).remotes = f.remotes := rfl
@[simp] theorem Fabric.onRs_nextRemote (g : Recovery → Recovery) : (f.onRs g).nextRemote = f.nextRemote := rfl
@[simp] theorem Fabric.onRs_belay (g : Recovery → Recovery) : (f.onRs g).belay = f.belay := rfl
@[simp] theorem Fabric.onRs_cau (g : Recovery → Recovery) : (f.onRs g).cau = f.cau := rfl
@[simp] theorem Fabric.onRs_cleat (g : Recovery → Recovery) : (f.onRs g).cleat = f.cleat := rfl
@[simp] theorem Fabric.onRs_splice (g : Recovery → Recovery) : (f.onRs g).splice = f.splice := rfl
@[simp] theorem Fabric.onRs_keys (g : Recovery → Recovery) : (f.onRs g).keys = f.keys := rfl
@[simp] theorem Fabric.onRs_env (g : Recovery → Recovery) : (f.onRs g).env = f.env := rfl
@[simp] theorem Fabric.onRs_fc (g : Recovery → Recovery) : (f.onRs g).fc = f.fc := rfl
@[simp] theorem Fabric.onRs_ledger (g : Recovery → Recovery) : (f.onRs g).ledger = f.ledger := rfl
@[simp] theorem Fabric.onRs_rs (g : Recovery → Recovery) : (f.onRs g).rs = g f.rs := rfl
@[simp] theorem Fabric.onRs_ctl (g : Recovery → Recovery) : (f.onRs g).ctl = f.ctl := rfl
@[simp] theorem Fabric.onRs_tests (g : Recovery → Recovery) : (f.onRs g).tests = f.tests := rfl
@[simp] theorem Fabric.onRs_tap (g : Recovery → Recovery) : (f.onRs g).tap = f.tap := rfl
@[simp] theorem Fabric.onRs_mem (g : Recovery → Recovery) : (f.onRs g).mem = f.mem := rfl
@[simp] theorem Fabric.onRs_writes (g : Recovery → Recovery) : (f.onRs g).writes = f.writes := rfl
@[simp] theorem Fabric.onRs_free (g : Recovery → Recovery) : (f.onRs g).free = f.free := rfl
@[simp] theorem Fabric.onRs_out (g : Recovery → Recovery) : (f.onRs g).out = f.out := rfl

/-! ### Fabric.onCtl -/

@[simp] theorem Fabric.onCtl_frame (g : Ctl → Ctl) : (f.onCtl g).frame = f.frame := rfl
@[simp] theorem Fabric.onCtl_units (g : Ctl → Ctl) : (f.onCtl g).units = f.units := rfl
@[simp] theorem Fabric.onCtl_engines (g : Ctl → Ctl) : (f.onCtl g).engines = f.engines := rfl
@[simp] theorem Fabric.onCtl_slices (g : Ctl → Ctl) : (f.onCtl g).slices = f.slices := rfl
@[simp] theorem Fabric.onCtl_fns (g : Ctl → Ctl) : (f.onCtl g).fns = f.fns := rfl
@[simp] theorem Fabric.onCtl_sqs (g : Ctl → Ctl) : (f.onCtl g).sqs = f.sqs := rfl
@[simp] theorem Fabric.onCtl_accepts (g : Ctl → Ctl) : (f.onCtl g).accepts = f.accepts := rfl
@[simp] theorem Fabric.onCtl_tags (g : Ctl → Ctl) : (f.onCtl g).tags = f.tags := rfl
@[simp] theorem Fabric.onCtl_windows (g : Ctl → Ctl) : (f.onCtl g).windows = f.windows := rfl
@[simp] theorem Fabric.onCtl_remotes (g : Ctl → Ctl) : (f.onCtl g).remotes = f.remotes := rfl
@[simp] theorem Fabric.onCtl_nextRemote (g : Ctl → Ctl) : (f.onCtl g).nextRemote = f.nextRemote := rfl
@[simp] theorem Fabric.onCtl_belay (g : Ctl → Ctl) : (f.onCtl g).belay = f.belay := rfl
@[simp] theorem Fabric.onCtl_cau (g : Ctl → Ctl) : (f.onCtl g).cau = f.cau := rfl
@[simp] theorem Fabric.onCtl_cleat (g : Ctl → Ctl) : (f.onCtl g).cleat = f.cleat := rfl
@[simp] theorem Fabric.onCtl_splice (g : Ctl → Ctl) : (f.onCtl g).splice = f.splice := rfl
@[simp] theorem Fabric.onCtl_keys (g : Ctl → Ctl) : (f.onCtl g).keys = f.keys := rfl
@[simp] theorem Fabric.onCtl_env (g : Ctl → Ctl) : (f.onCtl g).env = f.env := rfl
@[simp] theorem Fabric.onCtl_fc (g : Ctl → Ctl) : (f.onCtl g).fc = f.fc := rfl
@[simp] theorem Fabric.onCtl_ledger (g : Ctl → Ctl) : (f.onCtl g).ledger = f.ledger := rfl
@[simp] theorem Fabric.onCtl_rs (g : Ctl → Ctl) : (f.onCtl g).rs = f.rs := rfl
@[simp] theorem Fabric.onCtl_ctl (g : Ctl → Ctl) : (f.onCtl g).ctl = g f.ctl := rfl
@[simp] theorem Fabric.onCtl_tests (g : Ctl → Ctl) : (f.onCtl g).tests = f.tests := rfl
@[simp] theorem Fabric.onCtl_tap (g : Ctl → Ctl) : (f.onCtl g).tap = f.tap := rfl
@[simp] theorem Fabric.onCtl_mem (g : Ctl → Ctl) : (f.onCtl g).mem = f.mem := rfl
@[simp] theorem Fabric.onCtl_writes (g : Ctl → Ctl) : (f.onCtl g).writes = f.writes := rfl
@[simp] theorem Fabric.onCtl_free (g : Ctl → Ctl) : (f.onCtl g).free = f.free := rfl
@[simp] theorem Fabric.onCtl_out (g : Ctl → Ctl) : (f.onCtl g).out = f.out := rfl

/-! ### Fabric.onFc -/

@[simp] theorem Fabric.onFc_frame (g : Fc → Fc) : (f.onFc g).frame = f.frame := rfl
@[simp] theorem Fabric.onFc_units (g : Fc → Fc) : (f.onFc g).units = f.units := rfl
@[simp] theorem Fabric.onFc_engines (g : Fc → Fc) : (f.onFc g).engines = f.engines := rfl
@[simp] theorem Fabric.onFc_slices (g : Fc → Fc) : (f.onFc g).slices = f.slices := rfl
@[simp] theorem Fabric.onFc_fns (g : Fc → Fc) : (f.onFc g).fns = f.fns := rfl
@[simp] theorem Fabric.onFc_sqs (g : Fc → Fc) : (f.onFc g).sqs = f.sqs := rfl
@[simp] theorem Fabric.onFc_accepts (g : Fc → Fc) : (f.onFc g).accepts = f.accepts := rfl
@[simp] theorem Fabric.onFc_tags (g : Fc → Fc) : (f.onFc g).tags = f.tags := rfl
@[simp] theorem Fabric.onFc_windows (g : Fc → Fc) : (f.onFc g).windows = f.windows := rfl
@[simp] theorem Fabric.onFc_remotes (g : Fc → Fc) : (f.onFc g).remotes = f.remotes := rfl
@[simp] theorem Fabric.onFc_nextRemote (g : Fc → Fc) : (f.onFc g).nextRemote = f.nextRemote := rfl
@[simp] theorem Fabric.onFc_belay (g : Fc → Fc) : (f.onFc g).belay = f.belay := rfl
@[simp] theorem Fabric.onFc_cau (g : Fc → Fc) : (f.onFc g).cau = f.cau := rfl
@[simp] theorem Fabric.onFc_cleat (g : Fc → Fc) : (f.onFc g).cleat = f.cleat := rfl
@[simp] theorem Fabric.onFc_splice (g : Fc → Fc) : (f.onFc g).splice = f.splice := rfl
@[simp] theorem Fabric.onFc_keys (g : Fc → Fc) : (f.onFc g).keys = f.keys := rfl
@[simp] theorem Fabric.onFc_env (g : Fc → Fc) : (f.onFc g).env = f.env := rfl
@[simp] theorem Fabric.onFc_fc (g : Fc → Fc) : (f.onFc g).fc = g f.fc := rfl
@[simp] theorem Fabric.onFc_ledger (g : Fc → Fc) : (f.onFc g).ledger = f.ledger := rfl
@[simp] theorem Fabric.onFc_rs (g : Fc → Fc) : (f.onFc g).rs = f.rs := rfl
@[simp] theorem Fabric.onFc_ctl (g : Fc → Fc) : (f.onFc g).ctl = f.ctl := rfl
@[simp] theorem Fabric.onFc_tests (g : Fc → Fc) : (f.onFc g).tests = f.tests := rfl
@[simp] theorem Fabric.onFc_tap (g : Fc → Fc) : (f.onFc g).tap = f.tap := rfl
@[simp] theorem Fabric.onFc_mem (g : Fc → Fc) : (f.onFc g).mem = f.mem := rfl
@[simp] theorem Fabric.onFc_writes (g : Fc → Fc) : (f.onFc g).writes = f.writes := rfl
@[simp] theorem Fabric.onFc_free (g : Fc → Fc) : (f.onFc g).free = f.free := rfl
@[simp] theorem Fabric.onFc_out (g : Fc → Fc) : (f.onFc g).out = f.out := rfl

/-! ### Fabric.onKeys -/

@[simp] theorem Fabric.onKeys_frame (g : Keys → Keys) : (f.onKeys g).frame = f.frame := rfl
@[simp] theorem Fabric.onKeys_units (g : Keys → Keys) : (f.onKeys g).units = f.units := rfl
@[simp] theorem Fabric.onKeys_engines (g : Keys → Keys) : (f.onKeys g).engines = f.engines := rfl
@[simp] theorem Fabric.onKeys_slices (g : Keys → Keys) : (f.onKeys g).slices = f.slices := rfl
@[simp] theorem Fabric.onKeys_fns (g : Keys → Keys) : (f.onKeys g).fns = f.fns := rfl
@[simp] theorem Fabric.onKeys_sqs (g : Keys → Keys) : (f.onKeys g).sqs = f.sqs := rfl
@[simp] theorem Fabric.onKeys_accepts (g : Keys → Keys) : (f.onKeys g).accepts = f.accepts := rfl
@[simp] theorem Fabric.onKeys_tags (g : Keys → Keys) : (f.onKeys g).tags = f.tags := rfl
@[simp] theorem Fabric.onKeys_windows (g : Keys → Keys) : (f.onKeys g).windows = f.windows := rfl
@[simp] theorem Fabric.onKeys_remotes (g : Keys → Keys) : (f.onKeys g).remotes = f.remotes := rfl
@[simp] theorem Fabric.onKeys_nextRemote (g : Keys → Keys) : (f.onKeys g).nextRemote = f.nextRemote := rfl
@[simp] theorem Fabric.onKeys_belay (g : Keys → Keys) : (f.onKeys g).belay = f.belay := rfl
@[simp] theorem Fabric.onKeys_cau (g : Keys → Keys) : (f.onKeys g).cau = f.cau := rfl
@[simp] theorem Fabric.onKeys_cleat (g : Keys → Keys) : (f.onKeys g).cleat = f.cleat := rfl
@[simp] theorem Fabric.onKeys_splice (g : Keys → Keys) : (f.onKeys g).splice = f.splice := rfl
@[simp] theorem Fabric.onKeys_keys (g : Keys → Keys) : (f.onKeys g).keys = g f.keys := rfl
@[simp] theorem Fabric.onKeys_env (g : Keys → Keys) : (f.onKeys g).env = f.env := rfl
@[simp] theorem Fabric.onKeys_fc (g : Keys → Keys) : (f.onKeys g).fc = f.fc := rfl
@[simp] theorem Fabric.onKeys_ledger (g : Keys → Keys) : (f.onKeys g).ledger = f.ledger := rfl
@[simp] theorem Fabric.onKeys_rs (g : Keys → Keys) : (f.onKeys g).rs = f.rs := rfl
@[simp] theorem Fabric.onKeys_ctl (g : Keys → Keys) : (f.onKeys g).ctl = f.ctl := rfl
@[simp] theorem Fabric.onKeys_tests (g : Keys → Keys) : (f.onKeys g).tests = f.tests := rfl
@[simp] theorem Fabric.onKeys_tap (g : Keys → Keys) : (f.onKeys g).tap = f.tap := rfl
@[simp] theorem Fabric.onKeys_mem (g : Keys → Keys) : (f.onKeys g).mem = f.mem := rfl
@[simp] theorem Fabric.onKeys_writes (g : Keys → Keys) : (f.onKeys g).writes = f.writes := rfl
@[simp] theorem Fabric.onKeys_free (g : Keys → Keys) : (f.onKeys g).free = f.free := rfl
@[simp] theorem Fabric.onKeys_out (g : Keys → Keys) : (f.onKeys g).out = f.out := rfl

/-! ### Fabric.onCleat -/

@[simp] theorem Fabric.onCleat_frame (g : Cleat → Cleat) : (f.onCleat g).frame = f.frame := rfl
@[simp] theorem Fabric.onCleat_units (g : Cleat → Cleat) : (f.onCleat g).units = f.units := rfl
@[simp] theorem Fabric.onCleat_engines (g : Cleat → Cleat) : (f.onCleat g).engines = f.engines := rfl
@[simp] theorem Fabric.onCleat_slices (g : Cleat → Cleat) : (f.onCleat g).slices = f.slices := rfl
@[simp] theorem Fabric.onCleat_fns (g : Cleat → Cleat) : (f.onCleat g).fns = f.fns := rfl
@[simp] theorem Fabric.onCleat_sqs (g : Cleat → Cleat) : (f.onCleat g).sqs = f.sqs := rfl
@[simp] theorem Fabric.onCleat_accepts (g : Cleat → Cleat) : (f.onCleat g).accepts = f.accepts := rfl
@[simp] theorem Fabric.onCleat_tags (g : Cleat → Cleat) : (f.onCleat g).tags = f.tags := rfl
@[simp] theorem Fabric.onCleat_windows (g : Cleat → Cleat) : (f.onCleat g).windows = f.windows := rfl
@[simp] theorem Fabric.onCleat_remotes (g : Cleat → Cleat) : (f.onCleat g).remotes = f.remotes := rfl
@[simp] theorem Fabric.onCleat_nextRemote (g : Cleat → Cleat) : (f.onCleat g).nextRemote = f.nextRemote := rfl
@[simp] theorem Fabric.onCleat_belay (g : Cleat → Cleat) : (f.onCleat g).belay = f.belay := rfl
@[simp] theorem Fabric.onCleat_cau (g : Cleat → Cleat) : (f.onCleat g).cau = f.cau := rfl
@[simp] theorem Fabric.onCleat_cleat (g : Cleat → Cleat) : (f.onCleat g).cleat = g f.cleat := rfl
@[simp] theorem Fabric.onCleat_splice (g : Cleat → Cleat) : (f.onCleat g).splice = f.splice := rfl
@[simp] theorem Fabric.onCleat_keys (g : Cleat → Cleat) : (f.onCleat g).keys = f.keys := rfl
@[simp] theorem Fabric.onCleat_env (g : Cleat → Cleat) : (f.onCleat g).env = f.env := rfl
@[simp] theorem Fabric.onCleat_fc (g : Cleat → Cleat) : (f.onCleat g).fc = f.fc := rfl
@[simp] theorem Fabric.onCleat_ledger (g : Cleat → Cleat) : (f.onCleat g).ledger = f.ledger := rfl
@[simp] theorem Fabric.onCleat_rs (g : Cleat → Cleat) : (f.onCleat g).rs = f.rs := rfl
@[simp] theorem Fabric.onCleat_ctl (g : Cleat → Cleat) : (f.onCleat g).ctl = f.ctl := rfl
@[simp] theorem Fabric.onCleat_tests (g : Cleat → Cleat) : (f.onCleat g).tests = f.tests := rfl
@[simp] theorem Fabric.onCleat_tap (g : Cleat → Cleat) : (f.onCleat g).tap = f.tap := rfl
@[simp] theorem Fabric.onCleat_mem (g : Cleat → Cleat) : (f.onCleat g).mem = f.mem := rfl
@[simp] theorem Fabric.onCleat_writes (g : Cleat → Cleat) : (f.onCleat g).writes = f.writes := rfl
@[simp] theorem Fabric.onCleat_free (g : Cleat → Cleat) : (f.onCleat g).free = f.free := rfl
@[simp] theorem Fabric.onCleat_out (g : Cleat → Cleat) : (f.onCleat g).out = f.out := rfl

/-! ### Fabric.onCau -/

@[simp] theorem Fabric.onCau_frame (g : Cau → Cau) : (f.onCau g).frame = f.frame := rfl
@[simp] theorem Fabric.onCau_units (g : Cau → Cau) : (f.onCau g).units = f.units := rfl
@[simp] theorem Fabric.onCau_engines (g : Cau → Cau) : (f.onCau g).engines = f.engines := rfl
@[simp] theorem Fabric.onCau_slices (g : Cau → Cau) : (f.onCau g).slices = f.slices := rfl
@[simp] theorem Fabric.onCau_fns (g : Cau → Cau) : (f.onCau g).fns = f.fns := rfl
@[simp] theorem Fabric.onCau_sqs (g : Cau → Cau) : (f.onCau g).sqs = f.sqs := rfl
@[simp] theorem Fabric.onCau_accepts (g : Cau → Cau) : (f.onCau g).accepts = f.accepts := rfl
@[simp] theorem Fabric.onCau_tags (g : Cau → Cau) : (f.onCau g).tags = f.tags := rfl
@[simp] theorem Fabric.onCau_windows (g : Cau → Cau) : (f.onCau g).windows = f.windows := rfl
@[simp] theorem Fabric.onCau_remotes (g : Cau → Cau) : (f.onCau g).remotes = f.remotes := rfl
@[simp] theorem Fabric.onCau_nextRemote (g : Cau → Cau) : (f.onCau g).nextRemote = f.nextRemote := rfl
@[simp] theorem Fabric.onCau_belay (g : Cau → Cau) : (f.onCau g).belay = f.belay := rfl
@[simp] theorem Fabric.onCau_cau (g : Cau → Cau) : (f.onCau g).cau = g f.cau := rfl
@[simp] theorem Fabric.onCau_cleat (g : Cau → Cau) : (f.onCau g).cleat = f.cleat := rfl
@[simp] theorem Fabric.onCau_splice (g : Cau → Cau) : (f.onCau g).splice = f.splice := rfl
@[simp] theorem Fabric.onCau_keys (g : Cau → Cau) : (f.onCau g).keys = f.keys := rfl
@[simp] theorem Fabric.onCau_env (g : Cau → Cau) : (f.onCau g).env = f.env := rfl
@[simp] theorem Fabric.onCau_fc (g : Cau → Cau) : (f.onCau g).fc = f.fc := rfl
@[simp] theorem Fabric.onCau_ledger (g : Cau → Cau) : (f.onCau g).ledger = f.ledger := rfl
@[simp] theorem Fabric.onCau_rs (g : Cau → Cau) : (f.onCau g).rs = f.rs := rfl
@[simp] theorem Fabric.onCau_ctl (g : Cau → Cau) : (f.onCau g).ctl = f.ctl := rfl
@[simp] theorem Fabric.onCau_tests (g : Cau → Cau) : (f.onCau g).tests = f.tests := rfl
@[simp] theorem Fabric.onCau_tap (g : Cau → Cau) : (f.onCau g).tap = f.tap := rfl
@[simp] theorem Fabric.onCau_mem (g : Cau → Cau) : (f.onCau g).mem = f.mem := rfl
@[simp] theorem Fabric.onCau_writes (g : Cau → Cau) : (f.onCau g).writes = f.writes := rfl
@[simp] theorem Fabric.onCau_free (g : Cau → Cau) : (f.onCau g).free = f.free := rfl
@[simp] theorem Fabric.onCau_out (g : Cau → Cau) : (f.onCau g).out = f.out := rfl

/-! ### Fabric.onEnv -/

@[simp] theorem Fabric.onEnv_frame (g : Env → Env) : (f.onEnv g).frame = f.frame := rfl
@[simp] theorem Fabric.onEnv_units (g : Env → Env) : (f.onEnv g).units = f.units := rfl
@[simp] theorem Fabric.onEnv_engines (g : Env → Env) : (f.onEnv g).engines = f.engines := rfl
@[simp] theorem Fabric.onEnv_slices (g : Env → Env) : (f.onEnv g).slices = f.slices := rfl
@[simp] theorem Fabric.onEnv_fns (g : Env → Env) : (f.onEnv g).fns = f.fns := rfl
@[simp] theorem Fabric.onEnv_sqs (g : Env → Env) : (f.onEnv g).sqs = f.sqs := rfl
@[simp] theorem Fabric.onEnv_accepts (g : Env → Env) : (f.onEnv g).accepts = f.accepts := rfl
@[simp] theorem Fabric.onEnv_tags (g : Env → Env) : (f.onEnv g).tags = f.tags := rfl
@[simp] theorem Fabric.onEnv_windows (g : Env → Env) : (f.onEnv g).windows = f.windows := rfl
@[simp] theorem Fabric.onEnv_remotes (g : Env → Env) : (f.onEnv g).remotes = f.remotes := rfl
@[simp] theorem Fabric.onEnv_nextRemote (g : Env → Env) : (f.onEnv g).nextRemote = f.nextRemote := rfl
@[simp] theorem Fabric.onEnv_belay (g : Env → Env) : (f.onEnv g).belay = f.belay := rfl
@[simp] theorem Fabric.onEnv_cau (g : Env → Env) : (f.onEnv g).cau = f.cau := rfl
@[simp] theorem Fabric.onEnv_cleat (g : Env → Env) : (f.onEnv g).cleat = f.cleat := rfl
@[simp] theorem Fabric.onEnv_splice (g : Env → Env) : (f.onEnv g).splice = f.splice := rfl
@[simp] theorem Fabric.onEnv_keys (g : Env → Env) : (f.onEnv g).keys = f.keys := rfl
@[simp] theorem Fabric.onEnv_env (g : Env → Env) : (f.onEnv g).env = g f.env := rfl
@[simp] theorem Fabric.onEnv_fc (g : Env → Env) : (f.onEnv g).fc = f.fc := rfl
@[simp] theorem Fabric.onEnv_ledger (g : Env → Env) : (f.onEnv g).ledger = f.ledger := rfl
@[simp] theorem Fabric.onEnv_rs (g : Env → Env) : (f.onEnv g).rs = f.rs := rfl
@[simp] theorem Fabric.onEnv_ctl (g : Env → Env) : (f.onEnv g).ctl = f.ctl := rfl
@[simp] theorem Fabric.onEnv_tests (g : Env → Env) : (f.onEnv g).tests = f.tests := rfl
@[simp] theorem Fabric.onEnv_tap (g : Env → Env) : (f.onEnv g).tap = f.tap := rfl
@[simp] theorem Fabric.onEnv_mem (g : Env → Env) : (f.onEnv g).mem = f.mem := rfl
@[simp] theorem Fabric.onEnv_writes (g : Env → Env) : (f.onEnv g).writes = f.writes := rfl
@[simp] theorem Fabric.onEnv_free (g : Env → Env) : (f.onEnv g).free = f.free := rfl
@[simp] theorem Fabric.onEnv_out (g : Env → Env) : (f.onEnv g).out = f.out := rfl

/-! ### Fabric.onLedger -/

@[simp] theorem Fabric.onLedger_frame (g : Ledger → Ledger) : (f.onLedger g).frame = f.frame := rfl
@[simp] theorem Fabric.onLedger_units (g : Ledger → Ledger) : (f.onLedger g).units = f.units := rfl
@[simp] theorem Fabric.onLedger_engines (g : Ledger → Ledger) : (f.onLedger g).engines = f.engines := rfl
@[simp] theorem Fabric.onLedger_slices (g : Ledger → Ledger) : (f.onLedger g).slices = f.slices := rfl
@[simp] theorem Fabric.onLedger_fns (g : Ledger → Ledger) : (f.onLedger g).fns = f.fns := rfl
@[simp] theorem Fabric.onLedger_sqs (g : Ledger → Ledger) : (f.onLedger g).sqs = f.sqs := rfl
@[simp] theorem Fabric.onLedger_accepts (g : Ledger → Ledger) : (f.onLedger g).accepts = f.accepts := rfl
@[simp] theorem Fabric.onLedger_tags (g : Ledger → Ledger) : (f.onLedger g).tags = f.tags := rfl
@[simp] theorem Fabric.onLedger_windows (g : Ledger → Ledger) : (f.onLedger g).windows = f.windows := rfl
@[simp] theorem Fabric.onLedger_remotes (g : Ledger → Ledger) : (f.onLedger g).remotes = f.remotes := rfl
@[simp] theorem Fabric.onLedger_nextRemote (g : Ledger → Ledger) : (f.onLedger g).nextRemote = f.nextRemote := rfl
@[simp] theorem Fabric.onLedger_belay (g : Ledger → Ledger) : (f.onLedger g).belay = f.belay := rfl
@[simp] theorem Fabric.onLedger_cau (g : Ledger → Ledger) : (f.onLedger g).cau = f.cau := rfl
@[simp] theorem Fabric.onLedger_cleat (g : Ledger → Ledger) : (f.onLedger g).cleat = f.cleat := rfl
@[simp] theorem Fabric.onLedger_splice (g : Ledger → Ledger) : (f.onLedger g).splice = f.splice := rfl
@[simp] theorem Fabric.onLedger_keys (g : Ledger → Ledger) : (f.onLedger g).keys = f.keys := rfl
@[simp] theorem Fabric.onLedger_env (g : Ledger → Ledger) : (f.onLedger g).env = f.env := rfl
@[simp] theorem Fabric.onLedger_fc (g : Ledger → Ledger) : (f.onLedger g).fc = f.fc := rfl
@[simp] theorem Fabric.onLedger_ledger (g : Ledger → Ledger) : (f.onLedger g).ledger = g f.ledger := rfl
@[simp] theorem Fabric.onLedger_rs (g : Ledger → Ledger) : (f.onLedger g).rs = f.rs := rfl
@[simp] theorem Fabric.onLedger_ctl (g : Ledger → Ledger) : (f.onLedger g).ctl = f.ctl := rfl
@[simp] theorem Fabric.onLedger_tests (g : Ledger → Ledger) : (f.onLedger g).tests = f.tests := rfl
@[simp] theorem Fabric.onLedger_tap (g : Ledger → Ledger) : (f.onLedger g).tap = f.tap := rfl
@[simp] theorem Fabric.onLedger_mem (g : Ledger → Ledger) : (f.onLedger g).mem = f.mem := rfl
@[simp] theorem Fabric.onLedger_writes (g : Ledger → Ledger) : (f.onLedger g).writes = f.writes := rfl
@[simp] theorem Fabric.onLedger_free (g : Ledger → Ledger) : (f.onLedger g).free = f.free := rfl
@[simp] theorem Fabric.onLedger_out (g : Ledger → Ledger) : (f.onLedger g).out = f.out := rfl

/-! ### Fabric.onTu -/

@[simp] theorem Fabric.onTu_frame (s : Nat) (g : SliceTu → SliceTu) : (f.onTu s g).frame = f.frame := rfl
@[simp] theorem Fabric.onTu_units (s : Nat) (g : SliceTu → SliceTu) : (f.onTu s g).units = f.units := rfl
@[simp] theorem Fabric.onTu_engines (s : Nat) (g : SliceTu → SliceTu) : (f.onTu s g).engines = f.engines := rfl
@[simp] theorem Fabric.onTu_slices (s : Nat) (g : SliceTu → SliceTu) : (f.onTu s g).slices = f.slices.upd s {} (fun x => { x with tu := g x.tu }) := rfl
@[simp] theorem Fabric.onTu_fns (s : Nat) (g : SliceTu → SliceTu) : (f.onTu s g).fns = f.fns := rfl
@[simp] theorem Fabric.onTu_sqs (s : Nat) (g : SliceTu → SliceTu) : (f.onTu s g).sqs = f.sqs := rfl
@[simp] theorem Fabric.onTu_accepts (s : Nat) (g : SliceTu → SliceTu) : (f.onTu s g).accepts = f.accepts := rfl
@[simp] theorem Fabric.onTu_tags (s : Nat) (g : SliceTu → SliceTu) : (f.onTu s g).tags = f.tags := rfl
@[simp] theorem Fabric.onTu_windows (s : Nat) (g : SliceTu → SliceTu) : (f.onTu s g).windows = f.windows := rfl
@[simp] theorem Fabric.onTu_remotes (s : Nat) (g : SliceTu → SliceTu) : (f.onTu s g).remotes = f.remotes := rfl
@[simp] theorem Fabric.onTu_nextRemote (s : Nat) (g : SliceTu → SliceTu) : (f.onTu s g).nextRemote = f.nextRemote := rfl
@[simp] theorem Fabric.onTu_belay (s : Nat) (g : SliceTu → SliceTu) : (f.onTu s g).belay = f.belay := rfl
@[simp] theorem Fabric.onTu_cau (s : Nat) (g : SliceTu → SliceTu) : (f.onTu s g).cau = f.cau := rfl
@[simp] theorem Fabric.onTu_cleat (s : Nat) (g : SliceTu → SliceTu) : (f.onTu s g).cleat = f.cleat := rfl
@[simp] theorem Fabric.onTu_splice (s : Nat) (g : SliceTu → SliceTu) : (f.onTu s g).splice = f.splice := rfl
@[simp] theorem Fabric.onTu_keys (s : Nat) (g : SliceTu → SliceTu) : (f.onTu s g).keys = f.keys := rfl
@[simp] theorem Fabric.onTu_env (s : Nat) (g : SliceTu → SliceTu) : (f.onTu s g).env = f.env := rfl
@[simp] theorem Fabric.onTu_fc (s : Nat) (g : SliceTu → SliceTu) : (f.onTu s g).fc = f.fc := rfl
@[simp] theorem Fabric.onTu_ledger (s : Nat) (g : SliceTu → SliceTu) : (f.onTu s g).ledger = f.ledger := rfl
@[simp] theorem Fabric.onTu_rs (s : Nat) (g : SliceTu → SliceTu) : (f.onTu s g).rs = f.rs := rfl
@[simp] theorem Fabric.onTu_ctl (s : Nat) (g : SliceTu → SliceTu) : (f.onTu s g).ctl = f.ctl := rfl
@[simp] theorem Fabric.onTu_tests (s : Nat) (g : SliceTu → SliceTu) : (f.onTu s g).tests = f.tests := rfl
@[simp] theorem Fabric.onTu_tap (s : Nat) (g : SliceTu → SliceTu) : (f.onTu s g).tap = f.tap := rfl
@[simp] theorem Fabric.onTu_mem (s : Nat) (g : SliceTu → SliceTu) : (f.onTu s g).mem = f.mem := rfl
@[simp] theorem Fabric.onTu_writes (s : Nat) (g : SliceTu → SliceTu) : (f.onTu s g).writes = f.writes := rfl
@[simp] theorem Fabric.onTu_free (s : Nat) (g : SliceTu → SliceTu) : (f.onTu s g).free = f.free := rfl
@[simp] theorem Fabric.onTu_out (s : Nat) (g : SliceTu → SliceTu) : (f.onTu s g).out = f.out := rfl

/-! ### Fabric.onLive -/

@[simp] theorem Fabric.onLive_frame (s : Nat) (g : Counts → Counts) : (f.onLive s g).frame = f.frame := rfl
@[simp] theorem Fabric.onLive_units (s : Nat) (g : Counts → Counts) : (f.onLive s g).units = f.units := rfl
@[simp] theorem Fabric.onLive_engines (s : Nat) (g : Counts → Counts) : (f.onLive s g).engines = f.engines := rfl
@[simp] theorem Fabric.onLive_slices (s : Nat) (g : Counts → Counts) : (f.onLive s g).slices = f.slices.upd s {} (fun x => { x with live := g x.live }) := rfl
@[simp] theorem Fabric.onLive_fns (s : Nat) (g : Counts → Counts) : (f.onLive s g).fns = f.fns := rfl
@[simp] theorem Fabric.onLive_sqs (s : Nat) (g : Counts → Counts) : (f.onLive s g).sqs = f.sqs := rfl
@[simp] theorem Fabric.onLive_accepts (s : Nat) (g : Counts → Counts) : (f.onLive s g).accepts = f.accepts := rfl
@[simp] theorem Fabric.onLive_tags (s : Nat) (g : Counts → Counts) : (f.onLive s g).tags = f.tags := rfl
@[simp] theorem Fabric.onLive_windows (s : Nat) (g : Counts → Counts) : (f.onLive s g).windows = f.windows := rfl
@[simp] theorem Fabric.onLive_remotes (s : Nat) (g : Counts → Counts) : (f.onLive s g).remotes = f.remotes := rfl
@[simp] theorem Fabric.onLive_nextRemote (s : Nat) (g : Counts → Counts) : (f.onLive s g).nextRemote = f.nextRemote := rfl
@[simp] theorem Fabric.onLive_belay (s : Nat) (g : Counts → Counts) : (f.onLive s g).belay = f.belay := rfl
@[simp] theorem Fabric.onLive_cau (s : Nat) (g : Counts → Counts) : (f.onLive s g).cau = f.cau := rfl
@[simp] theorem Fabric.onLive_cleat (s : Nat) (g : Counts → Counts) : (f.onLive s g).cleat = f.cleat := rfl
@[simp] theorem Fabric.onLive_splice (s : Nat) (g : Counts → Counts) : (f.onLive s g).splice = f.splice := rfl
@[simp] theorem Fabric.onLive_keys (s : Nat) (g : Counts → Counts) : (f.onLive s g).keys = f.keys := rfl
@[simp] theorem Fabric.onLive_env (s : Nat) (g : Counts → Counts) : (f.onLive s g).env = f.env := rfl
@[simp] theorem Fabric.onLive_fc (s : Nat) (g : Counts → Counts) : (f.onLive s g).fc = f.fc := rfl
@[simp] theorem Fabric.onLive_ledger (s : Nat) (g : Counts → Counts) : (f.onLive s g).ledger = f.ledger := rfl
@[simp] theorem Fabric.onLive_rs (s : Nat) (g : Counts → Counts) : (f.onLive s g).rs = f.rs := rfl
@[simp] theorem Fabric.onLive_ctl (s : Nat) (g : Counts → Counts) : (f.onLive s g).ctl = f.ctl := rfl
@[simp] theorem Fabric.onLive_tests (s : Nat) (g : Counts → Counts) : (f.onLive s g).tests = f.tests := rfl
@[simp] theorem Fabric.onLive_tap (s : Nat) (g : Counts → Counts) : (f.onLive s g).tap = f.tap := rfl
@[simp] theorem Fabric.onLive_mem (s : Nat) (g : Counts → Counts) : (f.onLive s g).mem = f.mem := rfl
@[simp] theorem Fabric.onLive_writes (s : Nat) (g : Counts → Counts) : (f.onLive s g).writes = f.writes := rfl
@[simp] theorem Fabric.onLive_free (s : Nat) (g : Counts → Counts) : (f.onLive s g).free = f.free := rfl
@[simp] theorem Fabric.onLive_out (s : Nat) (g : Counts → Counts) : (f.onLive s g).out = f.out := rfl

/-! ### Fabric.onSession -/

@[simp] theorem Fabric.onSession_frame (id : BitVec 32) (g : Session → Session) : (f.onSession id g).frame = f.frame := rfl
@[simp] theorem Fabric.onSession_units (id : BitVec 32) (g : Session → Session) : (f.onSession id g).units = f.units := rfl
@[simp] theorem Fabric.onSession_engines (id : BitVec 32) (g : Session → Session) : (f.onSession id g).engines = f.engines := rfl
@[simp] theorem Fabric.onSession_slices (id : BitVec 32) (g : Session → Session) : (f.onSession id g).slices = f.slices := rfl
@[simp] theorem Fabric.onSession_fns (id : BitVec 32) (g : Session → Session) : (f.onSession id g).fns = f.fns := rfl
@[simp] theorem Fabric.onSession_sqs (id : BitVec 32) (g : Session → Session) : (f.onSession id g).sqs = f.sqs := rfl
@[simp] theorem Fabric.onSession_accepts (id : BitVec 32) (g : Session → Session) : (f.onSession id g).accepts = f.accepts := rfl
@[simp] theorem Fabric.onSession_tags (id : BitVec 32) (g : Session → Session) : (f.onSession id g).tags = f.tags := rfl
@[simp] theorem Fabric.onSession_windows (id : BitVec 32) (g : Session → Session) : (f.onSession id g).windows = f.windows := rfl
@[simp] theorem Fabric.onSession_remotes (id : BitVec 32) (g : Session → Session) : (f.onSession id g).remotes = f.remotes := rfl
@[simp] theorem Fabric.onSession_nextRemote (id : BitVec 32) (g : Session → Session) : (f.onSession id g).nextRemote = f.nextRemote := rfl
@[simp] theorem Fabric.onSession_belay (id : BitVec 32) (g : Session → Session) : (f.onSession id g).belay = f.belay := rfl
@[simp] theorem Fabric.onSession_cau (id : BitVec 32) (g : Session → Session) : (f.onSession id g).cau = f.cau := rfl
@[simp] theorem Fabric.onSession_cleat (id : BitVec 32) (g : Session → Session) : (f.onSession id g).cleat = f.cleat := rfl
@[simp] theorem Fabric.onSession_splice (id : BitVec 32) (g : Session → Session) : (f.onSession id g).splice = f.splice := rfl
@[simp] theorem Fabric.onSession_keys (id : BitVec 32) (g : Session → Session) : (f.onSession id g).keys = f.keys := rfl
@[simp] theorem Fabric.onSession_env (id : BitVec 32) (g : Session → Session) : (f.onSession id g).env = f.env := rfl
@[simp] theorem Fabric.onSession_fc (id : BitVec 32) (g : Session → Session) : (f.onSession id g).fc = f.fc := rfl
@[simp] theorem Fabric.onSession_ledger (id : BitVec 32) (g : Session → Session) : (f.onSession id g).ledger = f.ledger := rfl
@[simp] theorem Fabric.onSession_rs (id : BitVec 32) (g : Session → Session) : (f.onSession id g).rs = f.rs := rfl
@[simp] theorem Fabric.onSession_ctl (id : BitVec 32) (g : Session → Session) : (f.onSession id g).ctl = { f.ctl with sessions := f.ctl.sessions.map (fun s => if s.id == id then g s else s) } := rfl
@[simp] theorem Fabric.onSession_tests (id : BitVec 32) (g : Session → Session) : (f.onSession id g).tests = f.tests := rfl
@[simp] theorem Fabric.onSession_tap (id : BitVec 32) (g : Session → Session) : (f.onSession id g).tap = f.tap := rfl
@[simp] theorem Fabric.onSession_mem (id : BitVec 32) (g : Session → Session) : (f.onSession id g).mem = f.mem := rfl
@[simp] theorem Fabric.onSession_writes (id : BitVec 32) (g : Session → Session) : (f.onSession id g).writes = f.writes := rfl
@[simp] theorem Fabric.onSession_free (id : BitVec 32) (g : Session → Session) : (f.onSession id g).free = f.free := rfl
@[simp] theorem Fabric.onSession_out (id : BitVec 32) (g : Session → Session) : (f.onSession id g).out = f.out := rfl

/-! ### Fabric.advanceTo -/

@[simp] theorem Fabric.advanceTo_frame (t : Nat) : (f.advanceTo t).frame = { f.frame with time := max f.frame.time t } := rfl
@[simp] theorem Fabric.advanceTo_units (t : Nat) : (f.advanceTo t).units = f.units := rfl
@[simp] theorem Fabric.advanceTo_engines (t : Nat) : (f.advanceTo t).engines = f.engines := rfl
@[simp] theorem Fabric.advanceTo_slices (t : Nat) : (f.advanceTo t).slices = f.slices := rfl
@[simp] theorem Fabric.advanceTo_fns (t : Nat) : (f.advanceTo t).fns = f.fns := rfl
@[simp] theorem Fabric.advanceTo_sqs (t : Nat) : (f.advanceTo t).sqs = f.sqs := rfl
@[simp] theorem Fabric.advanceTo_accepts (t : Nat) : (f.advanceTo t).accepts = f.accepts := rfl
@[simp] theorem Fabric.advanceTo_tags (t : Nat) : (f.advanceTo t).tags = f.tags := rfl
@[simp] theorem Fabric.advanceTo_windows (t : Nat) : (f.advanceTo t).windows = f.windows := rfl
@[simp] theorem Fabric.advanceTo_remotes (t : Nat) : (f.advanceTo t).remotes = f.remotes := rfl
@[simp] theorem Fabric.advanceTo_nextRemote (t : Nat) : (f.advanceTo t).nextRemote = f.nextRemote := rfl
@[simp] theorem Fabric.advanceTo_belay (t : Nat) : (f.advanceTo t).belay = f.belay := rfl
@[simp] theorem Fabric.advanceTo_cau (t : Nat) : (f.advanceTo t).cau = f.cau := rfl
@[simp] theorem Fabric.advanceTo_cleat (t : Nat) : (f.advanceTo t).cleat = f.cleat := rfl
@[simp] theorem Fabric.advanceTo_splice (t : Nat) : (f.advanceTo t).splice = f.splice := rfl
@[simp] theorem Fabric.advanceTo_keys (t : Nat) : (f.advanceTo t).keys = f.keys := rfl
@[simp] theorem Fabric.advanceTo_env (t : Nat) : (f.advanceTo t).env = f.env := rfl
@[simp] theorem Fabric.advanceTo_fc (t : Nat) : (f.advanceTo t).fc = f.fc := rfl
@[simp] theorem Fabric.advanceTo_ledger (t : Nat) : (f.advanceTo t).ledger = f.ledger := rfl
@[simp] theorem Fabric.advanceTo_rs (t : Nat) : (f.advanceTo t).rs = f.rs := rfl
@[simp] theorem Fabric.advanceTo_ctl (t : Nat) : (f.advanceTo t).ctl = f.ctl := rfl
@[simp] theorem Fabric.advanceTo_tests (t : Nat) : (f.advanceTo t).tests = f.tests := rfl
@[simp] theorem Fabric.advanceTo_tap (t : Nat) : (f.advanceTo t).tap = f.tap := rfl
@[simp] theorem Fabric.advanceTo_mem (t : Nat) : (f.advanceTo t).mem = f.mem := rfl
@[simp] theorem Fabric.advanceTo_writes (t : Nat) : (f.advanceTo t).writes = f.writes := rfl
@[simp] theorem Fabric.advanceTo_free (t : Nat) : (f.advanceTo t).free = f.free := rfl
@[simp] theorem Fabric.advanceTo_out (t : Nat) : (f.advanceTo t).out = f.out := rfl

/-! ### Fabric.emit -/

@[simp] theorem Fabric.emit_frame (o : Out) : (f.emit o).frame = f.frame := rfl
@[simp] theorem Fabric.emit_units (o : Out) : (f.emit o).units = f.units := rfl
@[simp] theorem Fabric.emit_engines (o : Out) : (f.emit o).engines = f.engines := rfl
@[simp] theorem Fabric.emit_slices (o : Out) : (f.emit o).slices = f.slices := rfl
@[simp] theorem Fabric.emit_fns (o : Out) : (f.emit o).fns = f.fns := rfl
@[simp] theorem Fabric.emit_sqs (o : Out) : (f.emit o).sqs = f.sqs := rfl
@[simp] theorem Fabric.emit_accepts (o : Out) : (f.emit o).accepts = f.accepts := rfl
@[simp] theorem Fabric.emit_tags (o : Out) : (f.emit o).tags = f.tags := rfl
@[simp] theorem Fabric.emit_windows (o : Out) : (f.emit o).windows = f.windows := rfl
@[simp] theorem Fabric.emit_remotes (o : Out) : (f.emit o).remotes = f.remotes := rfl
@[simp] theorem Fabric.emit_nextRemote (o : Out) : (f.emit o).nextRemote = f.nextRemote := rfl
@[simp] theorem Fabric.emit_belay (o : Out) : (f.emit o).belay = f.belay := rfl
@[simp] theorem Fabric.emit_cau (o : Out) : (f.emit o).cau = f.cau := rfl
@[simp] theorem Fabric.emit_cleat (o : Out) : (f.emit o).cleat = f.cleat := rfl
@[simp] theorem Fabric.emit_splice (o : Out) : (f.emit o).splice = f.splice := rfl
@[simp] theorem Fabric.emit_keys (o : Out) : (f.emit o).keys = f.keys := rfl
@[simp] theorem Fabric.emit_env (o : Out) : (f.emit o).env = f.env := rfl
@[simp] theorem Fabric.emit_fc (o : Out) : (f.emit o).fc = f.fc := rfl
@[simp] theorem Fabric.emit_ledger (o : Out) : (f.emit o).ledger = f.ledger := rfl
@[simp] theorem Fabric.emit_rs (o : Out) : (f.emit o).rs = f.rs := rfl
@[simp] theorem Fabric.emit_ctl (o : Out) : (f.emit o).ctl = f.ctl := rfl
@[simp] theorem Fabric.emit_tests (o : Out) : (f.emit o).tests = f.tests := rfl
@[simp] theorem Fabric.emit_tap (o : Out) : (f.emit o).tap = f.tap := rfl
@[simp] theorem Fabric.emit_mem (o : Out) : (f.emit o).mem = f.mem := rfl
@[simp] theorem Fabric.emit_writes (o : Out) : (f.emit o).writes = f.writes := rfl
@[simp] theorem Fabric.emit_free (o : Out) : (f.emit o).free = f.free := rfl
@[simp] theorem Fabric.emit_out (o : Out) : (f.emit o).out = f.out ++ [o] := rfl

/-! ### Fabric.writeMem -/

@[simp] theorem Fabric.writeMem_frame (key : Nat) (data : List Byte) : (f.writeMem key data).frame = f.frame := rfl
@[simp] theorem Fabric.writeMem_units (key : Nat) (data : List Byte) : (f.writeMem key data).units = f.units := rfl
@[simp] theorem Fabric.writeMem_engines (key : Nat) (data : List Byte) : (f.writeMem key data).engines = f.engines := rfl
@[simp] theorem Fabric.writeMem_slices (key : Nat) (data : List Byte) : (f.writeMem key data).slices = f.slices := rfl
@[simp] theorem Fabric.writeMem_fns (key : Nat) (data : List Byte) : (f.writeMem key data).fns = f.fns := rfl
@[simp] theorem Fabric.writeMem_sqs (key : Nat) (data : List Byte) : (f.writeMem key data).sqs = f.sqs := rfl
@[simp] theorem Fabric.writeMem_accepts (key : Nat) (data : List Byte) : (f.writeMem key data).accepts = f.accepts := rfl
@[simp] theorem Fabric.writeMem_tags (key : Nat) (data : List Byte) : (f.writeMem key data).tags = f.tags := rfl
@[simp] theorem Fabric.writeMem_windows (key : Nat) (data : List Byte) : (f.writeMem key data).windows = f.windows := rfl
@[simp] theorem Fabric.writeMem_remotes (key : Nat) (data : List Byte) : (f.writeMem key data).remotes = f.remotes := rfl
@[simp] theorem Fabric.writeMem_nextRemote (key : Nat) (data : List Byte) : (f.writeMem key data).nextRemote = f.nextRemote := rfl
@[simp] theorem Fabric.writeMem_belay (key : Nat) (data : List Byte) : (f.writeMem key data).belay = f.belay := rfl
@[simp] theorem Fabric.writeMem_cau (key : Nat) (data : List Byte) : (f.writeMem key data).cau = f.cau := rfl
@[simp] theorem Fabric.writeMem_cleat (key : Nat) (data : List Byte) : (f.writeMem key data).cleat = f.cleat := rfl
@[simp] theorem Fabric.writeMem_splice (key : Nat) (data : List Byte) : (f.writeMem key data).splice = f.splice := rfl
@[simp] theorem Fabric.writeMem_keys (key : Nat) (data : List Byte) : (f.writeMem key data).keys = f.keys := rfl
@[simp] theorem Fabric.writeMem_env (key : Nat) (data : List Byte) : (f.writeMem key data).env = f.env := rfl
@[simp] theorem Fabric.writeMem_fc (key : Nat) (data : List Byte) : (f.writeMem key data).fc = f.fc := rfl
@[simp] theorem Fabric.writeMem_ledger (key : Nat) (data : List Byte) : (f.writeMem key data).ledger = f.ledger := rfl
@[simp] theorem Fabric.writeMem_rs (key : Nat) (data : List Byte) : (f.writeMem key data).rs = f.rs := rfl
@[simp] theorem Fabric.writeMem_ctl (key : Nat) (data : List Byte) : (f.writeMem key data).ctl = f.ctl := rfl
@[simp] theorem Fabric.writeMem_tests (key : Nat) (data : List Byte) : (f.writeMem key data).tests = f.tests := rfl
@[simp] theorem Fabric.writeMem_tap (key : Nat) (data : List Byte) : (f.writeMem key data).tap = f.tap := rfl
@[simp] theorem Fabric.writeMem_mem (key : Nat) (data : List Byte) : (f.writeMem key data).mem = f.mem := rfl
@[simp] theorem Fabric.writeMem_writes (key : Nat) (data : List Byte) : (f.writeMem key data).writes = f.writes ++ [.bytes key data] := rfl
@[simp] theorem Fabric.writeMem_free (key : Nat) (data : List Byte) : (f.writeMem key data).free = f.free := rfl
@[simp] theorem Fabric.writeMem_out (key : Nat) (data : List Byte) : (f.writeMem key data).out = f.out := rfl

/-! ### Fabric.zeroMem -/

@[simp] theorem Fabric.zeroMem_frame (key len : Nat) : (f.zeroMem key len).frame = f.frame := rfl
@[simp] theorem Fabric.zeroMem_units (key len : Nat) : (f.zeroMem key len).units = f.units := rfl
@[simp] theorem Fabric.zeroMem_engines (key len : Nat) : (f.zeroMem key len).engines = f.engines := rfl
@[simp] theorem Fabric.zeroMem_slices (key len : Nat) : (f.zeroMem key len).slices = f.slices := rfl
@[simp] theorem Fabric.zeroMem_fns (key len : Nat) : (f.zeroMem key len).fns = f.fns := rfl
@[simp] theorem Fabric.zeroMem_sqs (key len : Nat) : (f.zeroMem key len).sqs = f.sqs := rfl
@[simp] theorem Fabric.zeroMem_accepts (key len : Nat) : (f.zeroMem key len).accepts = f.accepts := rfl
@[simp] theorem Fabric.zeroMem_tags (key len : Nat) : (f.zeroMem key len).tags = f.tags := rfl
@[simp] theorem Fabric.zeroMem_windows (key len : Nat) : (f.zeroMem key len).windows = f.windows := rfl
@[simp] theorem Fabric.zeroMem_remotes (key len : Nat) : (f.zeroMem key len).remotes = f.remotes := rfl
@[simp] theorem Fabric.zeroMem_nextRemote (key len : Nat) : (f.zeroMem key len).nextRemote = f.nextRemote := rfl
@[simp] theorem Fabric.zeroMem_belay (key len : Nat) : (f.zeroMem key len).belay = f.belay := rfl
@[simp] theorem Fabric.zeroMem_cau (key len : Nat) : (f.zeroMem key len).cau = f.cau := rfl
@[simp] theorem Fabric.zeroMem_cleat (key len : Nat) : (f.zeroMem key len).cleat = f.cleat := rfl
@[simp] theorem Fabric.zeroMem_splice (key len : Nat) : (f.zeroMem key len).splice = f.splice := rfl
@[simp] theorem Fabric.zeroMem_keys (key len : Nat) : (f.zeroMem key len).keys = f.keys := rfl
@[simp] theorem Fabric.zeroMem_env (key len : Nat) : (f.zeroMem key len).env = f.env := rfl
@[simp] theorem Fabric.zeroMem_fc (key len : Nat) : (f.zeroMem key len).fc = f.fc := rfl
@[simp] theorem Fabric.zeroMem_ledger (key len : Nat) : (f.zeroMem key len).ledger = f.ledger := rfl
@[simp] theorem Fabric.zeroMem_rs (key len : Nat) : (f.zeroMem key len).rs = f.rs := rfl
@[simp] theorem Fabric.zeroMem_ctl (key len : Nat) : (f.zeroMem key len).ctl = f.ctl := rfl
@[simp] theorem Fabric.zeroMem_tests (key len : Nat) : (f.zeroMem key len).tests = f.tests := rfl
@[simp] theorem Fabric.zeroMem_tap (key len : Nat) : (f.zeroMem key len).tap = f.tap := rfl
@[simp] theorem Fabric.zeroMem_mem (key len : Nat) : (f.zeroMem key len).mem = f.mem := rfl
@[simp] theorem Fabric.zeroMem_writes (key len : Nat) : (f.zeroMem key len).writes = f.writes ++ [.zero key len] := rfl
@[simp] theorem Fabric.zeroMem_free (key len : Nat) : (f.zeroMem key len).free = f.free := rfl
@[simp] theorem Fabric.zeroMem_out (key len : Nat) : (f.zeroMem key len).out = f.out := rfl

/-! ### Fabric.offer -/

@[simp] theorem Fabric.offer_frame (r : Nat) (u : CUnit) : (f.offer r u).frame = f.frame := rfl
@[simp] theorem Fabric.offer_units (r : Nat) (u : CUnit) : (f.offer r u).units = f.units := rfl
@[simp] theorem Fabric.offer_engines (r : Nat) (u : CUnit) : (f.offer r u).engines = f.engines := rfl
@[simp] theorem Fabric.offer_slices (r : Nat) (u : CUnit) : (f.offer r u).slices = f.slices := rfl
@[simp] theorem Fabric.offer_fns (r : Nat) (u : CUnit) : (f.offer r u).fns = f.fns := rfl
@[simp] theorem Fabric.offer_sqs (r : Nat) (u : CUnit) : (f.offer r u).sqs = f.sqs := rfl
@[simp] theorem Fabric.offer_accepts (r : Nat) (u : CUnit) : (f.offer r u).accepts = f.accepts := rfl
@[simp] theorem Fabric.offer_tags (r : Nat) (u : CUnit) : (f.offer r u).tags = f.tags := rfl
@[simp] theorem Fabric.offer_windows (r : Nat) (u : CUnit) : (f.offer r u).windows = f.windows := rfl
@[simp] theorem Fabric.offer_remotes (r : Nat) (u : CUnit) : (f.offer r u).remotes = f.remotes := rfl
@[simp] theorem Fabric.offer_nextRemote (r : Nat) (u : CUnit) : (f.offer r u).nextRemote = f.nextRemote := rfl
@[simp] theorem Fabric.offer_belay (r : Nat) (u : CUnit) : (f.offer r u).belay = f.belay := rfl
@[simp] theorem Fabric.offer_cau (r : Nat) (u : CUnit) : (f.offer r u).cau = f.cau := rfl
@[simp] theorem Fabric.offer_splice (r : Nat) (u : CUnit) : (f.offer r u).splice = f.splice := rfl
@[simp] theorem Fabric.offer_keys (r : Nat) (u : CUnit) : (f.offer r u).keys = f.keys := rfl
@[simp] theorem Fabric.offer_env (r : Nat) (u : CUnit) : (f.offer r u).env = f.env := rfl
@[simp] theorem Fabric.offer_fc (r : Nat) (u : CUnit) : (f.offer r u).fc = f.fc := rfl
@[simp] theorem Fabric.offer_ledger (r : Nat) (u : CUnit) : (f.offer r u).ledger = f.ledger := rfl
@[simp] theorem Fabric.offer_rs (r : Nat) (u : CUnit) : (f.offer r u).rs = f.rs := rfl
@[simp] theorem Fabric.offer_ctl (r : Nat) (u : CUnit) : (f.offer r u).ctl = f.ctl := rfl
@[simp] theorem Fabric.offer_tests (r : Nat) (u : CUnit) : (f.offer r u).tests = f.tests := rfl
@[simp] theorem Fabric.offer_tap (r : Nat) (u : CUnit) : (f.offer r u).tap = f.tap := rfl
@[simp] theorem Fabric.offer_mem (r : Nat) (u : CUnit) : (f.offer r u).mem = f.mem := rfl
@[simp] theorem Fabric.offer_writes (r : Nat) (u : CUnit) : (f.offer r u).writes = f.writes := rfl
@[simp] theorem Fabric.offer_free (r : Nat) (u : CUnit) : (f.offer r u).free = f.free := rfl
@[simp] theorem Fabric.offer_out (r : Nat) (u : CUnit) : (f.offer r u).out = f.out := rfl

end Sys2Proof.Machine
end

