-- ==== Sys2Proof/Laws/Tab.lean ====
section
/-! SUPPORT. Laws of the sparse tables: look-up after write and after removal. -/

namespace Sys2Proof

variable {α : Type}

@[simp] theorem Tab.find_nil (k : Nat) : Tab.find ([] : Tab α) k = none := rfl

/-- The entry written is the entry found. -/
@[simp] theorem Tab.find_put_self (t : Tab α) (k : Nat) (v : α) : (t.put k v).find k = some v := by
  induction t with
  | nil => simp [Tab.put, Tab.find]
  | cons e t ih =>
    obtain ⟨k', v'⟩ := e
    simp only [Tab.put]
    split
    · simp [Tab.find]
    · split
      · simp [Tab.find]
      · rename_i h1 h2
        have : k' ≠ k := fun h => h2 h.symm
        simp [Tab.find, this, ih]

/-- A write leaves every other entry alone. -/
theorem Tab.find_put_other (t : Tab α) (k j : Nat) (v : α) (h : j ≠ k) : (t.put k v).find j = t.find j := by
  induction t with
  | nil => simp [Tab.put, Tab.find, Ne.symm h]
  | cons e t ih =>
    obtain ⟨k', v'⟩ := e
    simp only [Tab.put]
    split
    · simp [Tab.find, Ne.symm h]
    · split
      · rename_i h1 h2
        subst h2
        simp [Tab.find, Ne.symm h]
      · simp [Tab.find, ih]

@[simp] theorem Tab.getD_put_self (t : Tab α) (k : Nat) (v d : α) : (t.put k v).getD k d = v := by
  simp [Tab.getD]

theorem Tab.getD_put_other (t : Tab α) (k j : Nat) (v d : α) (h : j ≠ k) : (t.put k v).getD j d = t.getD j d := by
  simp [Tab.getD, Tab.find_put_other t k j v h]

@[simp] theorem Tab.getD_upd_self (t : Tab α) (k : Nat) (d : α) (g : α → α) :
    (t.upd k d g).getD k d = g (t.getD k d) := by
  simp [Tab.upd]

theorem Tab.getD_upd_other (t : Tab α) (k j : Nat) (d d' : α) (g : α → α) (h : j ≠ k) :
    (t.upd k d g).getD j d' = t.getD j d' := by
  simp [Tab.upd, Tab.getD_put_other _ _ _ _ _ h]

/-- The second of two writes under one key is the one that counts. -/
@[simp] theorem Tab.put_put (t : Tab α) (k : Nat) (v w : α) : (t.put k v).put k w = t.put k w := by
  induction t with
  | nil => simp [Tab.put]
  | cons e t ih =>
    obtain ⟨k', v'⟩ := e
    simp only [Tab.put]
    split
    · simp [Tab.put]
    · split
      · simp [Tab.put]
      · rename_i h1 h2
        simp [Tab.put, h1, h2, ih]

/-- Two updates of one entry are one. -/
theorem Tab.upd_upd (t : Tab α) (k : Nat) (d : α) (g h : α → α) : (t.upd k d g).upd k d h = t.upd k d (fun x => h (g x)) := by
  simp [Tab.upd]

/-- Replacing a listed entry. -/
theorem Tab.find_onKey (t : Tab α) (k : Nat) (g : α → α) : (t.onKey k g).find k = (t.find k).map g := by
  induction t with
  | nil => rfl
  | cons e t ih =>
    obtain ⟨k', v'⟩ := e
    simp only [Tab.onKey, List.map_cons] at *
    by_cases h : k' = k
    · simp [Tab.find, h]
    · simp [Tab.find, h, ih]

theorem Tab.find_onKey_other (t : Tab α) (k j : Nat) (g : α → α) (h : j ≠ k) : (t.onKey k g).find j = t.find j := by
  induction t with
  | nil => rfl
  | cons e t ih =>
    obtain ⟨k', v'⟩ := e
    simp only [Tab.onKey, List.map_cons] at *
    by_cases h' : k' = k
    · have : k ≠ j := fun e => h e.symm
      simp [Tab.find, h', this, ih]
    · simp [Tab.find, h', ih]

/-- Removing an entry forgets what was written under its key. -/
theorem Tab.del_put (t : Tab α) (k : Nat) (v : α) : (t.put k v).del k = t.del k := by
  induction t with
  | nil => simp [Tab.put, Tab.del]
  | cons e t ih =>
    obtain ⟨k', v'⟩ := e
    simp only [Tab.put]
    split
    · simp [Tab.del]
    · split
      · subst_vars; simp [Tab.del]
      · simp only [Tab.del] at *
        simp [List.filter_cons, ih]

@[simp] theorem Tab.del_upd (t : Tab α) (k : Nat) (d : α) (g : α → α) : (t.upd k d g).del k = t.del k := by
  simp [Tab.upd, Tab.del_put]

/-- A removed entry is not found. -/
@[simp] theorem Tab.find_del_self (t : Tab α) (k : Nat) : (t.del k).find k = none := by
  induction t with
  | nil => rfl
  | cons e t ih =>
    obtain ⟨k', v'⟩ := e
    simp only [Tab.del, List.filter_cons] at *
    by_cases h : k' = k
    · simp [h, ih]
    · simp [h, Tab.find, ih]

theorem Tab.find_del_other (t : Tab α) (k j : Nat) (h : j ≠ k) : (t.del k).find j = t.find j := by
  induction t with
  | nil => rfl
  | cons e t ih =>
    obtain ⟨k', v'⟩ := e
    simp only [Tab.del, List.filter_cons] at *
    by_cases h' : k' = k
    · have : k ≠ j := fun e => h e.symm
      simp [h', ih, Tab.find, this]
    · simp [h', Tab.find, ih]

end Sys2Proof
end

