-- ==== Sys2Proof/Laws/Control.lean ====
section
/-! SUPPORT. What taking a control packet and writing its reply can do. -/

namespace Sys2Proof.Machine

/-! ### The bytes of a reply (R411) -/

theorem extract_append_low {n m : Nat} (x : BitVec n) (y : BitVec m) (k w : Nat) (hk : k + w ≤ m) :
    (x ++ y).extractLsb' k w = y.extractLsb' k w := by
  apply BitVec.eq_of_getLsbD_eq
  intro i hi
  have : k + i < m := by omega
  simp [BitVec.getLsbD_append, hi, this]

theorem extract_append_high {n m w : Nat} (x : BitVec n) (y : BitVec m) (k : Nat) (hk : m ≤ k) :
    (x ++ y).extractLsb' k w = x.extractLsb' (k - m) w := by
  apply BitVec.eq_of_getLsbD_eq
  intro i hi
  have : ¬ (k + i < m) := by omega
  have e : k + i - m = k - m + i := by omega
  simp [BitVec.getLsbD_append, hi, this, e]

theorem replyBytes_opcode (q : Req) (r : Reply) (fl : Byte) (tag : BitVec 128) (n : BitVec 32) :
    (replyBytes q r fl tag n).extractLsb' 0 16 = q.opcode := by
  unfold replyBytes
  rw [extract_append_low _ _ _ _ (by omega)]
  simp

theorem replyBytes_seq (q : Req) (r : Reply) (fl : Byte) (tag : BitVec 128) (n : BitVec 32) :
    (replyBytes q r fl tag n).extractLsb' 32 32 = q.seq := by
  unfold replyBytes
  iterate 3 rw [extract_append_high _ _ _ (by omega)]
  rw [extract_append_low _ _ _ _ (by omega)]
  simp

theorem replyBytes_status (q : Req) (r : Reply) (fl : Byte) (tag : BitVec 128) (n : BitVec 32) :
    (replyBytes q r fl tag n).extractLsb' 16 8 = r.status := by
  unfold replyBytes
  rw [extract_append_high _ _ _ (by omega), extract_append_low _ _ _ _ (by omega)]
  simp

theorem replyBytes_detail (q : Req) (r : Reply) (fl : Byte) (tag : BitVec 128) (n : BitVec 32) :
    (replyBytes q r fl tag n).extractLsb' 192 16 = r.detail := by
  unfold replyBytes
  iterate 5 rw [extract_append_high _ _ _ (by omega)]
  rw [extract_append_low _ _ _ _ (by omega)]
  simp

theorem replyBytes_result (q : Req) (r : Reply) (fl : Byte) (tag : BitVec 128) (n : BitVec 32) :
    (replyBytes q r fl tag n).extractLsb' 256 256 = r.result := by
  unfold replyBytes
  iterate 8 rw [extract_append_high _ _ _ (by omega)]
  simp

/-- The phase bit stands in none of the fields that answer a request. -/
theorem phase_keeps (b : BitVec 512) (o w : Nat) (h : o + w ≤ 24 ∨ 25 ≤ o) :
    (b ||| 0x1000000).extractLsb' o w = b.extractLsb' o w := by
  apply BitVec.eq_of_getLsbD_eq
  intro i hi
  simp only [BitVec.getLsbD_extractLsb', BitVec.getLsbD_or, hi, decide_true, Bool.true_and]
  have e : (0x1000000 : BitVec 512) = BitVec.ofNat 512 (2 ^ 24) := rfl
  have ne : ¬ (24 = o + i) := by omega
  rw [e, BitVec.getLsbD_ofNat, Nat.testBit_two_pow]
  simp [ne]

/-- A reply written on a path answers its request. -/
theorem answers_reply (q : Req) (r : Reply) (a : Nat) (fl : Byte) (tag : BitVec 128) (n : BitVec 32) :
    Out.answers q (.reply q.path a (replyBytes q r fl tag n)) = some r := by
  simp [Out.answers, replyBytes_opcode, replyBytes_seq, replyBytes_status, replyBytes_detail, replyBytes_result]

theorem answers_phase (q : Req) (r : Reply) (a : Nat) (fl : Byte) (tag : BitVec 128) (n : BitVec 32) :
    Out.answers q (.reply q.path a (replyBytes q r fl tag n ||| 0x1000000)) = some r := by
  have k1 := phase_keeps (replyBytes q r fl tag n) 0 16 (by omega)
  have k2 := phase_keeps (replyBytes q r fl tag n) 32 32 (by omega)
  have k3 := phase_keeps (replyBytes q r fl tag n) 16 8 (by omega)
  have k4 := phase_keeps (replyBytes q r fl tag n) 192 16 (by omega)
  have k5 := phase_keeps (replyBytes q r fl tag n) 256 256 (by omega)
  simp only [Out.answers, k1, k2, k3, k4, k5, replyBytes_opcode, replyBytes_seq, replyBytes_status, replyBytes_detail, replyBytes_result]
  simp

/-! ### What a reply leaves alone -/

theorem bare_onCtl (f : Fabric) (p : Packet) (g : Ctl → Ctl) : (f.onCtl g).bare p = f.bare p := by
  unfold Fabric.bare; cases p.path <;> rfl

theorem bare_onSession (f : Fabric) (p : Packet) (id : BitVec 32) (g : Session → Session) :
    (f.onSession id g).bare p = f.bare p := bare_onCtl f p _

theorem bare_emit (f : Fabric) (p : Packet) (o : Out) : (f.emit o).bare p = f.bare p := by
  unfold Fabric.bare; cases p.path <;> rfl

theorem bare_onFn (f : Fabric) (p : Packet) (n : Nat) (g : Fn → Fn) (h : p.path = .fn n)
    (hg : ∀ x, (g x).unreplied = x.unreplied) : (f.onFn n g).bare p = f.bare p := by
  unfold Fabric.bare
  simp only [h, Fabric.onFn_fns, Tab.upd_upd]
  simp only [hg]
  rfl

theorem bare_host (f : Fabric) (p : Packet) (n : Nat) (u : CUnit) (h : p.path = .fn n) :
    (f.offer 48 u).bare p = f.bare p := by
  unfold Fabric.bare
  simp only [h, Fabric.offer, Fabric.onReg, Tab.upd_upd]
  rfl

theorem bare_hostWrite (f : Fabric) (p : Packet) (n k : Nat) (s : Option Nat) (o : Out) (h : p.path = .fn n) :
    (f.hostWrite s k o).bare p = f.bare p := by
  unfold Fabric.hostWrite
  split
  · exact bare_emit f p o
  · unfold Fabric.offerHost
    simp only
    generalize (splitUnits (max k 1)).zipIdx = l
    generalize (splitUnits (max k 1)).length = z
    rename_i hz
    clear hz
    induction l generalizing f with
    | nil => rfl
    | cons u l ih => rw [List.foldl_cons, ih, bare_host _ _ n _ h]

theorem bare_irq (f : Fabric) (p : Packet) (n v : Nat) (h : p.path = .fn n) : (f.irq n v).bare p = f.bare p := by
  unfold Fabric.irq
  split
  · rfl
  · exact bare_hostWrite _ _ n _ _ _ h

theorem bare_ringReply (f : Fabric) (p : Packet) (n : Nat) (b : BitVec 512) (h : p.path = .fn n) :
    (f.ringReply n b).bare p = f.bare p := by
  unfold Fabric.ringReply
  simp only
  rw [bare_irq _ _ _ _ h, bare_onFn _ _ _ _ h, bare_hostWrite _ _ n _ _ _ h]
  intro x
  rfl

theorem bare_sendReply (f : Fabric) (p : Packet) (q : Req) (r : Reply) (dup hw : Bool) (h : q.path = p.path) :
    (f.sendReply q r dup hw).bare p = f.bare p := by
  unfold Fabric.sendReply
  cases hp : q.path with
  | mailbox id =>
    simp only
    split
    · split
      · rw [bare_emit]
      · rw [bare_onSession, bare_emit]
    · rw [bare_emit]
  | fn n =>
    have hn : p.path = .fn n := by rw [← h, hp]
    simp only
    split
    · rfl
    · split
      · rw [bare_ringReply _ _ _ _ hn]
      · rw [bare_onFn _ _ _ _ hn]
        intro x
        rfl

theorem bare_finishReply (f : Fabric) (p : Packet) (q : Req) (r : Reply) (h : q.path = p.path) :
    (f.finishReply q r).bare p = f.bare p := by
  unfold Fabric.finishReply
  cases hp : q.path with
  | mailbox id => simp only [bare_onSession, bare_sendReply f p q r false false h]
  | fn n =>
    have hn : p.path = .fn n := by rw [← h, hp]
    simp only
    unfold Fabric.settleDisable
    split
    · rw [bare_onFn _ _ _ _ hn, bare_sendReply f p q r false false h]
      intro x
      rfl
    · rw [bare_sendReply f p q r false false h]

/-- A reply touches nothing but the packet state, the outputs and the sender's own registers. -/
theorem bare_reply (f : Fabric) (p : Packet) (q : Req) (r : Reply) (h : q.path = p.path) :
    (f.reply q r).bare p = f.bare p := by
  unfold Fabric.reply Fabric.answer
  split
  · split
    · rw [bare_finishReply _ _ _ _ h, bare_onCtl]
    · rw [bare_onCtl, bare_onCtl]
  · rfl

/-- Taking a packet touches nothing but the packet state. -/
theorem bare_taking (f : Fabric) (p : Packet) : (f.taking p).bare p = f.bare p := by
  unfold Fabric.taking
  simp only [bare_onCtl]
  cases hp : p.path with
  | mailbox id => simp only [bare_onSession]; unfold Fabric.bare openRun; rw [hp]
  | fn n => unfold Fabric.bare openRun; rw [hp]

/-- Closing a run that wrote no memory. -/
theorem bare_close (f g : Fabric) (p : Packet) (hw : g.writes = []) (hm : g.mem = f.mem) :
    (closeRun f g).bare p = g.bare p := by
  unfold Fabric.bare closeRun
  cases p.path <;> simp [hw, ← hm]

/-- What a packet changes beside the packet state may be read off the fabric that has not taken it. -/
theorem bare_of_fields (f g : Fabric) (p : Packet) (h : { f with ctl := {}, out := [], writes := [] } = ({ g with ctl := {}, out := [], writes := [] } : Fabric)) :
    f.bare p = g.bare p := by
  have e : ∀ x : Fabric, x.bare p = ({ x with ctl := {}, out := [], writes := [] } : Fabric).bare p := by
    intro x; unfold Fabric.bare; cases p.path <;> rfl
  rw [e f, e g, h]

/-- The fabric that took a packet is the fabric before, but for the packet state. -/
theorem taking_eq (f : Fabric) (p : Packet) :
    f.taking p = { f with ctl := (f.taking p).ctl, out := [], writes := [] } := by
  unfold Fabric.taking; cases p.path <;> rfl

/-! ### What a reply writes -/

/-- The parts that the writing of a reply may touch. -/
def Fabric.unreplied (f : Fabric) : Fabric := { f with ctl := {}, out := [], fns := [], cleat := {} }

theorem unreplied_onCtl (f : Fabric) (g : Ctl → Ctl) : (f.onCtl g).unreplied = f.unreplied := rfl
theorem unreplied_onSession (f : Fabric) (id : BitVec 32) (g : Session → Session) : (f.onSession id g).unreplied = f.unreplied := rfl
theorem unreplied_emit (f : Fabric) (o : Out) : (f.emit o).unreplied = f.unreplied := rfl
theorem unreplied_onFn (f : Fabric) (n : Nat) (g : Fn → Fn) : (f.onFn n g).unreplied = f.unreplied := rfl
theorem unreplied_offer (f : Fabric) (n : Nat) (u : CUnit) : (f.offer n u).unreplied = f.unreplied := rfl

theorem unreplied_hostWrite (f : Fabric) (s : Option Nat) (n : Nat) (o : Out) : (f.hostWrite s n o).unreplied = f.unreplied := by
  unfold Fabric.hostWrite
  split
  · rfl
  · unfold Fabric.offerHost
    simp only
    generalize (splitUnits (max n 1)).zipIdx = l
    generalize (splitUnits (max n 1)).length = z
    rename_i hz
    clear hz
    induction l generalizing f with
    | nil => rfl
    | cons u l ih => rw [List.foldl_cons, ih, unreplied_offer]

theorem unreplied_irq (f : Fabric) (n v : Nat) : (f.irq n v).unreplied = f.unreplied := by
  unfold Fabric.irq
  split
  · rfl
  · exact unreplied_hostWrite _ _ _ _

theorem unreplied_sendReply (f : Fabric) (q : Req) (r : Reply) (dup hw : Bool) : (f.sendReply q r dup hw).unreplied = f.unreplied := by
  unfold Fabric.sendReply
  cases q.path with
  | mailbox id =>
    simp only
    split
    · split <;> rfl
    · rfl
  | fn n =>
    simp only
    split
    · rfl
    · split
      · unfold Fabric.ringReply
        simp only
        rw [unreplied_irq, unreplied_onFn, unreplied_hostWrite]
      · rfl

/-- A reply touches nothing but the packet state, the outputs, the functions and the host port. -/
theorem unreplied_reply (f : Fabric) (q : Req) (r : Reply) : (f.reply q r).unreplied = f.unreplied := by
  unfold Fabric.reply Fabric.answer Fabric.finishReply Fabric.settleDisable
  split
  · cases q.path with
    | mailbox id =>
      simp only
      split
      · rw [unreplied_onSession, unreplied_sendReply, unreplied_onCtl]
      · rw [unreplied_onCtl, unreplied_onCtl]
    | fn n =>
      simp only
      split
      · split
        · rw [unreplied_onFn, unreplied_sendReply, unreplied_onCtl]
        · rw [unreplied_sendReply, unreplied_onCtl]
      · rw [unreplied_onCtl, unreplied_onCtl]
  · rfl

theorem reply_writes (f : Fabric) (q : Req) (r : Reply) : (f.reply q r).writes = f.writes :=
  by have h := congrArg Fabric.writes (unreplied_reply f q r); exact h
theorem reply_mem (f : Fabric) (q : Req) (r : Reply) : (f.reply q r).mem = f.mem :=
  by have h := congrArg Fabric.mem (unreplied_reply f q r); exact h
theorem reply_rs (f : Fabric) (q : Req) (r : Reply) : (f.reply q r).rs = f.rs :=
  by have h := congrArg Fabric.rs (unreplied_reply f q r); exact h

/-- Between `f` and `g` outputs were only added, and units at the host port too. -/
structure Grows (f g : Fabric) : Prop where
  out : ∃ l, g.out = f.out ++ l
  arrivals : (f.reg 48).arrivals ≤ (g.reg 48).arrivals
  waiting : ∃ l, (g.reg 48).waiting = (f.reg 48).waiting ++ l

theorem Grows.refl (f : Fabric) : Grows f f := ⟨⟨[], by simp⟩, Nat.le_refl _, ⟨[], by simp⟩⟩
theorem Grows.trans {f g h : Fabric} (a : Grows f g) (b : Grows g h) : Grows f h := by
  obtain ⟨l1, e1⟩ := a.out
  obtain ⟨l2, e2⟩ := b.out
  obtain ⟨w1, v1⟩ := a.waiting
  obtain ⟨w2, v2⟩ := b.waiting
  exact ⟨⟨l1 ++ l2, by rw [e2, e1, List.append_assoc]⟩, Nat.le_trans a.arrivals b.arrivals,
    ⟨w1 ++ w2, by rw [v2, v1, List.append_assoc]⟩⟩
/-- The parts that count do not change. -/
theorem Grows.same {f g : Fabric} (ho : g.out = f.out) (hc : g.cleat = f.cleat) : Grows f g := by
  have e : g.reg 48 = f.reg 48 := by unfold Fabric.reg; rw [hc]
  exact ⟨⟨[], by simp [ho]⟩, Nat.le_of_eq (by rw [e]), ⟨[], by simp [e]⟩⟩

theorem Grows.onFn (f : Fabric) (n : Nat) (g : Fn → Fn) : Grows f (f.onFn n g) := .same rfl rfl

theorem offer_reg (f : Fabric) (u : CUnit) : ((f.offer 48 u).reg 48).arrivals = (f.reg 48).arrivals + 1 ∧
    ((f.offer 48 u).reg 48).waiting = (f.reg 48).waiting ++ [{ u with tag := (f.reg 48).nextTag, arrived := (f.reg 48).arrivals, since := f.now }] := by
  unfold Fabric.offer Fabric.onReg Fabric.reg
  simp

theorem Grows.offer (f : Fabric) (u : CUnit) : Grows f (f.offer 48 u) := by
  have h := offer_reg f u
  exact ⟨⟨[], by simp [Fabric.offer]⟩, by rw [h.1]; omega, ⟨_, h.2⟩⟩

theorem Grows.offers (f : Fabric) (l : List ((Nat × Nat) × Nat)) (g : (Nat × Nat) × Nat → CUnit) :
    Grows f (l.foldl (fun f u => f.offer 48 (g u)) f) := by
  induction l generalizing f with
  | nil => exact .refl f
  | cons u l ih => exact (Grows.offer f (g u)).trans (ih _)

/-- An output that left between `f` and `g`, or that newly waits at the host port. -/
def Gained (f g : Fabric) (o : Out) : Prop :=
  (∃ l, g.out = f.out ++ l ∧ o ∈ l) ∨ ∃ u ∈ (g.reg 48).waiting, (f.reg 48).arrivals ≤ u.arrived ∧ o ∈ u.send

theorem Gained.after {f g h : Fabric} {o : Out} (a : Gained f g o) (b : Grows g h) : Gained f h o := by
  rcases a with ⟨l, e, hin⟩ | ⟨u, hu, ha, hin⟩
  · obtain ⟨m, em⟩ := b.out
    exact .inl ⟨l ++ m, by rw [em, e, List.append_assoc], List.mem_append_left _ hin⟩
  · obtain ⟨w, ew⟩ := b.waiting
    exact .inr ⟨u, by rw [ew]; exact List.mem_append_left _ hu, ha, hin⟩

theorem Gained.before {f g h : Fabric} {o : Out} (a : Grows f g) (b : Gained g h o) : Gained f h o := by
  rcases b with ⟨l, e, hin⟩ | ⟨u, hu, ha, hin⟩
  · obtain ⟨m, em⟩ := a.out
    exact .inl ⟨m ++ l, by rw [e, em, List.append_assoc], List.mem_append_right _ hin⟩
  · exact .inr ⟨u, hu, Nat.le_trans a.arrivals ha, hin⟩

theorem gained_offer {f g : Fabric} {u : CUnit} {o : Out} (h : Grows f g) (ho : o ∈ u.send) : Gained f (g.offer 48 u) o := by
  have hw := (offer_reg g u).2
  refine Gained.before h (.inr ⟨{ u with tag := (g.reg 48).nextTag, arrived := (g.reg 48).arrivals, since := g.now }, ?_, Nat.le_refl _, ho⟩)
  rw [hw]
  exact List.mem_append_right _ List.mem_cons_self

/-- A write to host memory leaves, or waits at the host port. -/
theorem hostWrite_gains (f : Fabric) (s : Option Nat) (n : Nat) (o : Out) :
    Grows f (f.hostWrite s n o) ∧ Gained f (f.hostWrite s n o) o := by
  unfold Fabric.hostWrite
  split
  · exact ⟨⟨⟨[o], rfl⟩, Nat.le_refl _, ⟨[], by simp; rfl⟩⟩, .inl ⟨[o], rfl, List.mem_singleton.mpr rfl⟩⟩
  · unfold Fabric.offerHost
    simp only
    refine ⟨Grows.offers f _ _, ?_⟩
    have hl : ceilDiv (max n 1) 256 ≠ 0 := by unfold ceilDiv; omega
    obtain ⟨k, hk⟩ : ∃ k, ceilDiv (max n 1) 256 = k + 1 := ⟨_, (Nat.succ_pred_eq_of_ne_zero hl).symm⟩
    have hz : (splitUnits (max n 1)).length = k + 1 := by simp [splitUnits, hk]
    have he : ∃ a b, (splitUnits (max n 1)).zipIdx = a ++ [(b, k)] := by
      unfold splitUnits
      rw [hk, List.range_succ, List.map_append, List.zipIdx_append]
      exact ⟨((List.range k).map (fun i => (256 * i, min 256 (max n 1 - 256 * i)))).zipIdx, (256 * k, min 256 (max n 1 - 256 * k)), by simp⟩
    obtain ⟨a, b, e⟩ := he
    rw [e, hz, List.foldl_append]
    simp only [List.foldl_cons, List.foldl_nil, beq_self_eq_true, if_true]
    refine gained_offer ?_ List.mem_cons_self
    let g : (Nat × Nat) × Nat → CUnit := fun u =>
      { slice := s, cls := if s.isSome then 5 else 6, charge := chargeOf u.1.2, write := true,
        send := if u.2 + 1 == k + 1 then [o] else [],
        done := if u.2 + 1 == k + 1 then none else none }
    exact Grows.offers f a g

theorem irq_grows (f : Fabric) (n v : Nat) : Grows f (f.irq n v) := by
  unfold Fabric.irq
  split
  · exact .refl f
  · exact (hostWrite_gains _ _ _ _).1

/-- The reply of an awaited packet is written at once, as its path can answer and the cores run. -/
theorem reply_answers (f : Fabric) (p : Packet) (r : Reply) (ha : f.ctl.awaiting.contains (preq p) = true)
    (hu : f.coresUp = true) (hc : f.canAnswer p = true)
    (hf : ∀ n, p.path = .fn n → (f.fn n).ctlRing.enable = true ∧ (f.fn n).waiting.isEmpty = true) :
    Grows f (f.reply (preq p) r) ∧ ∃ o, Gained f (f.reply (preq p) r) o ∧ Out.answers (preq p) o = some r := by
  unfold Fabric.reply Fabric.answer
  have hu' : (f.onCtl (fun c => { c with awaiting := c.awaiting.erase (preq p) })).coresUp = true := hu
  simp only [ha, if_true, hu']
  unfold Fabric.finishReply
  cases hp : p.path with
  | mailbox id =>
    have hq : (preq p).path = .mailbox id := hp
    simp only [hq]
    unfold Fabric.sendReply
    simp only [hq]
    have key : ∀ fl tag n, Out.answers (preq p) (Out.reply (.mailbox id) 0 (replyBytes (preq p) r fl tag n)) = some r := by
      intro fl tag n
      have := answers_reply (preq p) r 0 fl tag n
      rw [hq] at this
      exact this
    have go : ∀ g : Fabric, g.cleat = f.cleat → (∃ o, g.out = f.out ++ [o] ∧ Out.answers (preq p) o = some r) →
        Grows f g ∧ ∃ o, Gained f g o ∧ Out.answers (preq p) o = some r := by
      intro g hc ⟨o, ho, hr⟩
      have e : g.reg 48 = f.reg 48 := by unfold Fabric.reg; rw [hc]
      exact ⟨⟨⟨_, ho⟩, Nat.le_of_eq (by rw [e]), ⟨[], by simp [e]⟩⟩, o, .inl ⟨_, ho, List.mem_singleton.mpr rfl⟩, hr⟩
    split
    · split
      · exact go _ rfl ⟨_, rfl, key _ _ _⟩
      · exact go _ rfl ⟨_, rfl, key _ _ _⟩
    · exact go _ rfl ⟨_, rfl, key _ _ _⟩
  | fn n =>
    have hq : (preq p).path = .fn n := hp
    obtain ⟨he, hw⟩ := hf n hp
    have hs : (f.fn n).silent = false ∧ ringRoom (f.fn n).ctlRing = true := by
      have := hc
      simp only [Fabric.canAnswer, hp, Bool.and_eq_true, Bool.not_eq_true'] at this
      exact this
    simp only [hq]
    have out : ∀ g : Fabric, Grows g (g.settleDisable n) := by
      intro g
      unfold Fabric.settleDisable
      split
      · exact .same rfl rfl
      · exact .refl g
    unfold Fabric.sendReply
    simp only [hq]
    have e : ∀ g, ((f.onCtl g).fn n) = f.fn n := fun _ => rfl
    simp only [e, hs.1, he, hw, hs.2, Bool.not_true, Bool.or_false, Bool.and_true, if_false, if_true, Bool.false_eq_true]
    unfold Fabric.ringReply
    simp only [e]
    generalize ho : Out.reply (.fn n) (ringSlot (f.fn n).ctlRing)
      (if ringPhase (f.fn n).ctlRing = true then replyBytes (preq p) r (replyFlags false false) 0 0 ||| 0x1000000
        else replyBytes (preq p) r (replyFlags false false) 0 0) = o
    have hr : Out.answers (preq p) o = some r := by
      have a1 := answers_reply (preq p) r (ringSlot (f.fn n).ctlRing) (replyFlags false false) 0 0
      have a2 := answers_phase (preq p) r (ringSlot (f.fn n).ctlRing) (replyFlags false false) 0 0
      rw [hq] at a1 a2
      rw [← ho]
      split
      · exact a2
      · exact a1
    have b1 := hostWrite_gains (f.onCtl (fun c => { c with awaiting := c.awaiting.erase (preq p) })) (f.fn n).slice 64 o
    have b0 : Grows f (f.onCtl (fun c => { c with awaiting := c.awaiting.erase (preq p) })) := .same rfl rfl
    have b2 : ∀ g : Fabric, Grows g (((g.onFn n (fun x => { x with ctlRing := { x.ctlRing with tail := x.ctlRing.tail + 1 } })).irq n
        (f.fn n).ctlRing.vector).settleDisable n) := fun g => (Grows.onFn g n _).trans ((irq_grows _ _ _).trans (out _))
    exact ⟨b0.trans (b1.1.trans (b2 _)), o, Gained.before b0 (b1.2.after (b2 _)), hr⟩

/-! ### A packet that passes its checks -/

theorem taking_awaits (f : Fabric) (p : Packet) : (f.taking p).ctl.awaiting.contains (preq p) = true := by
  unfold Fabric.taking
  simp

/-- A row's own effect on the fabric that took the packet, and the reply where it falls due at once. -/
def Row.effect (row : Row) (p : Packet) (f : Fabric) : Fabric :=
  let a := row.body p (preq p) f
  match a.2 with
  | some r => a.1.reply (preq p) r
  | none => a.1

/-- A packet that passes runs its row's own effect on the fabric that took it. -/
theorem control_passes (s : State) (row : Row) (p : Packet) (h : s.fab.passes row p = true) :
    s.run (control row p) = .next { s with fab := closeRun s.fab (row.effect p (s.fab.taking p)) } := by
  simp only [Fabric.passes, Fabric.hears, Bool.and_eq_true, decide_eq_true_eq] at h
  obtain ⟨⟨⟨⟨hu, hl⟩, hp⟩, ha⟩, hf⟩ := h
  have hb : s.fab.inReset = false := by
    simp only [Fabric.coresUp, Bool.and_eq_true] at hu
    have := hu.1.1
    unfold Fabric.inReset
    cases hx : s.fab.rs.boot <;> rw [hx] at this <;> first | rfl | exact absurd this (by decide)
  rw [State.run_eq s _ hb]
  have hu' : (openRun s.fab).coresUp = true := hu
  have app : ∀ f : Fabric, f.onCtl (fun c => { c with awaiting := c.awaiting ++ [preq p] }) = s.fab.taking p →
      acceptWith row.apply p f = row.effect p (s.fab.taking p) := by
    intro f hf'
    unfold acceptWith Row.apply Row.effect
    simp only [hf', hl, ha, hf, ne_eq, not_true, if_false, Bool.not_true, Bool.false_eq_true]
    try (cases (row.body p (preq p) (s.fab.taking p)).2 <;> rfl)
  unfold control controlWith
  simp only [hu', Bool.not_true, Bool.false_eq_true, if_false]
  cases hpath : p.path with
  | mailbox id =>
    rw [hpath] at hp
    simp only at hp ⊢
    have hs : (openRun s.fab).session? id = s.fab.session? id := rfl
    rw [hs]
    cases hsess : s.fab.session? id with
    | none => rw [hsess] at hp; simp at hp
    | some x =>
      rw [hsess] at hp
      simp only [Bool.and_eq_true, decide_eq_true_eq] at hp
      simp only [hp.1, hp.2, Bool.not_true, Bool.false_eq_true, if_false, if_true]
      rw [app]
      unfold Fabric.taking
      rw [hpath]
  | fn n =>
    rw [hpath] at hp
    simp only [Bool.and_eq_true] at hp
    have h1 : ((openRun s.fab).fn n) = s.fab.fn n := rfl
    simp only [h1, hp.1, hp.2, Bool.not_true, Bool.false_eq_true, if_false]
    rw [app]
    unfold Fabric.taking
    rw [hpath]

/-- An answer that left or newly waits is written, once the run is closed. -/
theorem answered_close (s : State) (g h : Fabric) (p : Packet) (r : Reply) (o : Out) (hk : (s.fab.reg 48).arrivals ≤ (g.reg 48).arrivals)
    (hg : Gained g h o) (ho : Out.answers (preq p) o = some r) : Answered s { s with fab := closeRun s.fab h } p r := by
  unfold Answered
  rw [driven_close]
  refine List.mem_filterMap.mpr ⟨o, List.mem_append.mpr ?_, ho⟩
  rcases hg with ⟨l, e, hin⟩ | ⟨u, hu, ha, hin⟩
  · exact .inl (by rw [e]; exact List.mem_append_right _ hin)
  · refine .inr (List.mem_flatMap.mpr ⟨u, List.mem_filter.mpr ⟨hu, ?_⟩, hin⟩)
    exact decide_eq_true (Nat.le_trans hk ha)

/-- All that a packet with an immediate answer can do: its row's effect, and the reply. -/
theorem control_answered (s : State) (row : Row) (p : Packet) (g : Fabric) (r : Reply) (h : s.fab.passes row p = true)
    (hb : row.body p (preq p) (s.fab.taking p) = (g, some r)) (hw : g.writes = []) (hm : g.mem = s.fab.mem) :
    ∃ t, s.run (control row p) = .next t ∧ t.fab.bare p = g.bare p ∧
      (g.ctl = (s.fab.taking p).ctl → (s.fab.reg 48).arrivals ≤ (g.reg 48).arrivals → g.rs = s.fab.rs → (∀ n, p.path = .fn n → (g.fn n).silent = (s.fab.fn n).silent ∧
        (g.fn n).ctlRing = (s.fab.fn n).ctlRing ∧ (g.fn n).waiting = (s.fab.fn n).waiting) → Answers s t p r) := by
  refine ⟨_, control_passes s row p h, ?_, ?_⟩
  · simp only [Row.effect, hb]
    rw [bare_close _ _ _ (by rw [reply_writes, hw]) (by rw [reply_mem, hm]), bare_reply _ _ _ _ rfl]
  · intro hc hk hr hn ha
    simp only [Fabric.passes, Fabric.hears, Bool.and_eq_true, decide_eq_true_eq] at h
    obtain ⟨⟨⟨⟨hu, _⟩, hp⟩, _⟩, _⟩ := h
    obtain ⟨_, o, hg, ho⟩ := reply_answers g p r (by rw [hc]; exact taking_awaits _ _)
      (by unfold Fabric.coresUp at *; rw [hr]; exact hu)
      (by
        unfold Fabric.canAnswer at *
        cases hpp : p.path with
        | mailbox id => rfl
        | fn n =>
          obtain ⟨e1, e2, e3⟩ := hn n hpp
          rw [hpp] at ha
          simp only [e1, e2]
          exact ha)
      (by
        intro n hpn
        obtain ⟨e1, e2, e3⟩ := hn n hpn
        rw [hpn] at hp
        simp only [Bool.and_eq_true] at hp
        rw [e2, e3]
        exact hp)
    simp only [Row.effect, hb]
    exact answered_close s g _ p r o hk hg ho

/-- All that a packet whose reply falls due later can do: its row's effect. -/
theorem control_waits (s : State) (row : Row) (p : Packet) (g : Fabric) (h : s.fab.passes row p = true)
    (hb : row.body p (preq p) (s.fab.taking p) = (g, none)) (hw : g.writes = []) (hm : g.mem = s.fab.mem) :
    ∃ t, s.run (control row p) = .next t ∧ t.fab.bare p = g.bare p ∧
      (g.ctl = (s.fab.taking p).ctl → g.out = [] → Waits s t p) := by
  refine ⟨_, control_passes s row p h, ?_, ?_⟩
  · simp only [Row.effect, hb]
    rw [bare_close _ _ _ hw hm]
  · intro hc ho
    simp only [Row.effect, hb]
    exact ⟨hc, by simp only [driven_close, ho]⟩

/-- A fabric as it stands while a packet is on its way. -/
def Fabric.during (g f : Fabric) (p : Packet) : Fabric := { g with ctl := (f.taking p).ctl, out := [], writes := [] }

theorem taking_during (f : Fabric) (p : Packet) : f.taking p = f.during f p := taking_eq f p

theorem bare_during (g f : Fabric) (p : Packet) : (g.during f p).bare p = g.bare p :=
  bare_of_fields _ _ _ rfl

/-- A packet answered at once: its row turns the fabric into `g`, and nothing else changes. -/
theorem control_does (s : State) (row : Row) (p : Packet) (g : Fabric) (r : Reply) (h : s.fab.passes row p = true)
    (hb : row.body p (preq p) (s.fab.during s.fab p) = (g.during s.fab p, some r)) (hm : g.mem = s.fab.mem)
    (hr : g.rs = s.fab.rs) (hn : g.fns = s.fab.fns) (hk : (s.fab.reg 48).arrivals ≤ (g.reg 48).arrivals := by exact Nat.le_refl _) :
    ∃ t, s.run (control row p) = .next t ∧ Answers s t p r ∧ t.fab.bare p = g.bare p := by
  rw [← taking_during] at hb
  obtain ⟨t, h1, h2, h3⟩ := control_answered s row p (g.during s.fab p) r h hb rfl hm
  have hf : ∀ n, (g.during s.fab p).fn n = s.fab.fn n := fun n => by
    show g.fns.getD n {} = s.fab.fns.getD n {}
    rw [hn]
  exact ⟨t, h1, h3 rfl hk hr (fun n _ => by rw [hf]; exact ⟨rfl, rfl, rfl⟩), h2.trans (bare_during _ _ _)⟩

/-- The same for a row that changes functions, but not the sender's reply ring. -/
theorem control_does_fn (s : State) (row : Row) (p : Packet) (g : Fabric) (r : Reply) (h : s.fab.passes row p = true)
    (hb : row.body p (preq p) (s.fab.during s.fab p) = (g.during s.fab p, some r)) (hm : g.mem = s.fab.mem)
    (hr : g.rs = s.fab.rs) (hn : ∀ n, p.path = .fn n → (g.fn n).silent = (s.fab.fn n).silent ∧
      (g.fn n).ctlRing = (s.fab.fn n).ctlRing ∧ (g.fn n).waiting = (s.fab.fn n).waiting) (hk : (s.fab.reg 48).arrivals ≤ (g.reg 48).arrivals := by exact Nat.le_refl _) :
    ∃ t, s.run (control row p) = .next t ∧ Answers s t p r ∧ t.fab.bare p = g.bare p := by
  rw [← taking_during] at hb
  obtain ⟨t, h1, h2, h3⟩ := control_answered s row p (g.during s.fab p) r h hb rfl hm
  exact ⟨t, h1, h3 rfl hk hr hn, h2.trans (bare_during _ _ _)⟩

theorem onFn_keeps (f : Fabric) (n : Nat) (g : Fn → Fn) (hg : ∀ x, (g x).silent = x.silent ∧ (g x).ctlRing = x.ctlRing ∧
    (g x).waiting = x.waiting) (m : Nat) : ((f.onFn n g).fn m).silent = (f.fn m).silent ∧
      ((f.onFn n g).fn m).ctlRing = (f.fn m).ctlRing ∧ ((f.onFn n g).fn m).waiting = (f.fn m).waiting := by
  by_cases h : m = n
  · subst h
    have e : (f.onFn m g).fn m = g (f.fn m) := by simp [Fabric.fn]
    rw [e]
    exact hg _
  · have e : (f.onFn n g).fn m = f.fn m := by simp [Fabric.fn, Tab.getD_upd_other _ _ _ _ _ _ h]
    rw [e]
    exact ⟨rfl, rfl, rfl⟩

/-- A packet whose reply falls due later: its row turns the fabric into `g`, and nothing else changes. -/
theorem control_defers (s : State) (row : Row) (p : Packet) (g : Fabric) (h : s.fab.passes row p = true)
    (hb : row.body p (preq p) (s.fab.during s.fab p) = (g.during s.fab p, none)) (hm : g.mem = s.fab.mem) :
    ∃ t, s.run (control row p) = .next t ∧ Waits s t p ∧ t.fab.bare p = g.bare p := by
  rw [← taking_during] at hb
  obtain ⟨t, h1, h2, h3⟩ := control_waits s row p (g.during s.fab p) h hb rfl hm
  exact ⟨t, h1, h3 rfl rfl, h2.trans (bare_during _ _ _)⟩

/-- The same for a row that drives outputs besides. -/
theorem control_drives (s : State) (row : Row) (p : Packet) (g : Fabric) (o : List Out) (h : s.fab.passes row p = true)
    (hb : row.body p (preq p) (s.fab.during s.fab p) = ({ g.during s.fab p with out := o }, none)) (hm : g.mem = s.fab.mem) :
    ∃ t, s.run (control row p) = .next t ∧ t.fab.ctl = (s.fab.taking p).ctl ∧ driven s t = o ∧ t.fab.bare p = g.bare p := by
  rw [← taking_during] at hb
  refine ⟨_, control_passes s row p h, ?_, ?_, ?_⟩
  · simp only [Row.effect, hb]
    rfl
  · simp only [Row.effect, hb, driven_close]
  · simp only [Row.effect, hb]
    exact (bare_close s.fab { g.during s.fab p with out := o } p rfl hm).trans (bare_of_fields _ _ _ rfl)

/-- A row that drives outputs and is answered at once. -/
theorem control_drives_reply (s : State) (row : Row) (p : Packet) (g : Fabric) (o : List Out) (r : Reply)
    (h : s.fab.passes row p = true)
    (hb : row.body p (preq p) (s.fab.during s.fab p) = ({ g.during s.fab p with out := o }, some r)) (hm : g.mem = s.fab.mem)
    (hr : g.rs = s.fab.rs) (hn : ∀ n, p.path = .fn n → (g.fn n).silent = (s.fab.fn n).silent ∧
      (g.fn n).ctlRing = (s.fab.fn n).ctlRing ∧ (g.fn n).waiting = (s.fab.fn n).waiting) (hk : (s.fab.reg 48).arrivals ≤ (g.reg 48).arrivals := by exact Nat.le_refl _) :
    ∃ t, s.run (control row p) = .next t ∧ Answers s t p r ∧ (s.fab.canAnswer p = true → ∃ l, driven s t = o ++ l) ∧
      t.fab.bare p = g.bare p := by
  rw [← taking_during] at hb
  refine ⟨_, control_passes s row p h, ?_, ?_, ?_⟩
  · obtain ⟨t, h1, h2, h3⟩ := control_answered s row p { g.during s.fab p with out := o } r h hb rfl hm
    rw [control_passes s row p h] at h1
    cases h1
    exact h3 rfl hk hr hn
  · intro ha
    have hp := h
    simp only [Fabric.passes, Fabric.hears, Bool.and_eq_true, decide_eq_true_eq] at hp
    obtain ⟨⟨⟨⟨hu, _⟩, hp⟩, _⟩, _⟩ := hp
    obtain ⟨⟨⟨l, hl⟩, _, _⟩, _⟩ := reply_answers { g.during s.fab p with out := o } p r (taking_awaits _ _)
      (by unfold Fabric.coresUp at *; rw [show ({ g.during s.fab p with out := o } : Fabric).rs = s.fab.rs from hr]; exact hu)
      (by
        unfold Fabric.canAnswer at *
        cases hpp : p.path with
        | mailbox id => rfl
        | fn n =>
          obtain ⟨e1, e2, e3⟩ := hn n hpp
          rw [hpp] at ha
          show (!(g.fn n).silent && ringRoom (g.fn n).ctlRing) = true
          rw [e1, e2]
          exact ha)
      (by
        intro n hpn
        obtain ⟨e1, e2, e3⟩ := hn n hpn
        rw [hpn] at hp
        simp only [Bool.and_eq_true] at hp
        show (g.fn n).ctlRing.enable = true ∧ (g.fn n).waiting.isEmpty = true
        rw [e2, e3]
        exact hp)
    refine ⟨l, ?_⟩
    simp only [Row.effect, hb, driven_close]
    exact hl
  · simp only [Row.effect, hb]
    refine (bare_close _ _ _ ?_ ?_).trans ((bare_reply _ _ _ _ rfl).trans (bare_of_fields _ _ _ rfl))
    · rw [reply_writes]; rfl
    · rw [reply_mem]; exact hm

/-- A row that writes its own reply. -/
theorem control_replies (s : State) (row : Row) (p : Packet) (g : Fabric) (r : Reply) (h : s.fab.passes row p = true)
    (hb : row.body p (preq p) (s.fab.during s.fab p) = ((g.during s.fab p).reply (preq p) r, none)) (hm : g.mem = s.fab.mem)
    (hr : g.rs = s.fab.rs) (hn : ∀ n, p.path = .fn n → (g.fn n).silent = (s.fab.fn n).silent ∧
      (g.fn n).ctlRing = (s.fab.fn n).ctlRing ∧ (g.fn n).waiting = (s.fab.fn n).waiting) (hk : (s.fab.reg 48).arrivals ≤ (g.reg 48).arrivals := by exact Nat.le_refl _) :
    ∃ t, s.run (control row p) = .next t ∧ Answers s t p r ∧ t.fab.bare p = g.bare p := by
  let row' : Row := { row with body := fun _ _ _ => (g.during s.fab p, some r) }
  have h' : s.fab.passes row' p = true := h
  obtain ⟨t, h1, h2, h3⟩ := control_does_fn s row' p g r h' rfl hm hr hn hk
  refine ⟨t, ?_, h2, h3⟩
  rw [control_passes s row' p h'] at h1
  rw [control_passes s row p h, ← h1, taking_during]
  simp only [Row.effect, hb, row']

theorem tab_all_upd {α : Type} (t : Tab α) (k : Nat) (d : α) (g : α → α) (c : α → Bool) (hd : c d = true)
    (hg : ∀ x, c (g x) = c x) : (t.upd k d g).all (fun e => c e.2) = t.all (fun e => c e.2) := by
  unfold Tab.upd Tab.getD
  induction t with
  | nil => simp [Tab.put, Tab.find, hg, hd]
  | cons e t ih =>
    obtain ⟨k', v'⟩ := e
    simp only [Tab.put, Tab.find]
    by_cases h1 : k < k'
    · have h2 : k' ≠ k := by omega
      simp only [h1, h2, if_true, if_false] at *
      have : ∀ (u : Tab α), u.all (fun e => c e.2) = true → c ((u.find k).getD d) = true := by
        intro u
        induction u with
        | nil => intro _; exact hd
        | cons x u ihu =>
          intro hx
          simp only [List.all_cons, Bool.and_eq_true] at hx
          simp only [Tab.find]
          split
          · exact hx.1
          · exact ihu hx.2
      simp only [List.all_cons, hg]
      cases ht : t.all (fun e => c e.2) with
      | true => simp [this t ht]
      | false => simp
    · by_cases h2 : k = k'
      · subst h2
        simp [hg]
      · have h3 : k' ≠ k := fun e => h2 e.symm
        simp only [h1, h2, h3, if_false, List.all_cons, ih]

theorem quiet_onFn (f : Fabric) (n : Nat) (g : Fn → Fn) (hg : ∀ x, (g x).resetState = x.resetState) :
    (f.onFn n g).quiet = f.quiet := by
  unfold Fabric.quiet
  simp only [Fabric.onFn_frame, Fabric.onFn_splice, Fabric.onFn_belay, Fabric.onFn_rs, Fabric.onFn_fns, Fabric.onFn_sqs, Fabric.onFn_slices,
    Fabric.onFn_keys]
  rw [tab_all_upd f.fns n {} g (fun x => x.resetState != 1) rfl (fun x => by rw [hg])]

theorem quiet_offer (f : Fabric) (n : Nat) (u : CUnit) : (f.offer n u).quiet = f.quiet := rfl
theorem quiet_emit (f : Fabric) (o : Out) : (f.emit o).quiet = f.quiet := rfl
theorem quiet_onCtl (f : Fabric) (g : Ctl → Ctl) : (f.onCtl g).quiet = f.quiet := rfl
theorem quiet_onSession (f : Fabric) (id : BitVec 32) (g : Session → Session) : (f.onSession id g).quiet = f.quiet := rfl
theorem quiet_during (g f : Fabric) (p : Packet) : (g.during f p).quiet = g.quiet := rfl

theorem quiet_hostWrite (f : Fabric) (s : Option Nat) (n : Nat) (o : Out) : (f.hostWrite s n o).quiet = f.quiet := by
  have h := unreplied_hostWrite f s n o
  have e : ∀ g : Fabric, g.quiet = ({ g with ctl := {}, out := [], cleat := {} } : Fabric).quiet := fun _ => rfl
  have k : (f.hostWrite s n o).fns = f.fns := by
    unfold Fabric.hostWrite
    split
    · rfl
    · unfold Fabric.offerHost
      simp only
      generalize (splitUnits (max n 1)).zipIdx = l
      generalize (splitUnits (max n 1)).length = z
      rename_i hz
      clear hz h
      induction l generalizing f with
      | nil => rfl
      | cons u l ih => rw [List.foldl_cons, ih]; rfl
  have h1 : ({ f.hostWrite s n o with ctl := {}, out := [], cleat := {} } : Fabric) = { f with ctl := {}, out := [], cleat := {} } := by
    have := congrArg (fun g : Fabric => { g with fns := f.fns }) h
    simpa [Fabric.unreplied, k] using this
  rw [e, h1, ← e]

theorem quiet_irq (f : Fabric) (n v : Nat) : (f.irq n v).quiet = f.quiet := by
  unfold Fabric.irq
  split
  · rfl
  · exact quiet_hostWrite _ _ _ _

theorem quiet_sendReply (f : Fabric) (q : Req) (r : Reply) (dup hw : Bool) : (f.sendReply q r dup hw).quiet = f.quiet := by
  unfold Fabric.sendReply
  cases q.path with
  | mailbox id =>
    simp only
    split
    · split <;> rfl
    · rfl
  | fn n =>
    simp only
    split
    · rfl
    · split
      · unfold Fabric.ringReply
        simp only
        rw [quiet_irq, quiet_onFn, quiet_hostWrite]
        intro x
        rfl
      · rw [quiet_onFn]
        intro x
        rfl

/-- A reply makes nothing due. -/
theorem quiet_reply (f : Fabric) (q : Req) (r : Reply) : (f.reply q r).quiet = f.quiet := by
  unfold Fabric.reply Fabric.answer Fabric.finishReply Fabric.settleDisable
  split
  · cases q.path with
    | mailbox id =>
      simp only
      split
      · rw [quiet_onSession, quiet_sendReply, quiet_onCtl]
      · rw [quiet_onCtl, quiet_onCtl]
    | fn n =>
      simp only
      split
      · split
        · rw [quiet_onFn, quiet_sendReply, quiet_onCtl]
          intro x
          rfl
        · rw [quiet_sendReply, quiet_onCtl]
      · rw [quiet_onCtl, quiet_onCtl]
  · rfl

/-! ### Packets of an intake (R409, R161) -/

theorem acceptPacket_other (p : Packet) (r : Option Nat) (s : State) (c : Instr) (h : packetCommand p = some c)
    (hc : ∀ q, c ≠ .ctxCancel q) : acceptPacket p r s = exec c s := by
  unfold acceptPacket
  split
  · rename_i q hq; exact absurd (Option.some.inj (h.symm.trans hq)) (hc q)
  · rename_i d hd hq; rw [Option.some.inj (h.symm.trans hq)]
  · rename_i hq; rw [hq] at h; cases h

theorem acceptPacket_cancel (p q : Packet) (r : Option Nat) (s : State) (h : packetCommand p = some (.ctxCancel q)) :
    acceptPacket p r s = s.run (control (rowCtxCancelAt r) q) := by
  unfold acceptPacket
  rw [h]

theorem acceptPacket_unlisted (p : Packet) (r : Option Nat) (s : State) (h : packetCommand p = none) :
    acceptPacket p r s = s.run (controlWith unknownApply p) := by
  unfold acceptPacket
  rw [h]

theorem idle_takes (s : State) (k : Nat) (p : Packet) (f : Fabric) (h : s.fab.inReset = false) (hk : s.fab.nextPath = some k)
    (ht : s.fab.takePacket k = some (p, f)) : idle s = acceptPacket p (s.fab.receipt k) { s with fab := f } := by
  simp [idle, h, hk, ht]

end Sys2Proof.Machine
end

