-- ==== Sys2Proof/Laws/Settle.lean ====
section
/-! SUPPORT. With nothing else due, the settling that follows a change of the queues does nothing. -/

namespace Sys2Proof.Machine

theorem keysOf_none {α : Type} (t : Tab α) (p : Nat → α → Bool) (h : ∀ e ∈ t, p e.1 e.2 = false) : Tab.keysOf t p = [] := by
  unfold Tab.keysOf
  rw [List.filter_eq_nil_iff.mpr (fun e he => by simp [h e he])]
  rfl

/-- A fold whose every step does nothing does nothing. -/
theorem foldl_same {α β : Type} (l : List α) (g : β → α → β) (b : β) (h : ∀ a ∈ l, g b a = b) : l.foldl g b = b := by
  induction l with
  | nil => rfl
  | cons a l ih =>
    rw [List.foldl_cons, h a List.mem_cons_self]
    exact ih (fun a ha => h a (List.mem_cons_of_mem _ ha))

theorem map_same {α : Type} (l : List α) (g : α → α) (h : ∀ a ∈ l, g a = a) : l.map g = l := by
  induction l with
  | nil => rfl
  | cons a l ih =>
    rw [List.map_cons, h a List.mem_cons_self, ih (fun a ha => h a (List.mem_cons_of_mem _ ha))]

/-! ### One clause for each part of the settling -/

theorem settleRebind_quiet (f : Fabric) (h : ∀ e ∈ f.sqs, ∀ d ∈ e.2.descs, d.stale = false) : f.settleRebind = f := by
  unfold Fabric.settleRebind Tab.each
  rw [map_same]
  intro e he
  have k : e.2.descs.map (fun d =>
      if d.stale && d.stage == .bound && d.belay == .bound && d.insts.all (fun i => i.2.belay == .bound || i.2.belay == .passed)
      then { d with stage := .unbound } else d) = e.2.descs := map_same _ _ (fun d hd => by simp [h e he d hd])
  simp only [k]

theorem settleConds_quiet (f : Fabric) (h : ∀ e ∈ f.sqs, ∀ d ∈ e.2.descs, (d.view e.2).cond = false) : f.settleConds = f := by
  unfold Fabric.settleConds
  refine foldl_same _ _ _ (fun e he => foldl_same _ _ _ (fun d hd => ?_))
  simp [h e he d hd]

theorem settleRows_quiet (f : Fabric) (h : ∀ e ∈ f.sqs, ∀ d ∈ e.2.descs, d.count = none) : f.settleRows = f := by
  unfold Fabric.settleRows
  refine foldl_same _ _ _ (fun e he => foldl_same _ _ _ (fun d hd => ?_))
  simp [h e he d hd]

theorem settleAllCancels_quiet (f : Fabric) (h : ∀ e ∈ f.sqs, e.2.cancels = []) : f.settleAllCancels = f := by
  unfold Fabric.settleAllCancels
  rw [keysOf_none _ _ (fun e he => by simp [h e he])]
  rfl

theorem settleFaults_quiet (f : Fabric) (h : ∀ e ∈ f.slices, e.2.tu.faults = []) : f.settleFaults = f := by
  unfold Fabric.settleFaults
  refine foldl_same _ _ _ (fun e he => ?_)
  rw [h e he]
  rfl

theorem settleSlack_quiet (f : Fabric) (h : f.frame.slackRun = []) : f.settleSlack = f := by
  unfold Fabric.settleSlack
  rw [h]
  rfl

theorem settleGroups_quiet (f : Fabric) (h : ∀ e ∈ f.splice.groups, e.2.running = none ∧ e.2.destroy = none ∧ e.2.state ≠ 3) :
    f.settleStale = f ∧ f.settleSteps = f ∧ f.settleGroups = f := by
  refine ⟨?_, ?_, ?_⟩
  · unfold Fabric.settleStale
    rw [keysOf_none _ _ (fun e he => by simp [(h e he).1])]
    rfl
  · unfold Fabric.settleSteps
    rw [keysOf_none _ _ (fun e he => by simp [(h e he).2.2])]
    rfl
  · unfold Fabric.settleGroups
    rw [keysOf_none _ _ (fun e he => by simp [(h e he).2.1])]
    rfl

theorem settleImports_quiet (f : Fabric) (h : ∀ i ∈ f.keys.imports, i.begun = false ∧ i.ended = none) : f.settleImports = f := by
  have e : f.stopImports (fun i => i.begun && i.stale i.srcLen i.dstLen) = f := by
    unfold Fabric.stopImports
    have : f.keys.imports.filter (fun i => i.begun && i.stale i.srcLen i.dstLen) = [] :=
      List.filter_eq_nil_iff.mpr (fun i hi => by simp [(h i hi).1])
    simp [this]
  unfold Fabric.settleImports Fabric.closeImport
  rw [e]
  cases hi : f.keys.imports with
  | nil => rfl
  | cons i l =>
    have := (h i (by rw [hi]; exact List.mem_cons_self)).2
    simp [this]

theorem settleReplicas_quiet (f : Fabric) (h : ∀ e ∈ f.belay.replicas, e.2.result ≠ 1) : f.settleReplicas = f := by
  unfold Fabric.settleReplicas
  rw [keysOf_none _ _ (fun e he => by simp [h e he])]
  rfl

theorem settleQuiesce_quiet (f : Fabric) (h : ∀ e ∈ f.fns, e.2.resetState ≠ 1) : f.settleQuiesce = f := by
  unfold Fabric.settleQuiesce
  rw [keysOf_none _ _ (fun e he => by simp [h e he])]
  rfl

theorem settleDrain_quiet (f : Fabric) (h : f.rs.l5Drain = none) : f.settleDrain = f := by
  unfold Fabric.settleDrain
  simp [h]

/-- With nothing due, settling changes nothing. -/
theorem settle_quiet (f : Fabric) (h : f.quiet = true) : f.settle = f := by
  simp only [Fabric.quiet, Desc.quiet, Group.quiet, Bool.and_eq_true, List.all_eq_true, Bool.not_eq_true', List.isEmpty_iff,
    Option.isNone_iff_eq_none, bne_iff_ne, ne_eq] at h
  obtain ⟨⟨⟨⟨⟨⟨⟨hq, hf⟩, hs⟩, hg⟩, hi⟩, hr⟩, hn⟩, hl⟩ := h
  have g := settleGroups_quiet f (fun e he => ⟨(hg e he).1.1, (hg e he).1.2, (hg e he).2⟩)
  unfold Fabric.settle
  rw [settleRebind_quiet f (fun e he d hd => ((hq e he).2 d hd).1.1), settleConds_quiet f (fun e he d hd => ((hq e he).2 d hd).1.2),
    settleFaults_quiet f hf, settleRows_quiet f (fun e he d hd => ((hq e he).2 d hd).2), settleAllCancels_quiet f (fun e he => (hq e he).1),
    settleSlack_quiet f hs, g.1, g.2.1, g.2.2, settleReplicas_quiet f hr, settleImports_quiet f hi, settleQuiesce_quiet f hn, settleDrain_quiet f hl]

end Sys2Proof.Machine
end

