-- ==== Sys2Proof/WellFormed.lean ====
section
/-! DEFINITION. Which commands are well formed: every number an operand holds names something the spec gives the
fabric, and every value fits the field the spec gives it. -/

namespace Sys2Proof

/-- R38: slices 0 to 63. -/
def okSlice (s : Nat) : Bool := decide (s < 64)
/-- R136: functions 0 to 255. -/
def okFn (n : Nat) : Bool := decide (n < 256)
/-- R449: engines. -/
def okEngine (e : Nat) : Bool := decide (e < Config.engines)
/-- R137: chip-wide queues. -/
def okSq (q : Nat) : Bool := decide (q < 4096)
/-- R449: link ports. -/
def okPort (p : Nat) : Bool := decide (p < Config.ports)
/-- R449: stacks. -/
def okStack (k : Nat) : Bool := decide (k < Config.stackCount)
/-- R278: collective groups. -/
def okGroup (g : Nat) : Bool := decide (g < 256)
/-- R82: frame table entries. -/
def okEntry (i : Nat) : Bool := decide (i < 1024)
/-- R203: regulators: stacks 0 to 15, ports 16 to 47, the host port 48. -/
def okReg (r : Nat) : Bool := decide (r < 49)
/-- R188: translation faults of a slice. -/
def okFault (k : Nat) : Bool := decide (k < 16)
/-- R344: fault sources. -/
def okSource (n : Nat) : Bool := decide (n < 512)
/-- R196: window numbers and offsets of a request. -/
def okWindow (w : Nat) : Bool := decide (w < 1024)
/-- R280: chip numbers. -/
def okChip (c : Nat) : Bool := decide (c < 2 ^ 16)
/-- R433: offsets in a BAR of 16 MiB. -/
def okOffset (o : Nat) : Bool := decide (o < 2 ^ 24)
/-- R434: access sizes; one other than 4 and 8 is completed too. -/
def okSize (n : Nat) : Bool := decide (0 < n) && decide (n ≤ 8)
/-- R314: a link unit. -/
def LinkUnit.ok (u : LinkUnit) : Bool := okPort u.port && decide (u.vl < 8)
/-- R455: END 0 beats. -/
def okBeats (l : List Beat) : Bool := l.all (fun b => decide (b.member < 32))
/-- R408: a packet's path, and the path that carries it. -/
def Packet.ok (p : Packet) : Bool :=
  match p.path with
  | .mailbox _ => true
  | .fn n => okFn n

/-- The well-formed commands. -/
def Instr.wf : Instr → Bool
  | .sliceDefine p => p.ok
  | .sliceCreate p => p.ok
  | .sliceActivate p => p.ok
  | .sliceAmend p => p.ok
  | .sliceDestroy p => p.ok
  | .sliceQuery p => p.ok
  | .ftabHeader p => p.ok
  | .ftabWrite p => p.ok
  | .ftabCheck p => p.ok
  | .ftabSwitch p => p.ok
  | .ftabQuery p => p.ok
  | .frameSyncSet p => p.ok
  | .keyStage p => p.ok
  | .keyInstall p => p.ok
  | .keyDestroy p => p.ok
  | .keyQuery p => p.ok
  | .weightImport p => p.ok
  | .attestReport p => p.ok
  | .debugOpen p => p.ok
  | .debugClose p => p.ok
  | .vfEnable p => p.ok
  | .vfDisable p => p.ok
  | .cqCreate p => p.ok
  | .cqDestroy p => p.ok
  | .sqCreate p => p.ok
  | .sqDestroy p => p.ok
  | .ctxCancel p => p.ok
  | .objRegister p => p.ok
  | .objRelease p => p.ok
  | .objQuery p => p.ok
  | .astagCreate p => p.ok
  | .astagDestroy p => p.ok
  | .winOpen p => p.ok
  | .winClose p => p.ok
  | .accSnapshot p => p.ok
  | .belayAuditSet p => p.ok
  | .belayWatch p => p.ok
  | .belayHeldQuery p => p.ok
  | .replicaDefine p => p.ok
  | .replicaCheck p => p.ok
  | .replicaExpel p => p.ok
  | .fcRuleSet p => p.ok
  | .fcInject p => p.ok
  | .fcErrClear p => p.ok
  | .fcReactSet p => p.ok
  | .unitRetire p => p.ok
  | .testSet p => p.ok
  | .ledgerRead p => p.ok
  | .tmGuard p => p.ok
  | .tmResource p => p.ok
  | .tmChip p => p.ok
  | .ccRestart p => p.ok
  | .engineReset p => p.ok
  | .sliceReset p => p.ok
  | .chipReset p => p.ok
  | .powerCycle p => p.ok
  | .vfQuiesce p => p.ok
  | .vfResume p => p.ok
  | .peerNotice p => p.ok
  | .dumpTake p => p.ok
  | .dumpRead p => p.ok
  | .recoveryQuery p => p.ok
  | .chipNumberSet p => p.ok
  | .grpDefine p => p.ok
  | .grpCreate p => p.ok
  | .grpDestroy p => p.ok
  | .grpQuery p => p.ok
  | .switchAttest p => p.ok
  | .mailboxPacket p => match p.path with | .mailbox _ => true | .fn _ => false
  | .ctlReqSubmit fn _ => okFn fn
  | .ctlHead fn _ => okFn fn
  | .sqDoorbell fn j _ => okFn fn && okSq j
  | .cqDoorbell fn k _ => okFn fn && okSq k
  | .mapqDoorbell slice _ => okSlice slice
  | .faultHead fn _ => okFn fn
  | .fenceWrite fn n _ => okFn fn && decide (n < 1024)
  | .heartbeat _ _ => true
  | .faultRingEnable fn _ => okFn fn
  | .faultRingDisable fn _ => okFn fn
  | .ctlRingEnable fn _ => okFn fn
  | .ctlRingDisable fn _ => okFn fn
  | .mapqEnable slice _ => okSlice slice
  | .mapqDisable slice _ => okSlice slice
  | .ringWindowWrite fn _ data => okFn fn && decide (data.length ≤ 4096)
  | .registerWrite fn offset size _ => okFn fn && okOffset offset && okSize size
  | .registerRcRead fn offset size => okFn fn && okOffset offset && okSize size
  | .descriptorRead sq _ => okSq sq
  | .descriptorBind sq _ t => okSq sq && t.all (fun l => decide (l.1 < 2 ^ 32) && decide (l.2 < 4))
  | .countRead sq _ _ => okSq sq
  | .tilePlace slice => okSlice slice
  | .formWaitExpiry sq => okSq sq
  | .tileComplete engine _ beats => okEngine engine && okBeats beats
  | .engineAbortDone engine _ => okEngine engine
  | .operandUnreadable engine _ => okEngine engine
  | .exactRangeExceeded engine _ => okEngine engine
  | .testDone engine _ => okEngine engine
  | .engineResetDone engine => okEngine engine
  | .scrubDone engine => okEngine engine
  | .regionsReport engine count _ _ => okEngine engine && decide (count < 8)
  | .spData engine _ => okEngine engine
  | .addressResolve engine _ => okEngine engine
  | .budgetExpiry tile => okEngine tile.engine
  | .hangLimit tile => okEngine tile.engine
  | .isolatedReplayLimit tile => okEngine tile.engine
  | .extraRunPlace sq _ => okSq sq
  | .auditWindowEnd slice engine => okSlice slice && okEngine engine
  | .cauJobDone _ _ _ => true
  | .commit sq => okSq sq
  | .msixCoalesceExpiry fn k => okFn fn && okSq k
  | .frameBoundary => true
  | .slotTrim entry => okEntry entry
  | .activateTimeout slice => okSlice slice
  | .watchListExit engine => okEngine engine
  | .slotOwnerLatchLoad _ => true
  | .slotStart _ => true
  | .slackStart entry => okEntry entry
  | .issueWindowEnd entry => okEntry entry
  | .slotEnd entry => okEntry entry
  | .syncMessage u _ frameNum period => u.ok && decide (frameNum < 2 ^ 48) && decide (period < 2 ^ 18)
  | .pathDelayMeasure => true
  | .pathDelayRequest u => u.ok
  | .pathDelayResponse m => m.unit.ok
  | .syncMessageMissing => true
  | .frameSyncInEdge _ => true
  | .syncWindowMiss => true
  | .map slice _ => okSlice slice
  | .unmap slice _ => okSlice slice
  | .protect slice _ => okSlice slice
  | .resolve slice _ => okSlice slice
  | .parkTimeout slice fault => okSlice slice && okFault fault
  | .windowRequest u srcChip _ _ _ _ _ => u.ok && okChip srcChip
  | .linkRemoteRequest port engine isDma key peer window _ _ _ =>
    okPort port && (if isDma then decide (engine < Config.dmaEngines) else okEngine engine) && okSlice key.slice && okChip peer && okWindow window
  | .windowReply u _ code => u.ok && decide (code < 8)
  | .windowRequestTimeout _ => true
  | .miRequest stack chan _ wdata => okStack stack && decide (chan < Config.channels) && decide (wdata.length ≤ 256)
  | .cleatCycle r => okReg r
  | .unitResponse r _ status => okReg r && decide (status < 8)
  | .equalisedDelivery r _ => okReg r
  | .linkStateChange port lanes peer peerPort => okPort port && decide (lanes ≤ 8) && okChip peer && decide (peerPort < 256)
  | .droopAssert => true
  | .droopRelease => true
  | .droopHoldEnd => true
  | .stepReady g => okGroup g
  | .readyToken g t => g.unit.ok && okGroup g.body && decide (t.step < 2 ^ 16)
  | .goToken g t => g.unit.ok && okGroup g.body && decide (t.step < 2 ^ 16)
  | .stepAbort g step _ _ => g.unit.ok && okGroup g.body && decide (step < 2 ^ 16)
  | .chunkReceive u g h _ _ => u.ok && okGroup g && decide (h.step < 2 ^ 16)
  | .chunkAck g h => g.unit.ok && okGroup g.body && decide (h.step < 2 ^ 16)
  | .chunkNack g h => g.unit.ok && okGroup g.body && decide (h.step < 2 ^ 16)
  | .chunkAckTimeout g h => okGroup g && decide (h.step < 2 ^ 16)
  | .gangTimeout g => okGroup g
  | .joinMessage u _ _ => u.ok
  | .joined job => job.unit.ok
  | .joinTimeout g => okGroup g
  | .joinHoldExpiry _ => true
  | .groupBroken job => job.unit.ok
  | .grant g _ _ _ => g.unit.ok && okGroup g.body
  | .deny g => g.unit.ok && okGroup g.body
  | .reserveTimeout g => okGroup g
  | .peerNoticeReceived u kind chip _ => u.ok && decide (1 ≤ kind) && decide (kind ≤ 4) && okChip chip
  | .keyPortResponse _ => true
  | .keyUnwrapTimeout => true
  | .escrowConfirmTimeout slice => okSlice slice
  | .importDone _ _ _ _ => true
  | .zeroingDone slice => okSlice slice
  | .tenantEnvPublish => true
  | .controlKeyLoad _ _ => true
  | .controlKeyZero _ => true
  | .measurementRequest index => decide (index < 256)
  | .lanyardRaise source => okSource source
  | .lanyardBroken source => okSource source
  | .lanyardPoll source _ => okSource source
  | .classifyRecord => true
  | .containedTimerExpiry slice => okSlice slice
  | .fatalTimerExpiry => true
  | .xdomainTimeout request => okSource request.source
  | .injectUnconsumed => true
  | .injectNoRecord => true
  | .testDue engine => okEngine engine
  | .testBorrowTimeout engine => okEngine engine
  | .ledgerFlush _ => true
  | .eraseTokenRefill => true
  | .stressAccumulate => true
  | .watchdogExpiry => true
  | .lockstepDisagree => true
  | .ccMemoryError => true
  | .firmwareLoaded _ => true
  | .ccRestartTimeout => true
  | .resetAckTimeout engine => okEngine engine
  | .fidDumpDone _ _ => true
  | .selfRefreshEntered => true
  | .selfRefreshTimeout => true
  | .fuseReadDone _ _ _ => true
  | .reinstatementDone _ failedSlices => failedSlices.all okSlice
  | .functionLevelReset fn => okFn fn
  | .l5DrainTimeout => true
  | .summaryWaitTimeout => true
  | .trayAck => true
  | .pwrCycleReqRetry => true
  | .pwrCycleReqReassert => true
  | .fabPwrOkChange _ => true
  | .fabRstNAssert _ => true
  | .fabRstNRelease => true
  | .firmwareImageReceived _ => true
  | .sensorReadingDue => true
  | .sensorReply addr _ => decide (addr < 128)
  | .sensorNoReply addr => decide (addr < 128)
  | .railOutOfBand _ => true
  | .tapInstruction _ => true
  | .vfQuiesceTimeout fn => okFn fn
  | .ledgerAccessDone _ => true
  | .escrowRetryDue slice => okSlice slice
  | .errOutMinLowEnd => true
  | .trstNAssert => true
  | .formingFitDeadline sq => okSq sq
  | .enginePortTimeout engine _ => okEngine engine

end Sys2Proof
end

