-- ==== Sys2Proof/Tests/Slice0.lean ====
section
/-! SUPPORT. Tests of the model: for every statement of the obligations concrete states and operands that meet the
hypotheses of each of its clauses together (`test_witness_<statement>`), an ill-formed command for each check of
WellFormed, and single steps against numbers of the spec. -/

open Sys2Proof Sys2Proof.Machine

namespace Sys2Proof.Tests

set_option Elab.async false

/-! ### The fabric that the tests start from: running, one session with a control key, the PF's reply ring enabled, and
slice 0 with function 1 -/

/-- A packet on a path: opcode, slice and the fields of its parameters (packet offset, size, value). -/
def pkt (path : Path) (op slice : Nat) (l : List (Nat × Nat × Nat)) : Packet :=
  { path := path, opcode := BitVec.ofNat 16 op, len := 0x40, sliceByte := BitVec.ofNat 8 slice, seq := 5, tag := 0,
    params := l.foldl (fun v e => setField v (e.1 - 0x18) e.2.1 e.2.2) 0 }
def pf (op slice : Nat) (l : List (Nat × Nat × Nat) := []) : Packet := pkt (.fn 0) op slice l
def vf (op slice : Nat) (l : List (Nat × Nat × Nat) := []) : Packet := pkt (.fn 1) op slice l
/-- The session of the tests, and an operator packet with the tag that its key gives (R415). -/
def ses : Session := { id := 7, key := 1 }
def sign (p : Packet) : Packet := { p with tag := packetTag ses.key ses.id p }
def opk (op slice : Nat) (l : List (Nat × Nat × Nat) := []) : Packet := sign (pkt (.mailbox 7) op slice l)

/-- A slice record: engines 0 to 3, DMA engine 0, port 0 with virtual lane 0, 2 GiB of stack 0. -/
def rec0 : Rec :=
  [(0x1, 1, 1), (0x2, 1, 2), (0x4, 2, 16), (0x6, 2, 4), (0x8, 4, 256), (0xC, 2, 4), (0xE, 2, 2), (0x12, 2, 1), (0x20, 1, 15), (0x40, 1, 1),
   (0x48, 1, 1), (0x50, 1, 1), (0xB1, 1, 2)].foldl (fun r e => setField r e.1 e.2.1 e.2.2) 0

def ring0 : Ring := { addr := 1, log2 := 4, enable := true }
def fab0 : Fabric :=
  { rs := { powerOk := true, boot := .running }, ctl := { sessions := [ses] },
    fns := [(0, { ctlRing := ring0, attest := 1, faultRing := ring0 }), (1, { slice := some 0, ctlRing := ring0 })],
    units := { dmaPresent := 255, stackPresent := 4095, portPresent := 0xFFFFFFFF },
    engines := (List.range 8).map (fun k => (k, { state := .inService, exact := true })) }
/-- Slice 0 in a state, under the record. -/
def withSlice (st : SliceState) (f : Fabric) : Fabric :=
  f.onSlice 0 (fun x => { x with state := st, record := rec0, shadow := rec0, parts := 0xFFFF, engines := [0, 1, 2, 3], ports := [0],
                                 stackList := [0], clusters := [0], keyBase := 8 })
def actF : Fabric := withSlice .active fab0
def sOf (f : Fabric) : State := { fab := f }

/-- An operator packet with the right tag is heard like any other. -/
theorem passes_op (f : Fabric) (row : Row) (q : Packet) (hq : q.path = .mailbox 7) (hs : f.session? 7 = some ses)
    (h : (f.coresUp && decide (q.len = 0x40) && decide (ses.lastSeq < q.seq) && row.authorised (sign q) (f.taking (sign q))
      && row.formOk (sign q) (f.taking (sign q))) = true) : f.passes row (sign q) = true := by
  simp only [Bool.and_eq_true] at h
  obtain ⟨⟨⟨⟨h1, h2⟩, h3⟩, h4⟩, h5⟩ := h
  have hp : (sign q).path = .mailbox 7 := hq
  have ht : ((sign q).tag == packetTag ses.key ses.id (sign q)) = true := by
    rw [beq_iff_eq]; rfl
  have hv : ses.verifies (sign q) = true := by unfold Session.verifies; rw [ht]; rfl
  unfold Fabric.passes Fabric.hears
  rw [hp]
  simp only [hs, h1, hv, h4, h5, Bool.true_and, Bool.and_true, Bool.and_eq_true]
  exact ⟨h2, h3⟩
/-- A frame table header: a period of 40 µs, a guard band of 500 ns, one pattern. -/
def hdr0 : BitVec 512 := setField (setField (setField 0 0 4 40000) 4 2 500) 6 1 1
/-- Queue 3 of function 1, index 2, with two accepted descriptors; completion queue 1; tag 17 with a 64 KiB leaf at VA 0. -/
def sq0 : Sq := { fn := 1, loc := 2, ringLog2 := 6, cq := 1, accepted := 2, tail := 2, descs := [{ seq := 0 }, { seq := 1, order := 1 }] }
def tag0 : Tag := { fn := 1, leaves := [(0, { write := true, addr := 0x10000 })] }
def busyF : Fabric :=
  { actF with sqs := [(3, sq0)], accepts := 2, tags := [(17, tag0)],
              fns := [(0, { ctlRing := ring0, attest := 1, faultRing := ring0 }),
                      (1, { slice := some 0, ctlRing := ring0, faultRing := ring0, sqs := [(2, 3)], cqs := [(1, { log2 := 6, addr := 0x100000 })] })] }
/-- A group record: two members, chips 1 and 2, this chip rank 0, job 9, step queue 2 of function 1. -/
def grp0 : BitVec 2048 :=
  [(1, 1, 2), (4, 4, 9), (0xD, 1, 10), (0xE, 1, 4), (0xF, 1, 2), (0x10, 2, 50), (0x12, 1, 1), (0x20, 2, 1), (0x22, 2, 2)].foldl
    (fun r e => setField r e.1 e.2.1 e.2.2) 0
/-- Slice 0 with port 0 up to chip 2, its job key, an empty generation-3 step queue, and group 5 defined. -/
def grpF : Fabric :=
  { (busyF.onKeys (fun k => { k with links := [(4, { state := 1, slice := 0, loc := 0, tag := 77 })] })) with
      sqs := [(3, { sq0 with gen := 3, accepted := 4, commit := 4, tail := 4, descs := [] })]
      splice := { busyF.splice with chip := 1, groups := [(5, { state := 1, record := grp0, parts := 255 })] }
      cleat := { busyF.cleat with lanes := [(0, 4)], peers := [(0, (2, 0))] } }
/-- A fabric frozen by L4. -/
def frzF : Fabric := busyF.onRs (fun r => { r with frozen := true })
/-- Slice 0 with its map queue enabled: 64 entries, two records applied. -/
def mapF : Fabric := busyF.onTu 0 (fun u => { u with base := 0x601, tail := 2, applied := 2 })

/-! ### States that meet the hypotheses of each statement, clause by clause -/

theorem test_witness_SliceDefineCollectsParts :
    fab0.passes rowSliceDefine (opk 0x101 1 [(0x18, 1, 15), (0x20, 8, 3)]) = true ∧ (fab0.slice 1).state = .free ∧
    (withSlice .defining fab0).passes rowSliceDefine (opk 0x101 0 [(0x18, 1, 0)]) = true ∧ ((withSlice .defining fab0).slice 0).state = .defining ∧
    actF.passes rowSliceDefine (opk 0x101 0 [(0x18, 1, 15)]) = true ∧ (actF.slice 0).state = .active ∧ (actF.slice 0).amend = none ∧
    (withSlice .whipping fab0).passes rowSliceDefine (opk 0x101 0 [(0x18, 1, 1)]) = true ∧ ((withSlice .whipping fab0).slice 0).state = .whipping := by
  repeat' apply And.intro
  all_goals first | decide +kernel | exact passes_op _ _ _ rfl (by decide +kernel) (by decide +kernel)

theorem test_witness_SliceCreateAdmitsOrNamesTheCheck :
    (withSlice .defining fab0).passes rowSliceCreate (opk 0x102 0) = true ∧ ((withSlice .defining fab0).slice 0).state = .defining ∧
    (withSlice .defining fab0).admitCreate 0 = none ∧
    (withSlice .defining { fab0 with engines := [] }).passes rowSliceCreate (opk 0x102 0) = true ∧
    (withSlice .defining { fab0 with engines := [(0, { state := .retired })] }).admitCreate 0 = some 3 ∧
    actF.passes rowSliceCreate (opk 0x102 0) = true ∧ (actF.slice 0).state ≠ .defining := by
  repeat' apply And.intro
  all_goals first | decide +kernel | exact passes_op _ _ _ rfl (by decide +kernel) (by decide +kernel)

theorem test_witness_SliceActivateAndAmendWaitForABoundary :
    (withSlice .created fab0).passes rowSliceActivate (opk 0x103 0) = true ∧ ((withSlice .created fab0).slice 0).state = .created ∧
    ((withSlice .created fab0).slice 0).activate = none ∧
    actF.passes rowSliceAmend (opk 0x104 0) = true ∧ (actF.slice 0).state = .active ∧ (actF.slice 0).amend = none ∧
    actF.admitAmend 0 ((actF.slice 0).amendShadow.getD (actF.slice 0).record) = none ∧
    (let f := actF.onSlice 0 (fun x => { x with amendShadow := some 0 })
     f.passes rowSliceAmend (opk 0x104 0) = true ∧ (f.slice 0).state = .active ∧
     f.admitAmend 0 ((f.slice 0).amendShadow.getD (f.slice 0).record) = some 2) ∧
    actF.passes rowSliceActivate (opk 0x103 0) = true ∧ (actF.slice 0).state ≠ .created ∧
    (withSlice .resetting fab0).passes rowSliceAmend (opk 0x104 0) = true ∧ ((withSlice .resetting fab0).slice 0).state ≠ .created ∧
    ((withSlice .resetting fab0).slice 0).state ≠ .active := by
  repeat' apply And.intro
  all_goals first | decide +kernel | exact passes_op _ _ _ rfl (by decide +kernel) (by decide +kernel)

theorem test_witness_FrameTablePackets :
    fab0.passes rowFtabHeader (opk 0x201 0 [(0x18, 1, 1)]) = true ∧ fab0.frame.switch = none ∧
    fab0.passes rowFtabWrite (opk 0x202 0 [(0x18, 2, 1023), (0x1A, 1, 1)]) = true ∧
    fab0.passes rowFtabCheck (opk 0x203 0) = true ∧ fab0.checkTable = some (1, 0) ∧
    (let f := fab0.onFrame (fun fr => { fr with bank1 := { header := hdr0 } })
     f.passes rowFtabCheck (opk 0x203 0) = true ∧ f.checkTable = none) ∧
    (let f := fab0.onFrame (fun fr => { fr with checked := true })
     f.passes rowFtabSwitch (opk 0x204 0 [(0x18, 8, 9)]) = true ∧ f.frame.switch = none ∧ f.frame.checked = true) ∧
    (let f := fab0.onFrame (fun fr => { fr with switch := some { due := 9, req := none } })
     f.passes rowFtabSwitch (opk 0x204 0 [(0x18, 8, 9)]) = true ∧ f.frame.switch ≠ none) ∧
    fab0.passes rowFtabQuery (opk 0x205 0 [(0x18, 1, 2), (0x19, 1, 1)]) = true ∧ pfield (opk 0x205 0 [(0x18, 1, 2), (0x19, 1, 1)]) 0x18 1 = 2 ∧
    fab0.passes rowFtabQuery (opk 0x205 0 [(0x18, 1, 3), (0x1A, 2, 1023)]) = true ∧ 3 ≤ pfield (opk 0x205 0 [(0x18, 1, 3), (0x1A, 2, 1023)]) 0x18 1 ∧
    fab0.passes rowFtabSwitch (opk 0x204 0 [(0x18, 8, 9)]) = true ∧ fab0.frame.checked = false ∧
    fab0.passes rowFtabQuery (opk 0x205 0) = true ∧ pfield (opk 0x205 0) 0x18 1 = 0 ∧
    fab0.passes rowFrameSyncSet (opk 0x206 0 [(0x18, 1, 1), (0x19, 1, 3)]) = true := by
  repeat' apply And.intro
  all_goals first | decide +kernel | exact passes_op _ _ _ rfl (by decide +kernel) (by decide +kernel)

theorem test_witness_KeysAreStagedInstalledAndRevoked :
    fab0.passes rowKeyStage (opk 0x301 0 [(0x18, 1, 3), (0x20, 8, 9)]) = true ∧
    (let f := actF.onKeys (fun k => { k with staging := [(0, 0x0001#256), (1, 0), (2, 0), (3, 0)] })
     let p := opk 0x302 0 [(0x18, 1, 0), (0x1A, 2, 1), (0x1C, 2, 0)]
     f.passes rowKeyInstall p = true ∧ 0 = pfield p 0x18 1 ∧ 1 = pfield p 0x1A 2 ∧ (0 : BitVec 16) = BitVec.ofNat 16 (pfield p 0x1C 2) ∧
     (List.range 4).all (fun i => (f.keys.staging.find i).isSome) = true ∧ blobOk f.keys.blob 0 = true ∧
     (if 0 ≤ 2 then f.sliceUp (pslice p) else pslice p == 0) = true ∧ f.installIndexOk (pslice p) 0 1 = true ∧
     f.installFree (pslice p) 0 1 = true ∧ f.installTagOk 0 0 = true) ∧
    actF.passes rowKeyInstall (opk 0x302 0 [(0x18, 1, 0)]) = true ∧ (List.range 4).all (fun i => (actF.keys.staging.find i).isSome) = false ∧
    (withSlice .removing fab0).passes rowKeyDestroy (opk 0x303 0 [(0x18, 1, 2)]) = true ∧ pfield (opk 0x303 0 [(0x18, 1, 2)]) 0x18 1 ≤ 2 ∧
    leaving ((withSlice .removing fab0).slice 0).state = true ∧
    (let p := opk 0x303 0 [(0x18, 1, 4)]
     fab0.passes rowKeyDestroy p = true ∧ 3 ≤ pfield p 0x18 1 ∧ fab0.slotIndex (pslice p) (pfield p 0x18 1) (pfield p 0x1A 2) = some 0 ∧
     fab0.slotState (pfield p 0x18 1) 0 ≠ 1) ∧
    (let p := opk 0x303 0 [(0x18, 1, 3), (0x1A, 2, 5)]
     let f := fab0.onKeys (fun k => { k with hop := [(5, 1)] })
     f.passes rowKeyDestroy p = true ∧ 3 ≤ pfield p 0x18 1 ∧ f.slotIndex (pslice p) (pfield p 0x18 1) (pfield p 0x1A 2) = some 5 ∧
     f.slotState (pfield p 0x18 1) 5 = 1 ∧ f.quiet = true) ∧
    (let p := opk 0x303 0 [(0x18, 1, 0), (0x1A, 2, 1)]
     let f := actF.onKeys (fun k => { k with mem := [(9, { state := 1 })] })
     f.passes rowKeyDestroy p = true ∧ pfield p 0x18 1 = 0 ∧ 1 ≤ pfield p 0x1A 2 ∧ leaving (f.slice (pslice p)).state = false ∧
     f.slotIndex (pslice p) 0 (pfield p 0x1A 2) = some 9 ∧ f.slotState 0 9 = 1 ∧ f.keyHolders (pslice p) 0 (pfield p 0x1A 2) = [] ∧ f.quiet = true) ∧
    (let p := opk 0x303 0 [(0x18, 1, 2), (0x1A, 2, 3)]
     actF.passes rowKeyDestroy p = true ∧ actF.slotIndex (pslice p) (pfield p 0x18 1) (pfield p 0x1A 2) = none) := by
  repeat' apply And.intro
  all_goals first | decide +kernel | exact passes_op _ _ _ rfl (by decide +kernel) (by decide +kernel)

/-- A running import of slice 0. -/
def imp0 : Import := { req := preq (pf 0x305 0), slice := 0, selector := 1, srcTag := 0, dstTag := 0, srcVa := 0, dstVa := 0 }

theorem test_witness_ImportsAndReportsAreQueued :
    (let f := actF.onKeys (fun k => { k with mem := [(9, { state := 1, kind := 1 })], imports := [imp0, imp0, imp0, imp0] })
     let p := pf 0x305 0 [(0x18, 2, 1)]
     f.passes rowWeightImport p = true ∧ (f.slice (pslice p)).state = .active ∧ f.slotIndex (pslice p) 1 (pfield p 0x18 2) = some 9 ∧
     f.slotState 1 9 = 1 ∧ f.keys.imports.length < 5) ∧
    (let f := actF.onKeys (fun k => { k with mem := [(9, { state := 1, kind := 1 })], imports := [imp0, imp0, imp0, imp0, imp0] })
     let p := pf 0x305 0 [(0x18, 2, 1)]
     f.passes rowWeightImport p = true ∧ (f.slice (pslice p)).state = .active ∧ f.slotIndex (pslice p) 1 (pfield p 0x18 2) = some 9 ∧
     f.slotState 1 9 = 1 ∧ 5 ≤ f.keys.imports.length) ∧
    (let p := pf 0x305 0 [(0x18, 2, 1)]
     let f := withSlice .resetting fab0
     f.passes rowWeightImport p = true ∧ (f.slice (pslice p)).state ≠ .created ∧ (f.slice (pslice p)).state ≠ .active) ∧
    (let p := opk 0x306 3
     actF.passes rowAttestReport p = true ∧ actF.sliceUp (pslice p) = false) ∧
    actF.passes rowAttestReport (opk 0x306 0) = true ∧ (opk 0x306 0).path = .mailbox 7 ∧ actF.sliceUp (pslice (opk 0x306 0)) = true ∧
    actF.passes rowAttestReport (pf 0x306 0) = true ∧ (pf 0x306 0).path = .fn 0 ∧ bitAt (actF.fn 0).attest 0 = true := by
  repeat' apply And.intro
  all_goals first | decide +kernel | exact passes_op _ _ _ rfl (by decide +kernel) (by decide +kernel)

/-- An open debug session of slice 0. -/
def dbg0 : Debug := ⟨false, 0, 1, 7⟩

theorem test_witness_DebugSessionsAndTheirExposure :
    (let p := opk 0x307 0 [(0x18, 1, 0), (0x19, 1, 7)]
     actF.passes rowDebugOpen p = true ∧ p.path = .mailbox 7 ∧ pfield p 0x18 1 = 0 ∧ actF.sliceUp (pslice p) = true ∧
     actF.keys.dbg.lowestFree 0 4 = some 0) ∧
    (let f := actF.onKeys (fun k => { k with dbg := [(0, dbg0), (1, dbg0), (2, dbg0), (3, dbg0)] })
     let p := opk 0x307 0 [(0x18, 1, 1), (0x19, 1, 15)]
     f.passes rowDebugOpen p = true ∧ pfield p 0x18 1 = 1 ∧ f.keys.dbg.lowestFree 0 4 = none ∧
     f.passes rowDebugClose (opk 0x308 0 [(0x18, 1, 3)]) = true ∧ (f.keys.dbg.find (pfield (opk 0x308 0 [(0x18, 1, 3)]) 0x18 1)).isSome = true) ∧
    (let p := opk 0x307 0 [(0x18, 1, 1), (0x19, 1, 8)]
     actF.passes rowDebugOpen p = true ∧ p.path = .mailbox 7 ∧ pfield p 0x18 1 = 1 ∧ actF.keys.dbg.lowestFree 0 4 = some 0) ∧
    (let p := opk 0x307 3 [(0x18, 1, 0), (0x19, 1, 1)]
     actF.passes rowDebugOpen p = true ∧ pfield p 0x18 1 = 0 ∧ actF.sliceUp (pslice p) = false) ∧
    fab0.passes rowDebugClose (opk 0x308 0) = true ∧ (fab0.keys.dbg.find (pfield (opk 0x308 0) 0x18 1)).isSome = false := by
  repeat' apply And.intro
  all_goals first | decide +kernel | exact passes_op _ _ _ rfl (by decide +kernel) (by decide +kernel)

theorem test_witness_VfEnableAndDisable :
    (let p := pf 0x401 0 [(0x18, 1, 255)]
     actF.passes rowVfEnable p = true ∧ actF.sliceTakes (pslice p) = true ∧ (actF.fn (pfield p 0x18 1)).slice = none ∧
     (actF.vfsOf (pslice p)).length < recVfs (actF.slice (pslice p)).record) ∧
    (let f := actF.onFn 2 (fun x => { x with slice := some 0 })
     let p := pf 0x401 0 [(0x18, 1, 3)]
     f.passes rowVfEnable p = true ∧ f.sliceTakes (pslice p) = true ∧ (f.fn (pfield p 0x18 1)).slice = none ∧
     recVfs (f.slice (pslice p)).record ≤ (f.vfsOf (pslice p)).length) ∧
    actF.passes rowVfEnable (pf 0x401 0 [(0x18, 1, 1)]) = true ∧ (actF.fn (pfield (pf 0x401 0 [(0x18, 1, 1)]) 0x18 1)).slice.isSome = true ∧
    actF.passes rowVfDisable (pf 0x402 0 [(0x18, 1, 1)]) = true ∧ actF.fnBusy (pfield (pf 0x402 0 [(0x18, 1, 1)]) 0x18 1) = false ∧
    actF.passes rowVfDisable (pf 0x402 0 [(0x18, 1, 9)]) = true ∧ (actF.fn (pfield (pf 0x402 0 [(0x18, 1, 9)]) 0x18 1)).slice = none := by
  decide +kernel

theorem test_witness_CompletionQueueCreateAndDestroy :
    (let p := pf 0x403 0 [(0x18, 1, 1), (0x19, 1, 6), (0x20, 8, 4096)]
     busyF.passes rowCqCreate p = true ∧ busyF.sliceTakes (pslice p) = true ∧ busyF.fnIn (pfield p 0x18 1) (pslice p) = true ∧
     (busyF.fn (pfield p 0x18 1)).cqs.lowestFree 0 64 = some 0 ∧
     let f := busyF.onFn 1 (fun x => { x with cqs := (List.range 64).map (fun k => (k, {})) })
     f.passes rowCqCreate p = true ∧ f.fnIn (pfield p 0x18 1) (pslice p) = true ∧ (f.fn (pfield p 0x18 1)).cqs.lowestFree 0 64 = none) ∧
    (let p := pf 0x404 0 [(0x18, 1, 1), (0x19, 1, 1)]
     let f := { busyF with sqs := [] }
     f.passes rowCqDestroy p = true ∧ (f.cq? (pfield p 0x18 1) (pfield p 0x19 1)).isSome = true ∧
     f.sqs.any (fun e => e.2.fn == pfield p 0x18 1 && e.2.cq == pfield p 0x19 1) = false ∧
     busyF.passes rowCqDestroy p = true ∧ busyF.sqs.any (fun e => e.2.fn == pfield p 0x18 1 && e.2.cq == pfield p 0x19 1) = true) := by
  decide +kernel

theorem test_witness_SubmissionQueueCreateAndDestroy :
    (let p := pf 0x405 0 [(0x18, 2, 5), (0x1A, 1, 1), (0x1B, 1, 3), (0x1C, 1, 6), (0x1E, 1, 1)]
     busyF.passes rowSqCreate p = true ∧ 0 = (if pfield p 0x1A 1 = 0 then pslice p else ((busyF.fn (pfield p 0x1A 1)).slice).getD 64) ∧
     busyF.sliceTakes 0 = true ∧ ringPlace (busyF.slice 0) p = some (0, 0) ∧ busyF.sq? (pfield p 0x18 2) = none ∧
     (busyF.cq? (pfield p 0x1A 1) (pfield p 0x1E 1)).isSome = true ∧
     (busyF.queuesOf (fun y => y.slice == 0)).length < recQueues (busyF.slice 0).record ∧ (busyF.fn (pfield p 0x1A 1)).sqs.lowestFree 0 64 = some 0) ∧
    (let p := pf 0x406 0 [(0x18, 1, 1), (0x19, 1, 2)]
     busyF.passes rowSqDestroy p = true ∧ pfield p 0x1A 1 = 0 ∧ (busyF.fn (pfield p 0x18 1)).sqs.find (pfield p 0x19 1) = some 3 ∧
     busyF.sq? 3 = some sq0 ∧ sq0.destroy = none ∧ leaving (busyF.slice sq0.slice).state = false ∧ sq0.state ≠ 3 ∧ sq0.accepted ≠ sq0.commit ∧
     busyF.quiet = true ∧
     let x := { sq0 with commit := 2, descs := [] }
     let f := { busyF with sqs := [(3, x)] }
     f.passes rowSqDestroy p = true ∧ f.sq? 3 = some x ∧ x.accepted = x.commit ∧ f.quiet = true) := by
  decide +kernel

theorem test_witness_ContextCancelHasAScope :
    (let p := pf 0x407 0 [(0x18, 1, 1), (0x1A, 2, 4), (0x20, 8, 8)]
     busyF.passes rowCtxCancel p = true ∧ ((busyF.fn (pfield p 0x18 1)).sqs.filter (fun e => bitAt (BitVec.ofNat 64 (pfield p 0x20 8)) e.1)).map (·.2) = []) ∧
    (let p := pf 0x407 0 [(0x18, 1, 1), (0x1A, 2, 4), (0x20, 8, 4)]
     let f := busyF.onSlice 0 (fun x => { x with state := .whipping })
     f.passes rowCtxCancel p = true ∧ ((f.fn (pfield p 0x18 1)).sqs.filter (fun e => bitAt (BitVec.ofNat 64 (pfield p 0x20 8)) e.1)).map (·.2) = [3] ∧
     f.sq? 3 = some sq0 ∧ leaving (f.slice sq0.slice).state = true ∧
     busyF.passes rowCtxCancel p = true ∧ ((busyF.fn (pfield p 0x18 1)).sqs.filter (fun e => bitAt (BitVec.ofNat 64 (pfield p 0x20 8)) e.1)).map (·.2) = [3] ∧
     busyF.sq? 3 = some sq0 ∧ leaving (busyF.slice sq0.slice).state = false ∧ (busyF.descsOf sq0.slice).all (fun e => e.2.stage == .accepted) = true ∧
     (busyF.slice sq0.slice).engineSet.all (fun e => (busyF.engine e).testSeed.isNone && (busyF.engine e).testOwner.isNone) = true ∧ sq0.cancels = [] ∧ (sq0.commit - sq0.accepted).toInt < 0 ∧
     busyF.quiet = true) := by
  decide +kernel

/-- A handle over the first leaf of tag 17. -/
def han0 : Handle := { state := 1, fn := 1, tag := 17, va := 0, len := 4096 }

theorem test_witness_MemoryObjectHandles :
    (let p := pf 0x408 0 [(0x18, 1, 1), (0x1A, 2, 17), (0x20, 8, 0), (0x28, 8, 4096)]
     busyF.passes rowObjRegister p = true ∧ busyF.tag? (pfield p 0x1A 2) = some tag0 ∧ tag0.fn = pfield p 0x18 1 ∧ tag0.destroying = false ∧
     busyF.sliceTakes tag0.slice = true ∧
     (busyF.slice tag0.slice).handles.any (fun h => h.2.state != 0 && h.2.tag == pfield p 0x1A 2 &&
       decide (h.2.va < pfield p 0x20 8 + pfield p 0x28 8) && decide (pfield p 0x20 8 < h.2.va + h.2.len)) = false ∧
     (busyF.slice tag0.slice).handles.lowestFree 0 16384 = some 0) ∧
    (let p := pf 0x409 0 [(0x18, 2, 4)]
     let f := busyF.onSlice 0 (fun x => { x with handles := [(4, { han0 with state := 2 })] })
     f.passes rowObjRelease p = true ∧ f.handle? p = some { han0 with state := 2 } ∧
     let g := { busyF.onSlice 0 (fun x => { x with handles := [(4, han0)] }) with windows := [(1, { state := 1, tag := 17, len := 65536 })] }
     g.passes rowObjRelease p = true ∧ g.handle? p = some han0 ∧ g.handleRefs (pslice p) han0 ≠ 0 ∧ g.quiet = true) ∧
    (let p := vf 0x40A 0 [(0x18, 2, 4)]
     let f := busyF.onSlice 0 (fun x => { x with handles := [(4, han0)] })
     f.passes rowObjQuery p = true ∧ f.handle? p = some han0) := by
  decide +kernel

theorem test_witness_AddressSpaceTagsAndSnapshots :
    (let p := pf 0x40B 0 [(0x18, 2, 4095), (0x1A, 1, 1), (0x1B, 1, 3), (0x1C, 2, 1000)]
     busyF.passes rowAstagCreate p = true ∧ 0 = (if pfield p 0x1A 1 = 0 then pslice p else ((busyF.fn (pfield p 0x1A 1)).slice).getD 64) ∧
     busyF.sliceTakes 0 = true ∧ busyF.tag? (pfield p 0x18 2) = none ∧
     (busyF.tags.filter (fun e => e.2.slice == 0)).length < recTags (busyF.slice 0).record ∧ busyF.tableFrames 0 < 16384) ∧
    busyF.passes rowAstagCreate (pf 0x40B 0 [(0x18, 2, 17), (0x1C, 2, 1)]) = true ∧
    (busyF.tag? (pfield (pf 0x40B 0 [(0x18, 2, 17), (0x1C, 2, 1)]) 0x18 2)).isSome = true ∧
    (let p := pf 0x40C 0 [(0x18, 2, 17)]
     let f := { busyF with sqs := [] }
     f.passes rowAstagDestroy p = true ∧ f.tag? (pfield p 0x18 2) = some tag0 ∧ tag0.destroying = false ∧ f.tagBusy (pfield p 0x18 2) tag0 = false ∧
     leaving (f.slice tag0.slice).state = false ∧ f.descsOf tag0.slice = [] ∧ f.quiet = true ∧
     let g := { busyF with windows := [(1, { state := 1, tag := 17, len := 65536 })] }
     g.passes rowAstagDestroy p = true ∧ g.tag? (pfield p 0x18 2) = some tag0 ∧ g.tagBusy (pfield p 0x18 2) tag0 = true) ∧
    (let p := pf 0x40F 0 [(0x18, 2, 17), (0x1A, 1, 1), (0x1C, 4, 2), (0x20, 8, 2097152), (0x28, 8, 4096)]
     busyF.passes rowAccSnapshot p = true ∧ busyF.tag? (pfield p 0x18 2) = some tag0 ∧ leaving (busyF.slice tag0.slice).state = false ∧
     busyF.canAnswer p = true) := by
  decide +kernel

theorem test_witness_RemoteWindowsOpenAndClose :
    (let p := pf 0x40D 0 [(0x18, 2, 5), (0x1A, 2, 17), (0x1C, 1, 1), (0x1D, 1, 2), (0x20, 8, 4096), (0x28, 4, 1), (0x2C, 1, 3)]
     busyF.passes rowWinOpen p = true ∧ busyF.tag? (pfield p 0x1A 2) = some tag0 ∧ (busyF.window (pfield p 0x18 2)).state = 0 ∧
     (busyF.window (pfield p 0x18 2)).closing = none ∧ tag0.destroying = false ∧ busyF.sliceTakes tag0.slice = true ∧ pfield p 0x1C 1 = 1 ∧
     (busyF.slice tag0.slice).engines[pfield p 0x2C 1]? = some 3) ∧
    (let p := pf 0x40D 0 [(0x18, 2, 5), (0x1A, 2, 17), (0x1D, 1, 3), (0x28, 4, 1)]
     let f := busyF.onKeys (fun k => { k with mem := [(8, { state := 1 })] })
     f.passes rowWinOpen p = true ∧ f.tag? (pfield p 0x1A 2) = some tag0 ∧ (f.window (pfield p 0x18 2)).state = 0 ∧
     (f.window (pfield p 0x18 2)).closing = none ∧ f.sliceTakes tag0.slice = true ∧ pfield p 0x1C 1 = 0 ∧
     f.bindWindow tag0.slice (pfield p 0x1A 2) tag0 (pfield p 0x20 8) (pfield p 0x28 4 * 65536) (pfield p 0x1D 1 / 2 % 2 == 1) =
       .inl [{ len := 65536, addr := 0x10000 }] ∧ f.windowExtents + 1 ≤ 65536) ∧
    (let p := pf 0x40E 0 [(0x18, 2, 1)]
     let f := { busyF with windows := [(1, { state := 1, tag := 17, len := 65536, inFlight := 1 })] }
     f.passes rowWinClose p = true ∧ (f.window (pfield p 0x18 2)).state ≠ 0 ∧ (f.window (pfield p 0x18 2)).closing = none ∧
     leaving (f.slice (f.window (pfield p 0x18 2)).slice).state = false ∧ (f.window (pfield p 0x18 2)).inFlight ≠ 0 ∧
     let g := { busyF with windows := [(1, { state := 1, tag := 17, len := 65536 })] }
     g.passes rowWinClose p = true ∧ (g.window (pfield p 0x18 2)).state ≠ 0 ∧ (g.window (pfield p 0x18 2)).inFlight = 0 ∧
     (g.slice (g.window (pfield p 0x18 2)).slice).handles.all (fun h => h.2.state != 2) = true) := by
  decide +kernel

theorem test_witness_refusals_of_functions_and_queues :
    (let f := withSlice .whipping fab0
     f.passes rowVfEnable (pf 0x401 0 [(0x18, 1, 255)]) = true ∧ f.sliceTakes 0 = false) ∧
    (let p := pf 0x402 0 [(0x18, 1, 1)]
     busyF.passes rowVfDisable p = true ∧ busyF.fnBusy (pfield p 0x18 1) = true) ∧
    (let p := pf 0x403 0 [(0x18, 1, 9), (0x19, 1, 6), (0x20, 8, 4096)]
     busyF.passes rowCqCreate p = true ∧ busyF.fnIn (pfield p 0x18 1) (pslice p) = false) ∧
    (let p := pf 0x404 0 [(0x18, 1, 1), (0x19, 1, 9)]
     busyF.passes rowCqDestroy p = true ∧ (busyF.cq? (pfield p 0x18 1) (pfield p 0x19 1)).isNone = true) ∧
    (let p := pf 0x405 0 [(0x18, 2, 3), (0x1A, 1, 1), (0x1B, 1, 3), (0x1C, 1, 6), (0x1E, 1, 1)]
     busyF.passes rowSqCreate p = true ∧ (ringPlace (busyF.slice 0) p).isSome = true ∧ (busyF.sq? (pfield p 0x18 2)).isSome = true) ∧
    (let p := pf 0x405 0 [(0x18, 2, 5), (0x1A, 1, 1), (0x1B, 1, 3), (0x1C, 1, 6), (0x1E, 1, 1), (0x20, 4, 2 ^ 30)]
     busyF.passes rowSqCreate p = true ∧ busyF.sliceTakes 0 = true ∧ ringPlace (busyF.slice 0) p = none) ∧
    (let p := pf 0x405 0 [(0x18, 2, 5), (0x1A, 1, 1), (0x1B, 1, 3), (0x1C, 1, 6), (0x1E, 1, 1)]
     let f := busyF.onFn 1 (fun x => { x with sqs := (List.range 64).map (fun k => (k, 3)) })
     f.passes rowSqCreate p = true ∧ f.sliceTakes 0 = true ∧ (ringPlace (f.slice 0) p).isSome = true ∧ f.sq? (pfield p 0x18 2) = none ∧
     (f.cq? (pfield p 0x1A 1) (pfield p 0x1E 1)).isSome = true ∧ (f.fn (pfield p 0x1A 1)).sqs.lowestFree 0 64 = none) ∧
    (let p := pf 0x406 0 [(0x18, 1, 1), (0x19, 1, 2), (0x1A, 1, 1)]
     let f := busyF.onSq 3 (fun x => { x with state := 3 })
     f.passes rowSqDestroy p = true ∧ pfield p 0x1A 1 = 1 ∧ (f.fn (pfield p 0x18 1)).sqs.find (pfield p 0x19 1) = some 3 ∧
     f.sq? 3 = some { sq0 with state := 3 } ∧ leaving (f.slice 0).state = false) ∧
    (let p := pf 0x406 0 [(0x18, 1, 1), (0x19, 1, 9)]
     busyF.passes rowSqDestroy p = true ∧ (busyF.fn (pfield p 0x18 1)).sqs.find (pfield p 0x19 1) = none) ∧
    sq0.cancelDone (preq (pf 0x407 0), 4, sq0.accepted) = false := by
  decide +kernel

theorem test_witness_refusals_of_objects_and_tags :
    (let p := pf 0x408 0 [(0x18, 1, 1), (0x1A, 2, 18), (0x20, 8, 0), (0x28, 8, 4096)]
     busyF.passes rowObjRegister p = true ∧ (busyF.tag? (pfield p 0x1A 2)).isNone = true) ∧
    (let p := pf 0x408 0 [(0x18, 1, 0), (0x1A, 2, 17), (0x20, 8, 0), (0x28, 8, 4096)]
     busyF.passes rowObjRegister p = true ∧ busyF.tag? (pfield p 0x1A 2) = some tag0 ∧ tag0.fn ≠ pfield p 0x18 1) ∧
    (let p := pf 0x409 0 [(0x18, 2, 4)]
     busyF.passes rowObjRelease p = true ∧ (busyF.handle? p).isNone = true) ∧
    (let p := pf 0x40A 0 [(0x18, 2, 4)]
     busyF.passes rowObjQuery p = true ∧ (busyF.handle? p).isNone = true) ∧
    (let p := pf 0x40B 0 [(0x18, 2, 5), (0x1A, 1, 1), (0x1B, 1, 3), (0x1C, 2, 1000)]
     let f := { busyF with tags := (List.range 300).map (fun k => (100 + k, tag0)) }
     f.passes rowAstagCreate p = true ∧ f.sliceTakes 0 = true ∧ (f.tag? (pfield p 0x18 2)).isNone = true ∧
     recTags (f.slice 0).record ≤ (f.tags.filter (fun e => e.2.slice == 0)).length) ∧
    (let p := pf 0x40C 0 [(0x18, 2, 18)]
     busyF.passes rowAstagDestroy p = true ∧ (busyF.tag? (pfield p 0x18 2)).isNone = true) ∧
    (let p := pf 0x40F 0 [(0x18, 2, 17), (0x1A, 1, 1), (0x1C, 4, 2), (0x20, 8, 2097152), (0x28, 8, 4096)]
     busyF.rs.frozen = false ∧ { busyF with tags := [] }.passes rowAccSnapshot p = true ∧ ({ busyF with tags := [] }.tag? (pfield p 0x18 2)).isNone = true) ∧
    (let p := pf 0x40D 0 [(0x18, 2, 5), (0x1A, 2, 18), (0x1C, 1, 1), (0x1D, 1, 2), (0x20, 8, 4096), (0x28, 4, 1), (0x2C, 1, 3)]
     busyF.passes rowWinOpen p = true ∧ (busyF.tag? (pfield p 0x1A 2)).isNone = true) ∧
    (let p := pf 0x40D 0 [(0x18, 2, 5), (0x1A, 2, 17), (0x1C, 1, 1), (0x1D, 1, 2), (0x20, 8, 4096), (0x28, 4, 1), (0x2C, 1, 9)]
     busyF.passes rowWinOpen p = true ∧ ((busyF.slice tag0.slice).engines[pfield p 0x2C 1]?).isNone = true) ∧
    (let p := pf 0x40D 0 [(0x18, 2, 5), (0x1A, 2, 17), (0x1D, 1, 3), (0x20, 8, 65536), (0x28, 4, 1)]
     let f := (busyF.taking p).walkRange 0 (pfield p 0x1A 2) true 3 (pfield p 0x20 8) (pfield p 0x28 4 * 65536)
     busyF.passes rowWinOpen p = true ∧
     (match f.bindWindow 0 (pfield p 0x1A 2) tag0 (pfield p 0x20 8) (pfield p 0x28 4 * 65536) (pfield p 0x1D 1 / 2 % 2 == 1) with
       | .inr c => c == c | .inl _ => false) = true) ∧
    (let p := pf 0x40D 0 [(0x18, 2, 5), (0x1A, 2, 17), (0x1D, 1, 3), (0x28, 4, 1)]
     let b := busyF.onKeys (fun k => { k with mem := [(8, { state := 1 })] })
     let f := (b.taking p).walkRange 0 (pfield p 0x1A 2) true 3 (pfield p 0x20 8) (pfield p 0x28 4 * 65536)
     (match f.bindWindow 0 (pfield p 0x1A 2) tag0 (pfield p 0x20 8) (pfield p 0x28 4 * 65536) (pfield p 0x1D 1 / 2 % 2 == 1) with
       | .inl e => decide (f.windowExtents + e.length ≤ 65536) | .inr _ => false) = true) ∧
    (let p := pf 0x40E 0 [(0x18, 2, 1)]
     busyF.passes rowWinClose p = true ∧ (busyF.window (pfield p 0x18 2)).state = 0) := by
  decide +kernel

theorem test_witness_SliceDestroyFreesOrRemoves :
    (withSlice .defining fab0).passes rowSliceDestroy (opk 0x105 0) = true ∧ ((withSlice .defining fab0).slice 0).state = .defining ∧
    (withSlice .created fab0).passes rowSliceDestroy (opk 0x105 0) = true ∧ ((withSlice .created fab0).slice 0).state = .created ∧
    actF.passes rowSliceDestroy (opk 0x105 0 [(0x18, 1, 1)]) = true ∧ (actF.slice 0).state = .active ∧
    actF.passes rowSliceDestroy (opk 0x105 63) = true ∧ (actF.slice 63).state = .free := by
  repeat' apply And.intro
  all_goals first | decide +kernel | exact passes_op _ _ _ rfl (by decide +kernel) (by decide +kernel)

theorem test_witness_AuditSettingAndWatchList :
    actF.passes rowBelayAuditSet (opk 0x501 0 [(0x18, 1, 31)]) = true ∧ (actF.slice 0).state = .active ∧
    actF.passes rowBelayWatch (opk 0x502 0 [(0x18, 1, 2), (0x19, 1, 1)]) = true ∧ pfield (opk 0x502 0 [(0x18, 1, 2), (0x19, 1, 1)]) 0x19 1 = 1 ∧
    actF.passes rowBelayWatch (opk 0x502 0 [(0x18, 1, 2)]) = true ∧ pfield (opk 0x502 0 [(0x18, 1, 2)]) 0x19 1 = 0 ∧ actF.engineIn 2 = true ∧
    pfield (opk 0x502 0 [(0x18, 1, 2)]) 0x18 1 = 2 ∧
    (let f := { actF with engines := [(2, { state := .retired })] }
     f.passes rowBelayWatch (opk 0x502 0 [(0x18, 1, 2)]) = true ∧ f.engineIn 2 = false) ∧
    (let d : Desc := { seq := 6, belay := .held }
     let f := { busyF with sqs := [(3, { sq0 with descs := [d] })] }
     f.passes rowBelayHeldQuery (pf 0x503 0) = true ∧ (f.heldOf 0)[pfield (pf 0x503 0) 0x18 2]? = some (3, d)) ∧
    busyF.passes rowBelayHeldQuery (pf 0x503 0) = true ∧ (busyF.heldOf 0).length ≤ pfield (pf 0x503 0) 0x18 2 := by
  repeat' apply And.intro
  all_goals first | decide +kernel | exact passes_op _ _ _ rfl (by decide +kernel) (by decide +kernel)

/-- Two defined members of replica set 1. -/
def mem0 : Member := { state := 1, tag := 17, len := 65536 }
def repF : Fabric := busyF.onReplica 1 (fun r => { r with members := [(0, mem0), (7, mem0)] })

theorem test_witness_ReplicaSetPackets :
    (let p := opk 0x504 0 [(0x18, 1, 1), (0x19, 1, 7), (0x1A, 2, 17), (0x28, 8, 65536)]
     busyF.passes rowReplicaDefine p = true ∧ (busyF.replica (pfield p 0x18 1)).result ≠ 1 ∧ pfield p 0x28 8 ≠ 0 ∧
     busyF.tag? (pfield p 0x1A 2) = some tag0 ∧ tag0.slice = pslice p) ∧
    (let p := opk 0x504 0 [(0x18, 1, 1), (0x19, 1, 7)]
     busyF.passes rowReplicaDefine p = true ∧ (busyF.replica (pfield p 0x18 1)).result ≠ 1 ∧ pfield p 0x28 8 = 0 ∧
     (busyF.onReplica 1 (fun r => { r with result := 1 })).passes rowReplicaDefine p = true ∧
     ((busyF.onReplica 1 (fun r => { r with result := 1 })).replica (pfield p 0x18 1)).result = 1) ∧
    (let p := pf 0x505 0 [(0x18, 1, 1)]
     repF.passes rowReplicaCheck p = true ∧ (repF.replica (pfield p 0x18 1)).result ≠ 1 ∧
     (repF.replica (pfield p 0x18 1)).members = [(0, mem0), (7, mem0)] ∧ mem0.len = mem0.len ∧ mem0.state = 1 ∧ repF.quiet = true ∧
     busyF.passes rowReplicaCheck p = true ∧ (busyF.replica (pfield p 0x18 1)).members.length < 2) ∧
    (let p := opk 0x506 0 [(0x18, 1, 1), (0x19, 1, 7)]
     repF.passes rowReplicaExpel p = true ∧ (repF.replica (pfield p 0x18 1)).members.find (pfield p 0x19 1) = some mem0 ∧ repF.quiet = true) := by
  repeat' apply And.intro
  all_goals first | decide +kernel | exact passes_op _ _ _ rfl (by decide +kernel) (by decide +kernel)

theorem test_witness_RulesReactionsAndTests :
    fab0.passes rowFcRuleSet (opk 0x507 0 [(0x18, 1, 15), (0x1A, 1, 16), (0x1B, 1, 5), (0x20, 4, 1)]) = true ∧
    (let f := fab0.onFc (fun c => { c with terminalSeen := true, errOut := true })
     f.passes rowFcErrClear (opk 0x509 0) = true ∧ f.fc.terminalSeen = true) ∧
    (let f := fab0.onFc (fun c => { c with errOut := true, lowUntil := 10000 })
     f.passes rowFcErrClear (opk 0x509 0) = true ∧ f.fc.terminalSeen = false ∧ f.fc.errOut = true ∧ f.now < f.fc.lowUntil) ∧
    fab0.passes rowFcErrClear (opk 0x509 0) = true ∧ fab0.fc.errOut = false ∧
    fab0.passes rowFcReactSet (opk 0x50A 0 [(0x18, 1, 2), (0x1C, 2, 1000), (0x1E, 2, 50)]) = true ∧
    fab0.passes rowTestSet (opk 0x50C 0 [(0x18, 1, 1), (0x1A, 2, 720)]) = true := by
  repeat' apply And.intro
  all_goals first | decide +kernel | exact passes_op _ _ _ rfl (by decide +kernel) (by decide +kernel)

/-- An armed injection. -/
def inj0 : Inject := { target := 2, bits := 1, unit := 0, index := 0, duration := 0, count := false, pin := false, req := preq (opk 0x508 0), armedAt := 0, consumedAt := none }

theorem test_witness_InjectionRetirementAndLedgerPackets :
    (let p := opk 0x508 0 [(0x18, 1, 2), (0x19, 1, 1), (0x20, 4, 0x60000000), (0x28, 8, 0)]
     let f := (fab0.onFc (fun c => { c with inject := some inj0 }))
     f.passes rowFcInject p = true ∧ f.fc.inject.isSome = true ∧
     let g := fab0.onKeys (fun k => { k with dbg := [(0, ⟨true, 64, 1, 7⟩)] })
     g.passes rowFcInject p = true ∧ g.fc.inject = none ∧ g.injectUnit p = true ∧ g.injectAllowed p = true ∧ pfield p 0x18 1 = 2) ∧
    (let p := opk 0x50B 0 [(0x20, 4, 0x40000005)]
     fab0.passes rowUnitRetire p = true ∧ unitType (BitVec.ofNat 32 (pfield p 0x20 4)) ≠ 0 ∧ fab0.canRetire (BitVec.ofNat 32 (pfield p 0x20 4)) = true ∧
     fab0.units.retiring.any (fun r => r.unit == BitVec.ofNat 32 (pfield p 0x20 4)) = false ∧ fab0.quiet = true ∧
     { fab0 with units := {} }.passes rowUnitRetire p = true ∧ { fab0 with units := {} }.canRetire (BitVec.ofNat 32 (pfield p 0x20 4)) = false) ∧
    fab0.passes rowLedgerRead (pf 0x50D 0) = true ∧ pfield (pf 0x50D 0) 0x18 1 = 0 ∧
    fab0.passes rowLedgerRead (pf 0x50D 0 [(0x18, 1, 1)]) = true ∧ pfield (pf 0x50D 0 [(0x18, 1, 1)]) 0x18 1 = 1 := by
  repeat' apply And.intro
  all_goals first | decide +kernel | exact passes_op _ _ _ rfl (by decide +kernel) (by decide +kernel)

theorem test_witness_QueriesAndTelemetryOnlyRead :
    actF.passes rowSliceQuery (opk 0x106 0) = true ∧ pfield (opk 0x106 0) 0x18 1 = 0 ∧
    (let p := opk 0x106 0 [(0x18, 1, 16)]
     actF.passes rowSliceQuery p = true ∧ 1 ≤ pfield p 0x18 1 ∧ pfield p 0x18 1 ≤ 16 ∧ holds (actF.slice (pslice p)).state = true) ∧
    (let p := opk 0x106 0 [(0x18, 1, 17)]
     (withSlice .defining fab0).passes rowSliceQuery p = true ∧ 17 ≤ pfield p 0x18 1 ∧ pfield p 0x18 1 ≤ 32 ∧
     ((withSlice .defining fab0).slice (pslice p)).state = .defining) ∧
    (let p := pf 0x304 0 [(0x18, 1, 0), (0x1A, 2, 4)]
     actF.passes rowKeyQuery p = true ∧ actF.slotIndex (pslice p) (pfield p 0x18 1) (pfield p 0x1A 2) = none) ∧
    (let p := pf 0x304 0 [(0x18, 1, 0), (0x1A, 2, 3)]
     actF.passes rowKeyQuery p = true ∧ actF.slotIndex (pslice p) (pfield p 0x18 1) (pfield p 0x1A 2) = some 11) ∧
    actF.passes rowTmGuard (vf 0x601 0) = true ∧
    (let p := vf 0x602 0 [(0x18, 1, 0), (0x19, 1, 7)]
     actF.passes rowTmResource p = true ∧ (actF.slice (pslice p)).resource p.path (pfield p 0x18 1) = some 0) ∧
    (let f := { fab0 with env := { fab0.env with chipPub := { temp := some 780, volt := some 750 } } }
     f.passes rowTmChip (pf 0x603 0) = true ∧ f.env.chipPub.temp = some 780 ∧ f.env.chipPub.volt = some 750) := by
  repeat' apply And.intro
  all_goals first | decide +kernel | exact passes_op _ _ _ rfl (by decide +kernel) (by decide +kernel)

theorem test_witness_ChipNumberPeersAndDumpReads :
    (let p := opk 0x70C 0 [(0x18, 2, 0xFFFE)]
     fab0.passes rowChipNumberSet p = true ∧ fab0.slicesIn (fun x => x == .active || x == .resetting) = [] ∧
     fab0.splice.groups.any (fun g => g.2.state != 0) = false ∧
     actF.passes rowChipNumberSet p = true ∧ actF.slicesIn (fun x => x == .active || x == .resetting) ≠ []) ∧
    (let p := opk 0x708 0 [(0x18, 1, 2), (0x1A, 2, 7)]
     fab0.passes rowPeerNotice p = true ∧ pfield p 0x18 1 = 2 ∧ pfield p 0x1A 2 ≠ fab0.splice.chip) ∧
    (let p := opk 0x708 0 [(0x18, 1, 1), (0x1A, 2, 0)]
     fab0.passes rowPeerNotice p = true ∧ pfield p 0x1A 2 = fab0.splice.chip) ∧
    fab0.passes rowRecoveryQuery (pf 0x70B 0) = true ∧
    (let p := opk 0x70A 0 [(0x1C, 4, 4), (0x20, 8, 16)]
     fab0.passes rowDumpRead p = true ∧ fab0.memReadOpen = false ∧
     let f := fab0.onKeys (fun k => { k with dbg := [(0, ⟨true, 64, 1, 7⟩)] })
     f.passes rowDumpRead p = true ∧ f.memReadOpen = true ∧ 4 = pfield p 0x1C 4) := by
  repeat' apply And.intro
  all_goals first | decide +kernel | exact passes_op _ _ _ rfl (by decide +kernel) (by decide +kernel)

theorem test_witness_ResetPacketsOfTheChip :
    fab0.passes rowCcRestart (opk 0x701 0) = true ∧ fab0.frame.switch = none ∧
    (let f := fab0.onRs (fun r => { r with dump := { taking := some 0 } })
     f.passes rowDumpTake (opk 0x709 0) = true ∧ f.rs.dump.taking.isSome = true) ∧
    fab0.passes rowDumpTake (opk 0x709 0) = true ∧ fab0.rs.dump.taking = none ∧
    (let f := fab0.onRs (fun r => { r with l5Step := 1 })
     f.passes rowChipReset (opk 0x704 0) = true ∧ f.rs.l5Step ≠ 0 ∧ f.passes rowPowerCycle (opk 0x705 0) = true) ∧
    fab0.passes rowChipReset (opk 0x704 0) = true ∧ fab0.rs.l5Step = 0 ∧
    busyF.passes rowPowerCycle (opk 0x705 0 [(0x18, 1, 1)]) = true ∧ busyF.rs.l5Step = 0 ∧ pfield (opk 0x705 0 [(0x18, 1, 1)]) 0x18 1 = 1 ∧
    busyF.sqs.all (fun e => e.2.accepted == e.2.commit) = false := by
  repeat' apply And.intro
  all_goals first | decide +kernel | exact passes_op _ _ _ rfl (by decide +kernel) (by decide +kernel)

theorem test_witness_ResetPacketsOfEnginesSlicesAndVfs :
    (let p := opk 0x702 0 [(0x18, 1, 3)]
     actF.passes rowEngineReset p = true ∧ (actF.engine (pfield p 0x18 1)).state = .inService ∧ (actF.engine (pfield p 0x18 1)).resetReq = none ∧
     (actF.engine (pfield p 0x18 1)).running = none ∧ (actF.engine (pfield p 0x18 1)).queue = [] ∧ (actF.engine (pfield p 0x18 1)).testSeed = none ∧
     (actF.engine (pfield p 0x18 1)).testOwner = none ∧ actF.rs.hangs = [] ∧ actF.quiet = true ∧
     let f := { actF with engines := [(3, { state := .retired })] }
     f.passes rowEngineReset p = true ∧ (f.engine (pfield p 0x18 1)).state = .retired) ∧
    (withSlice .created fab0).passes rowSliceReset (opk 0x703 0) = true ∧ ((withSlice .created fab0).slice 0).state ≠ .active ∧
    (let f := { actF.onSlice 0 (fun x => { x with engines := [], record := 0 }) with engines := [] }
     f.passes rowSliceReset (opk 0x703 0) = true ∧ (f.slice 0).state = .active ∧ (f.slice 0).engineSet = [] ∧ f.queuesOf (fun x => x.slice == 0) = [] ∧
     f.engines = [] ∧ f.splice.groups = [] ∧ f.keys.imports = [] ∧ f.rs.hangs = [] ∧ f.quiet = true) ∧
    actF.passes rowVfQuiesce (pf 0x706 0 [(0x18, 1, 2)]) = true ∧ (actF.fn (pfield (pf 0x706 0 [(0x18, 1, 2)]) 0x18 1)).slice = none ∧
    (let p := pf 0x706 0 [(0x18, 1, 1)]
     let x := { sq0 with descs := [{ seq := 0, belay := .issued }, { seq := 1 }] }
     let f := { busyF with sqs := [(3, x)] }
     f.passes rowVfQuiesce p = true ∧ (f.fn (pfield p 0x18 1)).slice.isSome = true ∧ (f.fn (pfield p 0x18 1)).resetState = 0 ∧
     (f.fn (pfield p 0x18 1)).flr = false ∧ f.fnQueues (pfield p 0x18 1) = [3] ∧ f.sq? 3 = some x ∧ 0 < f.stillIssued (pfield p 0x18 1) ∧ f.quiet = true) ∧
    (let p := pf 0x707 0 [(0x18, 1, 1)]
     let f := ({ busyF with sqs := [(3, { sq0 with state := 3 })] } : Fabric).onFn 1 (fun y => { y with resetState := 2 })
     f.passes rowVfResume p = true ∧ (f.fn (pfield p 0x18 1)).resetState = 2 ∧ (f.fn (pfield p 0x18 1)).quiesceReq = none ∧
     f.fnQueues (pfield p 0x18 1) = [3] ∧ f.sq? 3 = some { sq0 with state := 3 } ∧ sq0.latched = none ∧ sq0.tail = sq0.accepted ∧ sq0.destroy = none ∧
     f.quiet = true ∧ busyF.passes rowVfResume p = true ∧ (busyF.fn (pfield p 0x18 1)).resetState = 0) := by
  repeat' apply And.intro
  all_goals first | decide +kernel | exact passes_op _ _ _ rfl (by decide +kernel) (by decide +kernel)

theorem test_witness_GroupPackets :
    (let p := pf 0x801 0 [(0x18, 1, 6), (0x19, 1, 7)]
     grpF.passes rowGrpDefine p = true ∧ (grpF.group (pgroup p)).state < 2) ∧
    (let p := pf 0x801 0 [(0x18, 1, 5)]
     let f := grpF.onGroup 5 (fun y => { y with state := 3 })
     f.passes rowGrpDefine p = true ∧ 2 ≤ (f.group (pgroup p)).state) ∧
    (let p := pf 0x802 0 [(0x18, 1, 5)]
     busyF.passes rowGrpCreate p = true ∧ busyF.grpCheck (busyF.group (pgroup p)) = some 1 ∧
     grpF.passes rowGrpCreate p = true ∧ grpF.grpCheck (grpF.group (pgroup p)) = none ∧ grpF.grpQueue (grpF.group (pgroup p)).record = some 3 ∧
     (grpF.sq? 3).isSome = true ∧ grpF.splice.joins = [] ∧ grpF.quiet = true) ∧
    (let p := pf 0x803 0 [(0x18, 1, 6)]
     grpF.passes rowGrpDestroy p = true ∧ (grpF.group (pgroup p)).state = 0) ∧
    (let p := pf 0x803 0 [(0x18, 1, 5)]
     grpF.passes rowGrpDestroy p = true ∧ (grpF.group (pgroup p)).state = 1 ∧ (grpF.group (pgroup p)).destroy = none ∧
     grpF.stepQueue (pgroup p) = none ∧ grpF.quiet = true) ∧
    grpF.passes rowGrpQuery (pf 0x804 0 [(0x18, 1, 5)]) = true ∧ pfield (pf 0x804 0 [(0x18, 1, 5)]) 0x19 1 = 0 ∧
    fab0.passes rowSwitchAttest (opk 0x805 0 [(0x18, 1, 63), (0x19, 1, 1), (0x1A, 2, 100), (0x20, 1, 7)]) = true := by
  repeat' apply And.intro
  all_goals first | decide +kernel | exact passes_op _ _ _ rfl (by decide +kernel) (by decide +kernel)

theorem test_witness_further_clauses_of_removal_belay_and_faults :
    (let f := { (withSlice .created fab0).onSlice 0 (fun x => { x with record := 0, engines := [] }) with engines := [] }
     f.passes rowSliceDestroy (opk 0x105 0) = true ∧ (f.slice 0).engineSet = [] ∧ f.queuesOf (fun x => x.slice == 0) = [] ∧ f.engines = [] ∧
     f.splice.groups = [] ∧ f.keys.imports = [] ∧ f.rs.hangs = [] ∧ f.quiet = true ∧ (f.slice 0).state = .created) ∧
    actF.passes rowBelayAuditSet (opk 0x501 3 [(0x18, 1, 31)]) = true ∧ (actF.slice 3).state = .free ∧
    (let p := opk 0x504 0 [(0x18, 1, 1), (0x19, 1, 7), (0x1A, 2, 18), (0x28, 8, 65536)]
     busyF.passes rowReplicaDefine p = true ∧ (busyF.replica (pfield p 0x18 1)).result ≠ 1 ∧ pfield p 0x28 8 ≠ 0 ∧
     (busyF.tag? (pfield p 0x1A 2)).isNone = true) ∧
    (let p := opk 0x506 0 [(0x18, 1, 1), (0x19, 1, 6)]
     repF.passes rowReplicaExpel p = true ∧ (repF.replica (pfield p 0x18 1)).members.find (pfield p 0x19 1) = none) ∧
    (2 ≤ (repF.replica 1).members.length ∧ ((repF.replica 1).members.map (·.2.len)).eraseDups.length = 1) ∧
    (let g := fab0.onKeys (fun k => { k with dbg := [(0, ⟨true, 64, 1, 7⟩)] })
     g.passes rowFcInject (opk 0x508 0 [(0x18, 1, 0), (0x19, 1, 1), (0x20, 4, 2), (0x28, 8, 0)]) = true ∧
     g.injectUnit (opk 0x508 0 [(0x18, 1, 0), (0x19, 1, 1), (0x20, 4, 2), (0x28, 8, 0)]) = true ∧
     g.injectAllowed (opk 0x508 0 [(0x18, 1, 0), (0x19, 1, 1), (0x20, 4, 2), (0x28, 8, 0)]) = true ∧ g.fc.inject = none) ∧
    (let p := opk 0x50B 0 [(0x20, 4, 2)]
     fab0.passes rowUnitRetire p = true ∧ unitType (BitVec.ofNat 32 (pfield p 0x20 4)) = 0 ∧ fab0.canRetire (BitVec.ofNat 32 (pfield p 0x20 4)) = true ∧
     fab0.units.retiring.any (fun r => r.unit == BitVec.ofNat 32 (pfield p 0x20 4)) = false) ∧
    fab0.passes rowLedgerRead (pf 0x50D 0 [(0x18, 1, 2)]) = true ∧ pfield (pf 0x50D 0 [(0x18, 1, 2)]) 0x18 1 = 2 := by
  repeat' apply And.intro
  all_goals first | decide +kernel | exact passes_op _ _ _ rfl (by decide +kernel) (by decide +kernel)

/-- 64 peers that are down. -/
def peersF : Fabric := fab0.onRs (fun r => { r with peersDown := (List.range 64).map (fun k => (100 + k, 1)) })

theorem test_witness_further_clauses_of_recovery_and_groups :
    actF.passes rowSliceQuery (opk 0x106 0 [(0x18, 1, 35)]) = true ∧ actF.passes rowTmChip (pf 0x603 0) = true ∧ actF.env.chipPub.temp = none ∧
    fab0.passes rowPeerNotice (opk 0x708 0 [(0x18, 1, 4), (0x1A, 2, 7), (0x1C, 4, 9)]) = true ∧
    pfield (opk 0x708 0 [(0x18, 1, 4), (0x1A, 2, 7), (0x1C, 4, 9)]) 0x18 1 = 4 ∧
    (let p := opk 0x708 0 [(0x18, 1, 1), (0x1A, 2, 7)]
     peersF.passes rowPeerNotice p = true ∧ pfield p 0x18 1 ≠ 4 ∧ pfield p 0x18 1 ≠ 2 ∧ peersF.rs.peersDown.any (fun e => e.1 == 7) = false ∧
     64 ≤ peersF.rs.peersDown.length ∧ fab0.passes rowPeerNotice p = true ∧ fab0.rs.peersDown.length < 64) ∧
    (let p := opk 0x70A 0 [(0x1C, 4, 4), (0x20, 8, 16)]
     let f := (fab0.onKeys (fun k => { k with dbg := [(0, ⟨true, 64, 1, 7⟩)] })).onRs (fun r => { r with frozen := true })
     f.passes rowDumpRead p = true ∧ f.memReadOpen = true ∧ f.rs.frozen = true) ∧
    fab0.frame.sync.waiting = [] ∧ fab0.passes rowPowerCycle (opk 0x705 0) = true ∧ pfield (opk 0x705 0) 0x18 1 ≠ 1 ∧
    fab0.passes rowPowerCycle (opk 0x705 0 [(0x18, 1, 1)]) = true ∧ fab0.sqs.all (fun e => e.2.accepted == e.2.commit) = true ∧
    (let f := busyF.onEngine 3 (fun e => { e with state := .resetting })
     f.passes rowEngineReset (opk 0x702 0 [(0x18, 1, 3)]) = true ∧ (f.engine 3).state = .resetting ∧ (f.engine 3).resetReq = none) ∧
    grpF.passes rowGrpQuery (pf 0x804 0 [(0x18, 1, 5), (0x19, 1, 8)]) = true ∧ pfield (pf 0x804 0 [(0x18, 1, 5), (0x19, 1, 8)]) 0x19 1 ≠ 0 := by
  repeat' apply And.intro
  all_goals first | decide +kernel | exact passes_op _ _ _ rfl (by decide +kernel) (by decide +kernel)

theorem test_witness_IntakesQueueOrCount :
    fab0.inReset = false ∧ fab0.busyOn = false ∧ (opk 0x106 0).path = .mailbox 7 ∧ fab0.ctl.mailbox.length < 16 ∧
    (let f := fab0.onCtl (fun c => { c with mailbox := List.replicate 16 (pf 0x106 0) })
     f.inReset = false ∧ f.busyOn = false ∧ 16 ≤ f.ctl.mailbox.length) ∧
    busyF.inReset = false ∧ busyF.busyOn = false ∧ busyF.fnLive 1 = true ∧ (busyF.fn 1).ctlRing.enable = true ∧
    (busyF.fn 1).intake.length < intakeDepth 1 ∧
    (let f := busyF.onFn 1 (fun x => { x with intake := List.replicate 4 (vf 0x601 0, 0) })
     f.fnLive 1 = true ∧ intakeDepth 1 ≤ (f.fn 1).intake.length) := by
  decide +kernel

theorem test_witness_DoorbellsAcceptDescriptors :
    busyF.inReset = false ∧ busyF.rs.frozen = false ∧ busyF.fnLive 1 = true ∧ (busyF.fn 1).sqs.find 2 = some 3 ∧ busyF.sq? 3 = some sq0 ∧
    busyF.queueOpen sq0 = true ∧ (64 : BitVec 32) ≠ sq0.accepted ∧ ((64 : BitVec 32) - sq0.accepted).toNat ≤ ((64 : BitVec 32) - sq0.commit).toNat ∧
    ((64 : BitVec 32) - sq0.commit).toNat ≤ 2 ^ sq0.ringLog2 ∧ 2 ^ sq0.ringLog2 < ((65 : BitVec 32) - sq0.commit).toNat ∧
    ((0 : BitVec 32) - sq0.commit).toNat < ((0 : BitVec 32) - sq0.accepted).toNat ∧
    (let f := busyF.onSq 3 (fun x => { x with state := 3 })
     (f.fn 1).sqs.find 2 = some 3 ∧ f.sq? 3 = some { sq0 with state := 3 } ∧ f.queueOpen { sq0 with state := 3 } = false) ∧
    frzF.inReset = false ∧ frzF.rs.frozen = true ∧ frzF.fnLive 1 = true ∧ (frzF.fn 1).sqs.find 2 = some 3 ∧ (newDescs 5 0 0 2)[1]?.isSome = true := by
  decide +kernel

theorem test_witness_HeadsAndMapQueueDoorbell :
    busyF.inReset = false ∧ busyF.rs.frozen = false ∧ busyF.fnLive 1 = true ∧
    headOk (busyF.fn 1).ctlRing.head (busyF.fn 1).ctlRing.tail 0 = true ∧ (busyF.fn 1).waiting = [] ∧ (busyF.fn 1).ctlRing.disableHeld = false ∧
    headOk (busyF.fn 1).ctlRing.head (busyF.fn 1).ctlRing.tail 1 = false ∧
    mapqEnable (mapF.slice 0).tu.base = true ∧ mapF.rs.frozen = false ∧
    ((64 : BitVec 32) - (mapF.slice 0).tu.applied).toNat ≤ ((64 : BitVec 32) - (mapF.slice 0).tu.retired).toNat ∧
    ((64 : BitVec 32) - (mapF.slice 0).tu.retired).toNat ≤ 2 ^ mapqLog2 (mapF.slice 0).tu.base ∧
    mapqEnable (busyF.slice 0).tu.base = false ∧ (1 : BitVec 32) ≠ (mapF.slice 0).tu.applied ∧
    ((1 : BitVec 32) - (mapF.slice 0).tu.retired).toNat < ((1 : BitVec 32) - (mapF.slice 0).tu.applied).toNat := by
  decide +kernel

theorem test_witness_FencesHeartbeatAndRingWindow :
    busyF.inReset = false ∧ busyF.rs.frozen = false ∧ busyF.fnLive 0 = true ∧ busyF.queuesOf (fun x => x.fn == 0) = [] ∧ busyF.quiet = true ∧
    fab0.rs.boot = .running ∧ fab0.rs.l4Stage = 0 ∧ fab0.rs.restart = none ∧ fab0.rs.armed = false ∧ fab0.rs.hbAny = false ∧ fab0.rs.summaryDue = false ∧
    (let f := fab0.onRs (fun r => { r with hbAny := true, armed := true, hbCount := 8 })
     f.now < f.rs.hbAt + 4000000 ∧ (9 : BitVec 32) = f.rs.hbCount + 1 ∧ (8 : BitVec 32) ≠ f.rs.hbCount + 1) ∧
    busyF.fnLive 1 = true ∧ busyF.sqOf 1 (0x80000 / 0x40000) = some sq0 ∧
    ([1, 2] : List Byte).take (2 ^ sq0.ringLog2 * (if sq0.gen = 1 then 32 else 64) - 0x80000 % 0x40000) ≠ [] ∧
    busyF.sqOf 1 (0x40000 / 0x40000) = none := by
  decide +kernel

theorem test_witness_EnableLockedRings :
    (let f := busyF.onFn 1 (fun x => { x with ctlRing := {}, faultRing := {} })
     f.inReset = false ∧ f.rs.frozen = false ∧ f.fnLive 1 = true ∧ (f.fn 1).faultRing.enable = false ∧ (f.fn 1).ctlRing.enable = false) ∧
    (busyF.fn 1).faultRing.enable = true ∧ (busyF.fn 1).ctlRing.enable = true ∧ busyF.pendingOf 1 = false ∧ (busyF.fn 1).waiting = [] ∧
    (busyF.onCtl (fun c => { c with awaiting := [preq (vf 0x407 0)] })).pendingOf 1 = true ∧
    mapqEnable (busyF.slice 0).tu.base = false ∧ mapqEnable (mapF.slice 0).tu.base = true ∧ (mapF.slice 0).tu.applied = (mapF.slice 0).tu.tail ∧
    (mapF.slice 0).tu.pendingAcks = 0 ∧
    (let f := mapF.onTu 0 (fun u => { u with tail := 3 })
     mapqEnable (f.slice 0).tu.base = true ∧ (f.slice 0).tu.applied ≠ (f.slice 0).tu.tail) := by
  decide +kernel

theorem test_witness_RegisterReadsAndWrites :
    fab0.inReset = false ∧ goodAccess 3 8 = false ∧ goodAccess 8 2 = false ∧ fab0.rs.frozen = false ∧ fab0.rcFields 0 0x1000 = [] ∧
    frzF.inReset = false ∧ frzF.rs.frozen = true ∧ frzF.fnLive 1 = true ∧ 0x20 ≠ 0x18 ∧ busyF.fnLive 9 = false ∧ busyF.fnLive 1 = true ∧
    bitAt (8 : Word) 3 = true := by
  decide +kernel

theorem test_witness_further_clauses_of_host_registers :
    (let f := busyF.onRs (fun r => { r with restart := some 0 })
     f.inReset = false ∧ f.busyOn = true ∧ f.fnLive 1 = true ∧ (f.fn 1).ctlRing.enable = true) ∧
    busyF.fnLive 9 = false ∧ (busyF.fn 1).sqs.find 5 = none ∧ 63 < 64 ∧ 64 ≤ 64 ∧
    (let f := fab0.onRs (fun r => { r with armed := true })
     f.now < f.rs.hbAt + 4000000 ∧ f.rs.armed = true) ∧
    (let f := ({ fab0 with frame := { fab0.frame with time := 4000000 } } : Fabric).onRs (fun r => { r with armed := true })
     f.rs.hbAt + 4000000 ≤ f.now ∧ f.rs.restart = none) ∧
    (let f := fab0.onRs (fun r => { r with restart := some 0, restartLoaded := true })
     f.rs.restart = some 0 ∧ f.rs.restartLoaded = true ∧ f.rs.restartLate = false ∧ f.now ≤ 0 + 20000000) ∧
    (fab0.onRs (fun r => { r with restart := some 0 })).rs.restartLoaded = false ∧ fab0.ledger.flushing = false ∧
    busyF.sqOf 1 ((0x80000 + 4096) / 0x40000) = some sq0 ∧
    ([1, 2] : List Byte).take (2 ^ sq0.ringLog2 * (if sq0.gen = 1 then 32 else 64) - (0x80000 + 4096) % 0x40000) = [] ∧
    (let f := busyF.onFn 1 (fun x => { x with waiting := [0] })
     (f.fn 1).ctlRing.enable = true ∧ (f.fn 1).waiting ≠ []) ∧
    (busyF.rcFields 0 0x1010).length = 2 ∧ goodAccess 0x1014 4 = true ∧ fab0.fnLive 0 = true ∧ bitAt (9 : Word) 3 = true := by
  decide +kernel

/-- A generation-3 tile descriptor in context 1, budget 100 cycles, tag 17, range 0 of 256 bytes at VA 0. -/
def raw0 : BitVec 512 := setField (setField (setField (setField 0 4 2 1) 6 2 100) 8 2 17) 0x20 8 (4 * 2 ^ 42)
/-- Queue 3 holding one descriptor. -/
def sqD (d : Desc) : Sq := { sq0 with gen := 3, accepted := 1, tail := 1, descs := [d] }
def dF (d : Desc) : Fabric := { busyF with sqs := [(3, sqD d)] }
/-- A bound and ready descriptor, and one of a conditional kind with its count word on the host. -/
def bound0 : Desc := { raw := raw0, stage := .bound, readyAt := some 0 }
def cond0 : Desc := { bound0 with raw := setField raw0 16 1 1, extents := [[], [], [], [{ target := 1, len := 64 }]] }
/-- Every slot of engines 0 to 3 belongs to slice 0 for 30 µs of a frame of 40 µs; engine 0 is free. -/
def ent0 : BitVec 512 := [(4, 4, 30000), (0xC, 1, 1), (0x20, 1, 15)].foldl (fun e x => setField e x.1 x.2.1 x.2.2) 0
def framed (f : Fabric) : Fabric :=
  { f with frame := { f.frame with bank0 := { header := hdr0, entries := [(0, ent0)] } },
           engines := f.engines.map (fun e => (e.1, { e.2 with latch := some 0 })) }
/-- A first run of queue 3's descriptor 0, and engine 0 running it. -/
def run0 : Run := { sq := 3, seq := 0, budgetNs := 100 }
def runF (r : Run) (d : Desc) : Fabric := (framed (dF d)).onEngine 0 (fun e => { e with running := some r })
def beat0 : Beat := { member := 0, digest := 0, shape := 0, active := 0, memWait := 0, linkWait := 0, ce := 0 }

theorem test_witness_DescriptorsAreReadBoundAndCounted :
    (let f := dF {}
     f.inReset = false ∧ f.sq? 3 = some (sqD {}) ∧ (sqD {}).descs.find? (fun d => d.stage == .accepted && d.belay == .bound) = some {} ∧
     f.reads (sqD {}).slice = true ∧ ({} : Desc).begun = false ∧ ({} : Desc).ending = none ∧
     (sqD {}).cancelled (viewOf (sqD {}) raw0).ctx 0 = false ∧ (sqD {}).group = none ∧ f.quiet = true ∧ fab0.quiet = true ∧ fab0.sq? 3 = none) ∧
    (let d : Desc := { stage := .unbound, raw := setField (setField 0 16 1 4) 0x20 1 2 }
     (dF d).sq? 3 = some (sqD d) ∧ (sqD d).desc? 0 = some d ∧ (d.view (sqD d)).kind = 4 ∧ poolOp d.raw ≠ 0 ∧ (dF d).reads (sqD d).slice = true ∧
     ((dF d).slice 0).uncommitted < recTiles ((dF d).slice 0).record ∧ (dF d).fc.inject = none ∧ (dF d).quiet = true ∧
     ((openRun (dF d)).bindDesc 3 0).fc.inject = none ∧ (((openRun (dF d)).loseTable 0 17 0 3).bindDesc 3 0).fc.inject = none) ∧
    (let d : Desc := { stage := .unbound, raw := setField raw0 8 2 18 }
     (sqD d).desc? 0 = some d ∧ (d.view (sqD d)).kind ≠ 4 ∧ ((dF d).tag? (d.view (sqD d)).tag).isNone = true) ∧
    (dF cond0).sq? 3 = some (sqD cond0) ∧ (sqD cond0).desc? 0 = some cond0 ∧ (cond0.view (sqD cond0)).cond = true ∧
    cond0.stage = .bound ∧ cond0.belay = .bound ∧ cond0.readyAt.isSome = true ∧ cond0.count = none ∧
    cond0.ending = none ∧ (dF cond0).isActive 0 = true ∧ (cond0.extents.getD 3 []).all (fun e => e.target == 0) = false ∧
    1 ≤ (cond0.view (sqD cond0)).countMax ∧ (cond0.view (sqD cond0)).countMax < (0xFFFFFFFF : BitVec 32).toNat ∧
    ({ cond0 with count := some 1 } : Desc).count.isSome = true := by
  decide +kernel

/-- Memory that holds a ring entry gives the descriptor that the first witness needs. -/
theorem test_ring_entry_is_read :
    viewOf (sqD {}) (ofBytes 512 (memRead [(4, 1), (6, 100), (8, 17)] 0 64)) = viewOf (sqD {}) (setField (setField (setField 0 4 2 1) 6 2 100) 8 2 17) := by
  decide +kernel

theorem test_witness_TilesArePlacedOnEngines :
    (let f := framed (dF bound0)
     f.inReset = false ∧ f.isActive 0 = true ∧ f.rs.frozen = false ∧ (f.readyList 0).length = 1 ∧
     ((f.readyList 0).head?.bind (fun c => (openRun f).tryPlace 0 c false)).map (fun g => (g.fc.inject, g.rs.hangs, g.frame.slackRun)) = some (none, [], [])) ∧
    fab0.isActive 5 = false ∧ frzF.rs.frozen = true ∧ fab0.fc.inject = none ∧ fab0.rs.hangs = [] ∧ fab0.frame.slackRun = [] ∧
    (let d : Desc := { bound0 with raw := setField (setField raw0 16 1 8) 18 2 1 }
     let f := framed (dF d)
     formingOf 3 (sqD d) = some { q := 3, seq := 0, inst := none } ∧ (sqD d).desc? 0 = some d ∧ (d.view (sqD d)).form ≠ 0 ∧
     ((openRun f).fitDeadline 3 (sqD d) d (d.seq :: (gathered (sqD d) d).1)).map (fun t => decide (t + 200 < f.nextBoundary)) = some true ∧
     d.readyAt.getD 0 + (sqD d).formWait + 200 < f.nextBoundary) := by
  decide +kernel

theorem test_witness_TilesArePlacedOnEngines_runs :
    ((formingOf 3 (sqD bound0)).bind (fun r => (sqD bound0).desc? r.seq)).isNone = true ∧
    (fab0.sq? 3).isNone = true ∧ 200 < busyF.nextBoundary ∧
    (let d : Desc := { bound0 with check := some { wanted := some .replay } }
     (dF d).desc? 3 0 = some d ∧ d.check.map (fun c => (c.wanted.isSome, c.placed)) = some (true, false)) ∧
    (let d : Desc := { cond0 with insts := [(0, {}), (1, { check := some { wanted := some .replay } })] }
     (dF d).desc? 3 0 = some d ∧ d.check.isNone = true ∧
     (d.insts.find? (fun i => match i.2.check with | some c => c.wanted.isSome && !c.placed | none => false)).map (·.1) = some 1) ∧
    ((runF run0 bound0).engine 0).running.isSome = true ∧
    (let f := framed (dF bound0)
     (f.engine 0).running = none ∧ (f.engine 0).queue = [] ∧ (f.engine 0).aborting = false ∧ (f.engine 0).state = .inService ∧
     run0.notBefore ≤ f.now ∧ (f.engine 0).latch = some run0.slice ∧
     (f.slotNow 0 0).map (fun x => (decide (f.now < f.windowEnd x (f.engine 0).applied),
       f.fitsSlot 0 x (f.engine 0).applied f.now run0.budgetNs false (run0.cond || run0.extra))) = some (true, true)) := by
  decide +kernel

theorem test_witness_RunsEndOnTheirEngine :
    let f := runF { run0 with nonReplay := true } bound0
    let g := (runF run0 bound0).onEngine 0 (fun e => { e with aborting := true })
    f.inReset = false ∧ (f.engine 0).running = some { run0 with nonReplay := true } ∧ (f.engine 0).queue = [] ∧
    (f.engine 0).state = .inService ∧ (f.engine 0).testOwner = none ∧ f.rs.hangs = [] ∧ f.slicesIn (· == .resetting) = [] ∧ f.quiet = true ∧
    0 + 90 + 0 + 0 + 200 < f.nextBoundary ∧ f.sq? 3 = some (sqD bound0) ∧ (sqD bound0).desc? 0 = some bound0 ∧ f.isActive 0 = true ∧
    shapeOk beat0.shape = true ∧ (bound0.view (sqD bound0)).chkrow = false ∧ f.cleat.droopLow = false ∧
    (fab0.engine 0).running = none ∧ ([beat0].map (·.member)) = List.range run0.seqs.length ∧ beat0.ce = 0 ∧
    (bound0.view (sqD bound0)).force = false ∧
    g.inReset = false ∧ (g.engine 0).running = some run0 ∧ (g.engine 0).aborting = true ∧ run0.nonReplay = false ∧ g.quiet = true ∧
    g.sq? 3 = some (sqD bound0) ∧ g.rs.hangs = [] := by
  decide +kernel

theorem test_witness_EngineLimitsAndResets :
    (let f := runF { run0 with preempt := true } bound0
     f.inReset = false ∧ (f.engine 0).running = some { run0 with preempt := true } ∧ (f.engine 0).aborting = false ∧
     (f.engine 0).state = .inService ∧ run0.preempt = false ∧ run0.kind ≠ .isolated) ∧
    (let f := runF { run0 with kind := .isolated } bound0
     (f.engine 0).running = some { run0 with kind := .isolated } ∧ (f.engine 0).aborting = false) ∧
    (busyF.engine 0).state ≠ .resetting ∧
    (let f := busyF.onEngine 0 (fun e => { e with state := .resetting })
     f.inReset = false ∧ (f.engine 0).state = .resetting ∧ (f.engine 0).resetWait = false ∧ (f.engine 0).running = none ∧
     (f.engine 0).queue = [] ∧ (f.engine 0).resetReq = none ∧ f.rs.hangs = [] ∧ f.quiet = true) ∧
    (let f := (busyF.onEngine 0 (fun e => { e with state := .resetting })).onFrame (fun g => { g with periodNs := 100000 })
     (f.engine 0).state = .resetting ∧ f.quiet = true ∧ (f.engine 0).resetFrom + 40000 + 200 < f.nextBoundary) ∧
    (let f := (busyF.onEngine 0 (fun e => { e with testSeed := some 3, scrubbing := true, aborting := true })).onFrame (fun g => { g with periodNs := 300000 })
     (f.engine 0).testSeed.isSome = true ∧ (f.engine 0).scrubbing = true ∧ (f.engine 0).aborting = true ∧ (f.engine 0).running = none ∧
     (f.engine 0).queue = [] ∧ f.quiet = true ∧ (f.engine 0).testFrom + 200200 < f.nextBoundary) := by
  decide +kernel

theorem test_witness_EngineReportsAndAddresses :
    (let f := busyF.onEngine 0 (fun e => { e with regionsDue := true, spPending := 2 })
     f.inReset = false ∧ (f.engine 0).regionsDue = true ∧ (f.engine 0).spPending ≠ 0) ∧
    (busyF.engine 0).regionsDue = false ∧ (busyF.engine 0).spPending = 0 ∧ (busyF.engine 0).running = none ∧
    (let d : Desc := { bound0 with extents := [[{ len := 256, addr := 0x10000 }]] }
     let f := runF run0 d
     let x : BitVec 48 := 64
     (f.engine 0).running = some run0 ∧ f.sq? 3 = some (sqD d) ∧ run0.seqs[(x.extractLsb' 43 5).toNat]? = some 0 ∧ (sqD d).desc? 0 = some d ∧
     (d.view (sqD d)).kind ≠ 2 ∧ 64 < ((d.view (sqD d)).instPart 0 0).2 ∧
     walkExtents (d.extents.getD 0 []) (((d.view (sqD d)).instPart 0 0).1 + 64) = some ({ len := 256, addr := 0x10000 }, 64) ∧
     walkExtents [({ len := 256, target := 1 } : Extent)] 64 = some ({ len := 256, target := 1 }, 64) ∧
     walkExtents [({ len := 256, target := 2 } : Extent)] 64 = some ({ len := 256, target := 2 }, 64) ∧ (walkExtents [] 64).isNone = true) ∧
    (let d : Desc := { bound0 with raw := setField raw0 16 1 2 }
     (d.view (sqD d)).kind = 2 ∧ ((0x40000000000 : BitVec 48).extractLsb' 41 2).toNat = 2 ∧ (d.insts.getD 0 {}).rowsReady = false) := by
  decide +kernel

theorem test_witness_TestsAuditsAndDigestJobs :
    (let f := ({ busyF with tests := { enable := false } } : Fabric).onEngine 0 (fun e => { e with testSeed := some 3 })
     f.inReset = false ∧ (f.engine 0).testSeed = some 3 ∧ (f.engine 0).queue = [] ∧ f.tests.enable = false ∧ (f.engine 0).testFailAt = none) ∧
    (busyF.engine 0).testSeed = none ∧ (busyF.engine 0).testOwner = none ∧ (busyF.engine 9).state = .absent ∧
    ((busyF.slice 0).audits.find 0).isNone = true ∧ (busyF.cau.jobs.find? (fun j => j.id == 4 && j.lane.isSome)).isNone = true ∧
    (let f := busyF.onEngine 0 (fun e => { e with testSeed := some 3 })
     f.tests.enable = true ∧ (f.engine 0).state = .inService ∧ f.isWatched 0 = false ∧ (f.engine 0).testSeed.isSome = true) ∧
    (let f := busyF.onEngine 0 (fun e => { e with state := .resetting })
     f.tests.enable = true ∧ (f.engine 0).state = .resetting ∧ f.isWatched 0 = false ∧ (f.engine 0).testSeed = none) ∧
    (let f := (framed busyF).onEngine 0 (fun e => { e with testDue := true, testHeld := true })
     f.hasTestGap 0 = false ∧ (f.engine 0).testHeld = true) ∧
    (let f := (framed busyF).onFrame (fun g => { g with periodNs := 400000 })
     f.hasTestGap 0 = true ∧ fitsBetween (f.grantTimes 0) f.now = false) ∧
    (({ busyF with belay := { busyF.belay with watch := [(0, { on := true })] } } : Fabric).isWatched 0 = true) ∧
    (let f := (runF run0 bound0).onEngine 0 (fun e => { e with testOwner := some 0 })
     (f.engine 0).testOwner = some 0 ∧ (f.engine 0).testSeed = none ∧ (f.engine 0).running = some run0 ∧
     (f.engine 0).testFrom + run0.budgetNs + 200 < f.nextBoundary) ∧
    (let f := busyF.onSlice 0 (fun y => { y with auditLog2 := 3, audits := [(0, { n := 8, pos := 1 })] })
     (f.slice 0).audits.find 0 = some { n := 8, pos := 1 } ∧ (f.slice 0).auditLog2 ≠ 31 ∧ 2 ^ (f.slice 0).auditLog2 ≤ 8) ∧
    (let f := { busyF with cau := { busyF.cau with jobs := [{ id := 4, kind := .digest 2 0, slice := 0, lane := some 0 }] },
                           belay := { busyF.belay with replicas := [(2, { members := [(0, { state := 2, job := some 4 }), (1, { state := 2, job := some 5 })] })] } }
     f.inReset = false ∧ f.cau.jobs.find? (fun j => j.id == 4 && j.lane.isSome) = some { id := 4, kind := .digest 2 0, slice := 0, lane := some 0 } ∧
     (f.replica 2).members.find 0 = some { state := 2, job := some 4 } ∧ (f.replica 2).members.find 1 = some { state := 2, job := some 5 } ∧
     f.belay.replicas.all (fun r => r.1 == 2 || r.2.result != 1) = true ∧ f.frame.slackRun = [] ∧ f.splice.groups = [] ∧
     f.fns.all (fun n => n.2.resetState != 1) = true ∧ f.rs.l5Drain = none ∧ f.quiet = true) := by
  decide +kernel

/-- Some signature is not the right one, whatever signatures the engines' test gives. -/
theorem test_a_wrong_signature_exists (seed : Word) : Config.testSignature seed + 1 ≠ Config.testSignature seed := by
  generalize Config.testSignature seed = x
  bv_omega

theorem test_witness_CommitsAndCoalescedMessages :
    (let d : Desc := { bound0 with belay := .passed }
     let f := dF d
     f.inReset = false ∧ f.sq? 3 = some (sqD d) ∧ (sqD d).descs = [d] ∧ f.cq? 1 1 = some { log2 := 6, addr := 0x100000 } ∧
     f.rs.frozen = false ∧ ({ log2 := 6, addr := 0x100000 } : Cq).room = true ∧ d.decided = true ∧ (f.fn 1).silent = false ∧ (sqD d).destroy = none ∧
     leaving (f.slice 0).state = false ∧ (f.slice 0).handles = [] ∧ f.quiet = true) ∧
    (let d : Desc := { bound0 with belay := .passed }
     let f := (dF d).onCq 1 1 (fun c => { c with tail := 64 })
     f.cq? 1 1 = some { log2 := 6, addr := 0x100000, tail := 64 } ∧ ({ log2 := 6, addr := 0x100000, tail := 64 } : Cq).room = false ∧
     d.fullStall = false ∧ f.quiet = true) ∧
    (dF bound0).sq? 3 = some (sqD bound0) ∧ bound0.decided = false ∧ (dF bound0).quiet = true ∧
    (let f := busyF.onCq 1 1 (fun c => { c with owed := true })
     (f.cq? 1 1).map (·.owed) = some true ∧ (f.fn 1).silent = false) ∧
    (busyF.cq? 1 1).map (·.owed) = some false ∧ (busyF.cq? 1 2).isNone = true := by
  decide +kernel

theorem test_witness_BoundariesAdvanceTheFrame :
    fab0.inReset = false ∧ fab0.rs.frozen = false ∧ fab0.fixBoundary.frame.fixed = some { retire := [], switch := false, amend := [], activate := [] } ∧
    frzF.inReset = false ∧ frzF.rs.frozen = true ∧ frzF.rs.l4Stage ≠ 10 ∧ frzF.frame.sync.mode ≠ 2 ∧ frzF.frame.slackRun = [] ∧
    frzF.units.retiring = [] ∧ frzF.frame.fixed = none ∧ fab0.frame.switchNext = false ∧ (fab0.frame.trims.getD 3 {}).tooLate = false ∧
    (fab0.frame.trims.getD 3 {}).recovered = false ∧ (fab0.slice 0).activate = none ∧ (fab0.belay.watch.getD 0 {}).done fab0.nextBoundary = false ∧
    (let f := (fab0.onSlice 0 (fun x => { x with activate := some (preq (opk 0x102 0), 1) })).onFrame (fun g => { g with
       fixed := some { retire := [], switch := false, amend := [], activate := [0] } })
     (f.slice 0).activate = some (preq (opk 0x102 0), 1) ∧ f.fixBoundary.frame.fixed.map (fun x => x.activate.contains 0) = some true) ∧
    (let f := fab0.onFrame (fun g => { g with trims := [(0, { history := [true, true, true, true] }), (1, { steps := 1, clean := 64 })] })
     (f.frame.trims.getD 0 {}).tooLate = true ∧ (f.frame.trims.getD 1 {}).tooLate = false ∧ (f.frame.trims.getD 1 {}).recovered = true) ∧
    (let f := (withSlice .created fab0).onSlice 0 (fun x => { x with activate := some (preq (opk 0x102 0), 1) })
     (f.slice 0).activate = some (preq (opk 0x102 0), 1) ∧ f.fixBoundary.frame.fixed.map (fun x => x.activate.contains 0) = some false) ∧
    (let w : Watch := { on := true, clean := 1024 }
     let f := { fab0 with belay := { fab0.belay with watch := [(0, w)] }, frame := { fab0.frame with time := 600000000000, boundaryAt := 600000000000 } }
     f.belay.watch.find 0 = some w ∧ w.done f.nextBoundary = true ∧ f.now ≤ f.nextBoundary) := by
  decide +kernel

theorem test_witness_SlotsOpenAndClose :
    (let f := framed busyF
     f.inReset = false ∧ f.rs.frozen = false ∧ f.now < f.frame.boundaryAt + 1000 ∧ f.frame.boundaryAt + 1000 < f.nextBoundary ∧
     bitAt (entEngines ent0) 0 = true ∧ f.quiet = true ∧ f.splice.groups = [] ∧ f.entryNow 0 = some ent0 ∧ f.rs.hangs = [] ∧
     (∀ k ∈ f.granted ent0, (f.engine k).running = none ∧ (f.engine k).queue = []) ∧ f.granted ent0 = [0, 1, 2, 3] ∧
     f.frame.ended.contains 0 = false ∧ f.isActive (entSlice ent0) = true ∧ f.engines.all (fun e => !e.2.testDue) = true ∧
     (f.granted ent0).filter (fun k => !f.frame.closed.contains (0, k)) ≠ [] ∧
     (f.granted ent0).filter (fun k => !f.frame.slackSeen.contains (0, k)) ≠ [] ∧ f.entryNow 5 = none ∧ 200 ≤ 1000 ∧
     ((openRun f).advance (f.nextBoundary + 0 - 200)).fixBoundary.frame.fixed.isSome = true) ∧
    (let f := (framed busyF).onFrame (fun g => { g with ended := [0], slackSeen := [(0, 0), (0, 1), (0, 2), (0, 3)], closed := [(0, 0), (0, 1), (0, 2), (0, 3)] })
     f.quiet = true ∧ f.entryNow 0 = some ent0 ∧ (f.granted ent0).all (fun k => f.frame.slackSeen.contains (0, k)) = true ∧
     (f.granted ent0).all (fun k => f.frame.closed.contains (0, k)) = true ∧ f.frame.ended.contains 0 = true) ∧
    (let f := (framed busyF).onEngine 0 (fun e => { e with nextLatch := some (some 0) })
     (f.engine 0).nextLatch = some (some (entSlice ent0)) ∧ (f.engine 0).running = none ∧ (f.engine 0).queue = []) ∧
    (let f := framed (dF cond0)
     f.entryNow 0 = some ent0 ∧ f.isActive (entSlice ent0) = true ∧ f.isArmed (entSlice ent0) = true) ∧
    (let f := runF run0 bound0
     let x := f.slotOf f.frame.boundaryAt (0, ent0)
     f.slotNext 0 0 x = none ∧ (f.engine 0).running = some run0 ∧ run0.slice = 0 ∧ run0.nonPreempt = false ∧ (f.engine 0).queue = [] ∧ f.rs.hangs = []) := by
  decide +kernel

/-- A cluster unit on virtual lane 7 of port 0, and a follower of the link master with the cluster key loaded. -/
def syncUnit : LinkUnit := { port := 0, keyTag := 0xFFFF, vl := 7, ctrLo := 1, payload := 16, length := 40, crcOk := true, authOk := true }
def followF (y : Sync) : Fabric := (fab0.onKeys (fun k => { k with cluster := 1 })).onFrame (fun g => { g with sync := y })

theorem test_witness_FollowersAlignTheirFrames :
    (let f := followF { mode := 2 }
     f.inReset = false ∧ (f.ingress syncUnit).1 = some wireCluster ∧ syncUnit.vl = 7 ∧ f.frame.sync.mode = 2 ∧ syncUnit.port = f.frame.sync.port ∧
     f.rs.frozen = false ∧ f.frame.periodNs = 40000 ∧ f.mayStep = true ∧ f.frame.sync.seen = false ∧ f.frame.sync.missed = false ∧
     f.frame.sync.missRun ≠ 3) ∧
    (let f := followF { mode := 2, adopted := true, locked := true, missRun := 3 }
     (f.ingress syncUnit).1 = some wireCluster ∧ f.mayStep = false ∧ (((900 + f.frame.sync.pathDelay : Nat) : Int) - (f.now : Int)).natAbs ≤ 1000 ∧
     f.frame.sync.seen = false ∧ f.frame.sync.missed = false ∧ f.frame.sync.missRun = 3 ∧ f.frame.sync.locked = true) ∧
    (followF { mode := 1 }).frame.sync.mode = 1 ∧ ((openRun (followF { mode := 1 })).ingress syncUnit).1 = some wireCluster ∧
    (followF { mode := 2 }).frame.sync.delayIn = 0 ∧ (followF { mode := 2, delayAsked := true }).frame.sync.delayAsked = true ∧
    ((followF { mode := 4, missRun := 2 }).frame.sync.missRun = 2) ∧ (followF { mode := 2, seen := true }).frame.sync.seen = true ∧
    (followF { mode := 4, window := some 0 }).frame.sync.window = some ((followF { mode := 4, window := some 0 }).nearBoundary 0) ∧
    (let f := followF { mode := 4 }
     f.frame.sync.mode = 4 ∧ f.mayStep = true ∧ f.frame.sync.window ≠ some (f.nearBoundary f.now) ∧ f.frame.sync.missRun ≠ 2) ∧
    (let f := (followF { mode := 4, adopted := true }).onFrame (fun g => { g with time := 1000 })
     f.mayStep = false ∧ f.nearBoundary (f.now - f.frame.sync.pinDelay) + 200 < f.now - f.frame.sync.pinDelay) ∧
    (let f := (followF { mode := 4, adopted := true }).onFrame (fun g => { g with time := 100 })
     f.mayStep = false ∧ 100 ≤ f.nearBoundary 100 + 200 ∧ f.nearBoundary 100 ≤ 300) := by
  decide +kernel

/-- Map records on tag 17: MAP of page 2 of 64 KiB at device offset `at_`, UNMAP and PROTECT of page 0, RESOLVE of page 0. -/
def mapRec (at_ : Nat) : MapRec := [(2, 2, 17), (4, 1, 16), (8, 8, 0x20000), (0x10, 4, 1), (0x18, 8, at_)].foldl (fun r e => setField r e.1 e.2.1 e.2.2) 0
def unmapRec : MapRec := [(0, 1, 1), (2, 2, 17), (0x10, 4, 1)].foldl (fun r e => setField r e.1 e.2.1 e.2.2) 0
def protectRec : MapRec := setField unmapRec 0 1 2
def resolveRec : MapRec := [(0, 1, 3), (2, 2, 17), (5, 1, 1)].foldl (fun r e => setField r e.1 e.2.1 e.2.2) 0
/-- Slice 0 with a record waiting in its map queue. -/
def mqF : Fabric := mapF.onTu 0 (fun u => { u with tail := 3 })
def open0 : OpenFault := { tag := 17, page := 0, cause := 1 }

theorem test_witness_MapRecordsApplyInOrder :
    mqF.inReset = false ∧ mapqEnable (mqF.slice 0).tu.base = true ∧ (mqF.slice 0).tu.applied ≠ (mqF.slice 0).tu.tail ∧
    leaving (mqF.slice 0).state = false ∧ mqF.rs.frozen = false ∧ mqF.quiet = true ∧ (mqF.slice 0).tu.unretired = [] ∧
    mrTag (mapRec 0x100000) = 17 ∧ mqF.tag? 17 = some tag0 ∧ mqF.mapForm 0 0 (mapRec 0x100000) = true ∧
    mrVa (mapRec 0x100000) + mrSpan (mapRec 0x100000) * 65536 ≤ Config.apertureBase ∧
    tag0.leaves.any (leafMeets (mrFirst (mapRec 0x100000)) (mrSpan (mapRec 0x100000))) = false ∧
    inExtent (mqF.slice 0).record (mrAddr (mapRec 0x100000) / 2 ^ 36) (mrAddr (mapRec 0x100000) % 2 ^ 36) (mrSpan (mapRec 0x100000) * 65536) = true ∧
    inPool (mqF.slice 0).record (mrAddr (mapRec 0x100000) / 2 ^ 36) (mrAddr (mapRec 0x100000) % 2 ^ 36) (mrSpan (mapRec 0x100000) * 65536) = false ∧
    keySelOk (mqF.slice 0).record (mrTarget (mapRec 0x100000)) (mrKeySel (mapRec 0x100000)) = true ∧ (mqF.slice 0).tu.faults = [] ∧
    (mqF.slice 0).tu.pendingAcks < 16 ∧ (mqF.unmapCheck 0 1 unmapRec).1 = 0 ∧ (mqF.unmapCheck 0 2 protectRec).1 = 0 ∧
    mrOp unmapRec = 1 ∧ mrOp protectRec = 2 ∧ mrOp (mapRec 0x100000) = 0 ∧ mapqEnable (mapF.slice 0).tu.base = true ∧
    (mapF.slice 0).tu.applied = (mapF.slice 0).tu.tail ∧ (mqF.slice 0).tu.faults.find 2 = none ∧
    (let f := mqF.onTu 0 (fun u => { u with faults := [(2, open0)] })
     f.mapForm 0 3 resolveRec = true ∧ mrOp resolveRec = 3 ∧ mrAction resolveRec = 1 ∧
     (f.onTu 0 (fun y => { y with faults := y.faults.del 2 })).quiet = true ∧ (f.slice 0).tu.unretired = [] ∧
     mapqEnable (f.slice 0).tu.base = true ∧ (f.slice 0).tu.applied ≠ (f.slice 0).tu.tail ∧
     (f.slice 0).tu.faults.find? (fun e => e.2.tag == mrTag resolveRec && e.2.page == mrFirst resolveRec) = some (2, open0) ∧
     (f.slice 0).tu.faults.find 5 = none ∧
     f.parkedOn 0 2 = [] ∧ f.instsParkedOn 0 2 = [] ∧ f.overflowOf 0 = [] ∧ (f.slice 0).tu.faults.find 2 = some open0 ∧ open0.cause ≠ 3 ∧
     f.tag? open0.tag = some tag0) ∧
    mrOp (setField unmapRec 0x10 4 0) = 1 ∧ mqF.mapForm 0 1 (setField unmapRec 0x10 4 0) = false ∧
    (let f := mqF.onTu 0 (fun u => { u with unmaps := (List.range 16).map (fun i => { kind := .record i 0, tag := 17, va := 0, len := 0x10000, holders := [(3, 0)], since := 0, phys := [] }) })
     mrOp unmapRec = 1 ∧ 16 ≤ (f.slice 0).tu.pendingAcks ∧ (f.slice 0).tu.applied ≠ (f.slice 0).tu.tail) ∧
    (let d : Desc := { bound0 with stage := .parked 2 }
     let f := (dF d).onTu 0 (fun u => { u with faults := [(2, open0)] })
     (f.slice 0).tu.faults.find 2 = some open0 ∧ f.parkedOn 0 2 = [(3, d)] ∧ f.instsParkedOn 0 2 = [] ∧ f.overflowOf 0 = [] ∧
     (f.onTu 0 (fun y => { y with faults := y.faults.del 2 })).quiet = true) := by
  decide +kernel

theorem test_witness_MapRecordsApplyInOrder_frames :
    ∀ g l, l = (List.range (mrCount (mapRec 0x100000))).map (fun i => (mrFirst (mapRec 0x100000) + i * mrPages (mapRec 0x100000), mrLeaf (mapRec 0x100000) i)) →
      g = (mqF.onTag 17 (fun y => { y with leaves := l.foldl (fun l e => l.put e.1 e.2) y.leaves,
                                           lost := cutSpans y.lost (mrFirst (mapRec 0x100000)) (mrSpan (mapRec 0x100000)) })).settleTables 17 →
      g.tableFrames 0 ≤ 16384 := by
  intro g l hl hg
  subst hl hg
  decide +kernel

/-- Window 1 of slice 0 over 4 KiB of device memory, open to chip 2; window 2 of 4 KiB of engine 0's scratchpad. -/
def win1 : Window := { state := 1, slice := 0, jobKey := 0, sources := [2], perm := 3, len := 4096, extents := [{ len := 4096, addr := 0x100000 }] }
def win2 : Window := { state := 1, slice := 0, jobKey := 0, sources := [2], perm := 2, len := 4096, scratch := true, engine := 0 }
def winF : Fabric :=
  { ({ grpF with windows := [(1, win1), (2, win2)] } : Fabric).onEngine 0 (fun e => { e with running := some { run0 with nonReplay := true } }) with
      remotes := [(5, { port := 0, engine := 0, dma := false, slice := 0, peer := 2, window := 1, offset := 0, length := 64, sentAt := 0 })] }
def jobUnit : LinkUnit := { port := 0, keyTag := 77, vl := 0, ctrLo := 1, payload := 256, length := 280, crcOk := true, authOk := true }

theorem test_witness_WindowTraffic :
    winF.inReset = false ∧ (winF.ingress jobUnit).1 = some 4 ∧ winF.windowCode jobUnit 4 3 0 64 true (winF.window 1) ≠ 0 ∧
    winF.windowCode jobUnit 4 2 0 64 true (winF.window 2) = 0 ∧ (winF.window 2).scratch = true ∧
    winF.windowCode jobUnit 4 2 0 256 true (winF.window 1) = 0 ∧ (winF.window 1).scratch = false ∧
    walkExtents win1.extents 0 = some ({ len := 4096, addr := 0x100000 }, 0) ∧
    (winF.slice 0).state = .active ∧ (winF.slice 0).hasEngine 0 = true ∧ winF.hasDma (winF.slice 0) 0 = true ∧ winF.goingOut 1 0 = false ∧
    (winF.slice 0).ports.contains 0 = true ∧ (winF.portsTo (winF.slice 0) 2).contains 0 = true ∧ winF.splice.chip ≠ 0 ∧
    winF.remotes.find 5 = some { port := 0, engine := 0, dma := false, slice := 0, peer := 2, window := 1, offset := 0, length := 64, sentAt := 0 } ∧
    winF.remotes.find 6 = none ∧ (winF.ingress { jobUnit with crcOk := false }).1 = none ∧
    (winF.engine 0).running = some { run0 with nonReplay := true } ∧ run0.slice = 0 ∧ run0.startAt ≤ 0 := by
  decide +kernel

/-- A request of engine 0 of slice 0 at stack 0: 256 bytes at 1 GiB under key slot 8. -/
def miReq : Word := BitVec.ofNat 64 (2 ^ 30 / 64 * 2 ^ 6 + 8 * 2 ^ 37)
def unit1 : CUnit := { tag := 3, slice := some 0, charge := 256, mi := true, arrived := 1 }
def regF (g : Reg) : Fabric := grpF.onReg 0 (fun _ => g)

theorem test_witness_RegulatorsPortWidthAndDroop :
    bitAt (BitVec.ofNat 64 (2 ^ 55)) 55 = true ∧ miField (BitVec.ofNat 64 (2 ^ 55)) 37 9 < 8 ∧ 8 ≤ miField (BitVec.ofNat 64 (2 ^ 55 + 2 ^ 40)) 37 9 ∧
    grpF.stackIn 13 = false ∧ miField (BitVec.ofNat 64 (2 ^ 30 / 64 * 2 ^ 6)) 37 9 < (grpF.slice 0).keyBase ∧
    grpF.inReset = false ∧ grpF.stackIn 0 = true ∧ bitAt miReq 55 = false ∧ miField miReq 46 6 = 0 ∧ (grpF.slice 0).state = .active ∧
    bitAt miReq 0 = false ∧ (grpF.slice 0).hasEngine (miField miReq 56 8) = true ∧
    inExtent (grpF.slice 0).record 0 (miField miReq 6 30 * 64 / 256 * 256) 256 = true ∧ (grpF.slice 0).keyBase ≤ miField miReq 37 9 ∧
    miField miReq 37 9 < (grpF.slice 0).keyBase + recMemKeys (grpF.slice 0).record ∧
    inExtent (grpF.slice 0).record 0 (miField (BitVec.ofNat 64 (2 ^ 32 / 64 * 2 ^ 6)) 6 30 * 64 / 256 * 256) 256 = false ∧
    grpF.regUp 0 = true ∧ grpF.rs.frozen = false ∧ grpF.regUp 20 = false ∧
    (((regF { waiting := [unit1], meters := { rem := 2 ^ 30 } }).nextGrant 0 false).map (fun x => x.1)) = some unit1 ∧
    unit1.zeros.isNone = true ∧ unit1.done.isNone = true ∧ unit1.shadow.isNone = true ∧ unit1.injectBits = 0 ∧ (regF {}).fc.inject = none ∧
    grpF.quiet = true ∧ ((grpF.reg 0).out.find? (fun w => w.tag == 3 && w.answered.isNone)).isNone = true ∧ unit1.window.isNone = true ∧
    (let f := regF { out := [unit1] }
     (f.reg 0).out.find? (fun w => w.tag == 3 && w.answered.isNone) = some unit1 ∧ f.now ≤ unit1.grantedAt + regLat 0) ∧
    (let f := regF { out := [{ unit1 with slice := none }] }
     (f.reg 0).out.find? (fun w => w.tag == 3 && w.answered.isNone) = some { unit1 with slice := none } ∧ f.now < unit1.grantedAt + regLat 0) ∧
    recSealed ((grpF.onSlice 0 (fun x => { x with record := setField rec0 0 1 1 })).slice 0).record = true ∧ recSealed (grpF.slice 0).record = false ∧ regKind 0 ≠ 1 ∧
    (let f := regF { out := [{ unit1 with answered := some 0 }] }
     (f.reg 0).out.find? (fun w => w.tag == 3 && w.answered.isSome) = some { unit1 with answered := some 0 }) ∧
    busyF.quiet = true ∧ busyF.splice.groups = [] ∧ busyF.lanesOf 0 ≤ 4 ∧
    (let f := busyF.onCleat (fun c => { c with lanes := [(0, 4)] })
     f.quiet = true ∧ 2 < f.lanesOf 0) ∧
    fab0.cleat.droopLow = false ∧ (fab0.onCleat (fun c => { c with droopLow := true })).cleat.droopLow = true ∧
    (fab0.onCleat (fun c => { c with droopHold := some 10000 })).cleat.droopHold = some 10000 := by
  decide +kernel

def barRaw : BitVec 512 := setField (setField 0 4 2 1) 0 1 5
def redRaw : BitVec 512 := setField (setField 0 0 1 1) 18 4 1024
def tok0 : Token := { step := 0, crc := stepCrc barRaw, hold := 0, drag := 0, slowRank := 0, slowHold := 0, slowDrag := 0, allReachSwitch := false, useSwitch := false }
def hdrC : ChunkHdr := { job := 9, step := 0, phase := 1, src := 1, index := 0, count := 4, partialSum := false, nan := false, last := true }
/-- Group 5 in a state, at rank `rank`, with one bound step in its queue. -/
def stepF (raw : BitVec 512) (g : Group) (rank : Nat := 0) : Fabric :=
  { grpF with
      sqs := [(3, { sq0 with gen := 3, group := some 5, accepted := 1, tail := 1, descs := [{ raw := raw, stage := .bound, readyAt := some 0 }] })]
      splice := { grpF.splice with groups := [(5, { g with record := setField grp0 2 1 rank, parts := 255 })] } }
def sent0 (tries : Nat) : SentChunk := { h := hdrC, payload := [], crc := chunkCrc hdrC [], port := 0, tries := tries, sentAt := 0 }

/-- With the cluster key installed. -/
def clusterF (f : Fabric) : Fabric := f.onKeys (fun k => { k with cluster := 1 })

theorem test_witness_GroupsJoinAndBreak :
    (let f := clusterF (stepF barRaw { state := 2 })
     (f.ingress syncUnit).1 = some wireCluster ∧ ((openRun f).ingress syncUnit).1 = some wireCluster ∧
     (f.group 5).destroy = none ∧ (f.splice.joins.find? (fun k => k.2.1 == 8)).isNone = true ∧
     f.inReset = false ∧ f.groupsOf 8 (fun x => x.state == 2) = [] ∧ f.groupsOf 8 (fun x => x.state == 3 || x.state == 4) = [] ∧
     f.groupsOf 9 (fun x => x.state == 2) = [5] ∧ (f.group 5).state = 2 ∧ (0 : BitVec 32) ≠ joinCrcOf (f.group 5).record ∧ f.quiet = true ∧
     (f.group 5).leads = true ∧ gSwitchAllowed (f.group 5).record = false ∧ (f.group 5).resv ≠ 1 ∧
     (f.splice.groups.find 5).map (fun x => (gJob x.record, x.state)) = some (9, 2)) ∧
    (let f := stepF barRaw { state := 2 } 1
     f.quiet = true ∧ f.groupsOf 9 (fun x => x.state == 2) = [5] ∧ (f.group 5).leads = false ∧ gJob (f.group 5).record = 9) ∧
    (let f := { grpF with splice := { grpF.splice with joins := [(0, 8, 3, 0)] } }
     f.inReset = false ∧ f.splice.joins.find? (fun k => k.2.1 == 8) = some (0, 8, 3, 0)) ∧
    ((stepF barRaw { state := 3, resv := 1 }).group 5).resv = 1 := by
  decide +kernel

theorem test_witness_StepsRunInStep :
    (let f := stepF barRaw { state := 3 }
     f.inReset = false ∧ (f.group 5).state = 3 ∧ (f.group 5).running = none ∧ f.isActive (gSlice (f.group 5).record) = true ∧ f.rs.frozen = false ∧
     (f.stepDesc 5 (f.group 5).stepNum).map (fun e => (e.1, e.2.stage == .bound && e.2.belay == .bound && e.2.readyAt.isSome && !e.2.stale && e.2.ending.isNone))
       = some (3, true) ∧
     (f.group 5).abortAhead.find? (fun a => a.1 == (f.group 5).stepNum) = none ∧ (f.group 5).heldReady = none ∧ tok0.step = (f.group 5).stepNum ∧
     ((clusterF f).ingress syncUnit).1 = some wireCluster ∧ stepPast (f.group 5) 7 = false ∧ stepPast (f.group 5) 65535 = true ∧
     (f.group 5).abortSeen.contains 7 = false) ∧
    ((stepF barRaw { state := 3, abortAhead := [(0, .path)] }).group 5).abortAhead.find? (fun a => a.1 == 0) = some (0, .path) ∧
    ((stepF barRaw { state := 3, abortSeen := [7] }).group 5).abortSeen.contains 7 = true ∧
    ((stepF barRaw { state := 2 }).group 5).state ≠ 3 := by
  decide +kernel

theorem test_witness_StepsRunInStep_running :
    (let f := stepF barRaw { state := 3, running := some 0, stepNum := 1, isReady := true } 1
     (f.group 5).state = 3 ∧ (f.group 5).running.isSome = true ∧ tok0.step = (f.group 5).stepNow ∧ (f.group 5).going = false ∧
     (f.group 5).leads = false ∧ (f.runningStep 5).map (fun e => (e.1, e.2.seq, e.2.raw)) = some (3, 0, barRaw) ∧ tok0.crc = stepCrc barRaw ∧
     field barRaw 0 1 = 5 ∧ (f.group 5).timeoutRun < 2 ∧ (f.stepDesc 5 (f.group 5).stepNum).isNone = true ∧
     f.stepGone 5 (f.group 5).stepNum = false ∧ tok0.crc + 1 ≠ stepCrc barRaw ∧
     ((stepF barRaw { state := 3, running := some 0, stepNum := 1, isReady := true }).group 5).leads = true) := by
  decide +kernel

theorem test_witness_ChunksAndNotices :
    (let f := clusterF (stepF redRaw { state := 3, running := some 0, stepNum := 1, isReady := true })
     (f.ingress syncUnit).1 = some wireCluster ∧ (f.ingress { jobUnit with crcOk := false }).1 = none ∧ stepPast (f.group 5) 65535 = true ∧
     (1 : BitVec 32) ≠ gJob (f.group 5).record ∧ hdrC.step ≠ 5 ∧ stepPast (f.group 5) 5 = false ∧
     f.inReset = false ∧ (f.ingress jobUnit).1 = some 4 ∧ ((openRun f).ingress jobUnit).1 = some 4 ∧ (f.group 5).state = 3 ∧
     hdrC.job = gJob (f.group 5).record ∧ (0 : BitVec 32) ≠ chunkCrc hdrC [] ∧ stepPast (f.group 5) hdrC.step = false ∧
     (f.runningStep 5).map (·.1) = some 3 ∧ hdrC.step = (f.group 5).stepNow ∧ (f.group 5).isReady = true ∧
     (f.group 5).received.any (sameChunk hdrC) = false ∧ f.sentChunk? 5 hdrC = none) ∧
    (let f := stepF redRaw { state := 3, running := some 0, stepNum := 1, isReady := true, received := [hdrC], sent := [sent0 1] }
     (f.group 5).received.any (sameChunk hdrC) = true ∧ f.sentChunk? 5 hdrC = some (sent0 1) ∧ (sent0 1).tries < 4 ∧
     (sent0 1).due = false ∧ ({ sent0 1 with due := true } : SentChunk).due = true ∧ (f.chunkPorts (f.group 5) hdrC).contains 0 = true) ∧
    (let f := stepF redRaw { state := 3, running := some 0, stepNum := 1, isReady := true, sent := [sent0 4] }
     f.sentChunk? 5 hdrC = some (sent0 4) ∧ 4 ≤ (sent0 4).tries) ∧
    hdrC.phase = 1 ∧ (planOf (grpF.group 5) { raw := redRaw }).rank + 1 < (planOf (grpF.group 5) { raw := redRaw }).n ∧ 2 ≠ 1 ∧ 2 ≠ 3 := by
  decide +kernel

def inst0 : Install := { req := preq (pf 0x301 0), slice := 0, kind := 0, index := 0, tag := 0, keyId := 0x55, askedAt := 0 }
def rev0 : Revoke := { slice := 0, kind := 0, index := 8, req := none, zeroed := true, asked := true, askedAt := 0, tries := 0 }
/-- Slice 0 being removed, with its keys still in place. -/
def remF : Fabric := withSlice .removing fab0

theorem test_witness_KeyPortAnswers :
    (let f := busyF.onKeys (fun k => { k with installing := [inst0] })
     f.inReset = false ∧ f.keys.installing = [inst0] ∧ inst0.kind ≤ 1 ∧ f.sliceUp inst0.slice = true ∧ f.keys.links.lowestFree 0 1024 = some 0 ∧
     ({ inst0 with kind := 2 } : Install).kind = 2) ∧
    fab0.keys.installing = [] ∧ fab0.sliceUp inst0.slice = false ∧ leaving (fab0.slice 0).state = false ∧ (fab0.slice 0).escrowAsked = false ∧
    fab0.keys.revokes.find? (fun r => r.slice == 0 && r.asked) = none ∧
    fab0.keys.revokes.find? (fun r => r.slice == 0 && r.zeroed && !r.asked && decide (r.tries < 3)) = none ∧ (fab0.slice 0).escrowTries = 0 ∧
    remF.inReset = false ∧ (remF.slice 0).state = .removing ∧ (remF.slice 0).keysZeroed = false ∧ remF.drained 0 = true ∧
    (let f := remF.onSlice 0 (fun x => { x with keysZeroed := true, escrowAsked := true })
     (f.slice 0).state = .removing ∧ (f.slice 0).escrowAsked = true ∧ (f.slice 0).engineSet.contains 2 = true ∧ (f.engine 2).state = .inService) ∧
    (let f := busyF.onKeys (fun k => { k with revokes := [rev0] })
     f.keys.revokes.find? (fun r => r.zeroed && r.kind == 0 && r.index == 8 && !f.revokeAbsorbed r) = some rev0 ∧
     f.keys.revokes.find? (fun r => r.slice == 0 && r.asked) = some rev0 ∧ (f.slice 0).escrowAsked = false) ∧
    (let f := busyF.onKeys (fun k => { k with revokes := [{ rev0 with asked := false, tries := 1 }] })
     f.keys.revokes.find? (fun r => r.slice == 0 && r.zeroed && !r.asked && decide (r.tries < 3)) = some { rev0 with asked := false, tries := 1 }) ∧
    (let f := remF.onSlice 0 (fun x => { x with keysZeroed := true, escrowTries := 1 })
     (f.slice 0).escrowAsked = false ∧ (f.slice 0).keysZeroed = true ∧ (f.slice 0).escrowDone = false ∧ 1 ≤ (f.slice 0).escrowTries ∧
     (f.slice 0).escrowTries < 3) ∧
    fab0.session? 9 = none ∧ fab0.ctl.sessions.length < 2 ∧ fab0.session? 7 = some ses := by
  decide +kernel

/-- An import from page 0 to page 1 of tag 17 under key slot 9, running. -/
def impT : Import := { req := preq (vf 0x31A 0), slice := 0, selector := 1, srcTag := 17, dstTag := 17, srcVa := 0, dstVa := 0x10000, begun := true }
def impF : Fabric :=
  ({ busyF with tags := [(17, { tag0 with leaves := [(0, { write := true, addr := 0x10000 }), (1, { write := true, addr := 0x20000 })] })] } : Fabric).onKeys
    (fun k => { k with imports := [impT], mem := [(8, { state := 1 }), (9, { state := 1, kind := 1, keyId := 0x55 })] })

theorem test_witness_ImportsScrubsAndPublication :
    impF.inReset = false ∧ impF.keys.imports = [impT] ∧ impT.ended = none ∧ (impF.importOutcome impT (some 0) []).1 = 1 ∧
    impT.stale 256 0 = false ∧ ({ impT with unmapped := [(17, 0, 65536)] } : Import).stale 256 64 = true ∧
    ({ impT with ended := some (1, 0, []) } : Import).ended = some (1, 0, []) ∧ ({ impT with left := 1 } : Import).left ≠ 0 ∧ impT.left = 0 ∧
    busyF.keys.imports = [] ∧ (busyF.engine 2).scrubbing = false ∧ (busyF.slice 0).zeroing = false ∧
    busyF.bindImport 0 17 0x50000 256 false = none ∧ (impF.bindImport 0 17 0 256 false).isSome = true ∧
    (none : Option Nat) ≠ some 0 ∧ pkgOk 0 (impF.keys.mem.getD ((impF.slice 0).keyBase + 1) {}).keyId = false ∧
    (let f := busyF.onEngine 2 (fun e => { e with scrubbing := true })
     (f.engine 2).scrubbing = true ∧ (∀ x ∈ f.slices, x.2.escrowDone = false)) ∧
    (let f := (withSlice .whipping fab0).onSlice 0 (fun x => { x with zeroing := true })
     f.inReset = false ∧ (f.slice 0).state = .whipping ∧ (f.slice 0).zeroing = true) ∧
    busyF.slicesIn leaving = [] ∧ busyF.env.frozen = false ∧ remF.slicesIn leaving ≠ [] ∧
    (let f := busyF.onEnv (fun e => { e with frozen := true, freeSeen := 5 })
     let g := f.advance f.publishAt
     let a := { g.env.atSecond (g.now / 1000000000) with published := g.now / 1000000000 }
     a.frozen = true ∧ a.freeSeen < g.now / 1000000000 * 1000000000 ∧ g.slicesIn leaving = [] ∧ 0 < f.frame.periodNs ∧
     f.frame.boundaryAt ≤ (f.env.published + 1) * 1000000000) ∧
    (let f := busyF.onEnv (fun e => { e with frozen := true, freeSeen := 1500000000 })
     let g := f.advance f.publishAt
     let a := { g.env.atSecond (g.now / 1000000000) with published := g.now / 1000000000 }
     a.frozen = true ∧ g.now / 1000000000 * 1000000000 ≤ a.freeSeen) ∧
    busyF.env.second = 0 ∧ busyF.env.second + 1 = 1 ∧ busyF.env.second ≠ 2 := by
  decide +kernel

def rec1 : FRec := { time := 5, source := 2, cause := 0x0101, arrived := 7 }
def fat1 : FRec := { time := 5, source := srcRs, cause := 0x0901, base := some 3, fabric := true }
def injT : Inject := { target := 1, bits := 1, unit := 0, index := 0, duration := 0, count := false, pin := false, req := preq (opk 0x407 0), armedAt := 0, consumedAt := none }

theorem test_witness_FaultsAreCollectedAndClassified :
    (let f := fab0.onSite 2 (fun t => { t with lanyard := 1, fifo := [rec1] })
     f.inReset = false ∧ (f.site 2).lanyard = 1 ∧ (f.site 2).fifo = [rec1] ∧ f.fc.queue.length < 256 ∧
     (f.site 2).fifo.length ≤ 8 ∧ f.fc.queue.length + (f.site 2).fifo.length ≤ 256) ∧
    ((fab0.onSite 2 (fun t => { t with lanyard := 2, misses := 1 })).site 2).lanyard = 2 ∧
    (let f := fab0.onSite 300 (fun t => { t with lanyard := 2, misses := 2 })
     (f.site 300).lanyard = 2 ∧ 2 ≤ (f.site 300).misses ∧ 256 ≤ 300) ∧
    (let f := fab0.onSite 2 (fun t => { t with lanyard := 2, misses := 2 })
     (f.site 2).lanyard = 2 ∧ (f.site 2).lanyard ≠ 1 ∧ 2 ≤ (f.site 2).misses) ∧
    ({ fab0 with fc := {} } : Fabric).fc.timers.find 3 = none ∧ fab0.fc.fatalTimer = none ∧ fab0.fc.errOut = false ∧ fab0.fc.inject = none ∧
    fab0.fc.consumed = [] ∧ (fab0.site 2).lanyard ≠ 2 ∧
    (let f := (fab0.onFc (fun c => { c with fatalTimer := some 5 })).onRs (fun r => { r with boot := .fuses })
     f.fc.fatalTimer = some 5 ∧ f.rs.boot ≠ .running ∧ f.inReset = false) ∧
    (let f := remF.raise { source := 2, unit := sourceUnit 2, cause := 0x0105 }
     leaving (f.slice 0).state = true ∧ (f.slice 0).keysZeroed = false) ∧
    fab0.fc.queue = [] ∧
    (let f := fab0.onFc (fun c => { c with queue := [fat1, rec1] })
     nextRecord f.fc.queue = some (rec1, [fat1]) ∧ f.fc.lastKey ≤ rec1.key) ∧
    (∀ u ∈ ({ fab0 with fc := { rules := [] } } : Fabric).fc.rules, u.hits rec1 = false) ∧ 2 ≤ fat1.baseClass ∧ fat1.fabric = true ∧ rec1.fabric = false ∧
    fab0.rs.boot = .running ∧ fab0.rs.l4Stage = 0 ∧ fab0.rs.l5Step = 0 ∧
    (let f := (withSlice .resetting fab0).onFc (fun c => { c with timers := [(0, 100), (1, 100)], fatalTimer := some 500 })
     f.fc.timers.find 0 = some 100 ∧ (f.slice 0).state = .resetting ∧ f.fc.timers.find 1 = some 100 ∧ (f.slice 1).state ≠ .resetting ∧
     f.fc.fatalTimer = some 500 ∧ f.rs.l4Stage = 0 ∧ f.rs.boot = .running) ∧
    (let f := (fab0.onFc (fun c => { c with fatalTimer := some 500 })).onRs (fun r => { r with l4Stage := 2 })
     f.inReset = false ∧ f.fc.fatalTimer = some 500 ∧ f.rs.l4Stage ≠ 0) ∧
    ({ oper := List.replicate 64 0 } : Fc).oper = 0 :: List.replicate 63 0 ∧ (List.replicate 63 (0 : BitVec 512)).length = 63 ∧
    ({} : Fc).oper.length < 64 ∧
    (let f := fab0.onFc (fun c => { c with errOut := true, inject := some injT, consumed := [{ injT with consumedAt := some 3 }] })
     f.fc.errOut = true ∧ f.fc.inject = some injT ∧ f.fc.consumed = [{ injT with consumedAt := some 3 }]) := by
  decide +kernel

theorem test_witness_LedgerSensorsAndTestPort :
    fab0.inReset = false ∧ fab0.coresUp = true ∧ fab0.ledger.flushFails + 1 < 3 ∧ (fab0.onRs (fun r => { r with restart := some 0 })).coresUp = false ∧
    fab0.ledger.readReqs = [] ∧ fab0.rs.boot ≠ .ledger ∧ fab0.env.asked.contains 3 = false ∧ fab0.env.asked = [] ∧
    ((fab0.onEnv (fun e => { e with temps := [(3, some 40)] })).env.temps.filterMap (·.2)) = 40 :: [] ∧
    (let f := (fab0.onEnv (fun e => { e with asked := [3, railAddr, powerAddr] })).onFc (fun c => { c with inject := some { injT with target := 5, unit := unitId 7 0 3 } })
     f.fc.inject = some { injT with target := 5, unit := unitId 7 0 3 } ∧ unitIdx (unitId 7 0 3) = 3 ∧ f.env.asked.contains 3 = true ∧
     f.env.asked.contains railAddr = true ∧ f.env.asked.contains powerAddr = true ∧ f.env.asked ≠ [] ∧ injT.target ≠ 5) ∧
    3 ≤ (fab0.onLedger (fun l => { l with flushFails := 2 })).ledger.flushFails + 1 ∧
    fab0.ledger.used + [LedgerEntry.notice 80].length ≤ 64 ∧
    (fab0.onLedger (fun l => { l with readReqs := [preq (opk 0x40A 0)] })).ledger.readReqs = [preq (opk 0x40A 0)] ∧
    (fab0.onRs (fun r => { r with boot := .ledger })).rs.boot = .ledger ∧
    (let f := fab0.onEnv (fun e => { e with asked := [3, 4] })
     f.fc.inject = none ∧ 3 ≠ railAddr ∧ 3 ≠ powerAddr ∧ f.env.asked.contains 3 = true ∧ f.env.asked.contains 4 = true ∧
     -320 ≤ (799 : BitVec 16).toInt ∧ (799 : BitVec 16).toInt < 800 ∧ -320 ≤ (BitVec.ofInt 16 (-320)).toInt) ∧
    fab0.tapOpen = false ∧
    (fab0.onKeys (fun k => { k with dbg := [(0, { chip := true, slice := 0, access := 8, owner := 7 })] })).tapOpen = true := by
  decide +kernel

def fuses0 : Fuses := { grade := 0x44, chipId := 1, mfrId := 2, enginePresent := 255, dmaPresent := 255, stackPresent := 4095, portPresent := 0xFFFFFFFF }

theorem test_witness_RestartAndStartUp :
    fab0.coresRun = true ∧ fab0.rs.l4Stage < 4 ∧ fab0.frame.switch = none ∧ fab0.frame.sync.waiting = [] ∧ fab0.fc.inject = none ∧
    fab0.inReset = false ∧ (fab0.onRs (fun r => { r with l4Stage := 5 })).coresRun = false ∧ 4 ≤ (fab0.onRs (fun r => { r with l4Stage := 5 })).rs.l4Stage ∧
    fab0.rs.restart = none ∧ fab0.atStage 6 = false ∧ fab0.rs.boot ≠ .fuses ∧ fab0.rs.boot ≠ .image ∧ fab0.atStage 5 = false ∧
    (fab0.onRs (fun r => { r with l4Stage := 5 })).atStage 5 = true ∧
    (let f := fab0.onFrame (fun x => { x with switch := some { due := 9, req := some (preq (opk 0x201 0)) } })
     f.frame.switch.isSome = true ∧ f.frame.switchNext = false ∧ (f.frame.switch.bind (·.req)).isSome = true) ∧
    (let f := fab0.onFrame (fun x => { x with fixed := some { retire := [], switch := true, amend := [], activate := [] }, switch := some { due := 1, req := none } })
     f.frame.switchNext = true ∧ f.boundaryFixed = true) ∧
    (let f := fab0.onRs (fun r => { r with firmware := digestBits (sha384 ((openRun fab0).readKeyed 4 imageAt fab0.rs.imageLen)) })
     digestBits (sha384 ((openRun f).readKeyed 4 imageAt f.rs.imageLen)) = f.rs.firmware) ∧
    digestBits (sha384 ((openRun fab0).readKeyed 4 imageAt fab0.rs.imageLen)) ≠ fab0.rs.firmware ∧
    (let f := fab0.onRs (fun r => { r with armed := true })
     f.rs.armed = true ∧ f.rs.restart = none) ∧
    (let f := fab0.onRs (fun r => { r with restart := some 0 })
     f.rs.restart = some 0 ∧ f.rs.restartLate = false ∧ f.atStage 6 = false ∧ f.rs.restart.isSome = true) ∧
    (fab0.onRs (fun r => { r with l4Stage := 6 })).atStage 6 = true ∧
    (fab0.onRs (fun r => { r with boot := .fuses })).rs.boot = .fuses ∧ fusesOk fuses0 = true ∧
    fusesOk { fuses0 with stackPresent := 0xFFFF } = false ∧ (fab0.onRs (fun r => { r with boot := .image })).rs.boot = .image ∧ 99 < 100 ∧ 100 ≤ 100 ∧
    (let f := fab0.onRs (fun r => { r with boot := .held })
     f.rs.boot = .held ∧ f.rs.powerOk = true) := by
  decide +kernel

theorem test_witness_ChipResetAndPowerCycleEvents :
    (let f := busyF.onRs (fun r => { r with l4Stage := 2, dump := { taking := some 0 } })
     f.inReset = false ∧ f.rs.dump.taking = some 0 ∧ f.atStage 2 = true) ∧
    (busyF.onRs (fun r => { r with l5Step := 2, dump := { taking := some 1 } })).rs.dump.taking = some 1 ∧
    (let f := busyF.onRs (fun r => { r with l4Stage := 3 })
     f.atStage 3 = true ∧ (f.slice 0).state = .active ∧ (f.engine 0).state ≠ .absent ∧ (f.engine 0).state ≠ .retired) ∧
    (let f := busyF.onRs (fun r => { r with l4Stage := 9, l4Sync := some (2, 1, 0) })
     f.atStage 9 = true ∧ f.rs.restart = none ∧ f.rs.l4Sync = some (2, 1, 0)) ∧
    busyF.rs.dump.taking = none ∧ busyF.atStage 3 = false ∧ busyF.atStage 9 = false ∧ (busyF.fn 1).quiesceReq = none ∧ busyF.rs.l5Drain = none ∧
    busyF.rs.l5Step ≠ 3 ∧ busyF.rs.pwrReq = false ∧ busyF.rs.l5Step ≠ 6 ∧ ((busyF.onFn 1 (fun x => { x with flr := true })).fn 1).flr = true ∧
    (let f := busyF.onRs (fun r => { r with dump := { taking := some 0 } })
     f.rs.dump.taking = some 0 ∧ f.atStage 2 = false) ∧
    (busyF.onRs (fun r => { r with dump := { taking := some 2 } })).rs.dump.taking = some 2 ∧
    (let f := busyF.onRs (fun r => { r with l5Drain := some 0, l5Step := 2 })
     f.rs.l5Drain = some 0 ∧ 2 ≤ f.rs.l5Step) ∧
    (busyF.fn 1).flr = false ∧ (busyF.fn 1).slice.isSome = true ∧ busyF.sq? 3 = some sq0 ∧ sq0.fn = 1 ∧ (busyF.fn 9).flr = false ∧ 9 ≠ 0 ∧
    (busyF.fn 9).slice = none ∧
    ((busyF.onFn 1 (fun x => { x with quiesceReq := some (preq (pf 0x604 0)) })).fn 1).quiesceReq = some (preq (pf 0x604 0)) ∧
    (let f := busyF.onRs (fun r => { r with l5Drain := some 0, l5Step := 1 })
     f.rs.l5Drain = some 0 ∧ f.rs.l5Step < 2) ∧
    (busyF.onRs (fun r => { r with l5Step := 3 })).rs.l5Step = 3 ∧
    (let f := busyF.onRs (fun r => { r with l5Step := 6, pwrReq := true })
     f.rs.pwrReq = true ∧ f.rs.acked = false ∧ f.rs.noAck = false) ∧
    (let f := busyF.onRs (fun r => { r with l5Step := 6 })
     f.rs.l5Step = 6 ∧ f.rs.pwrReq = false ∧ f.rs.acked = false) := by
  decide +kernel

theorem test_witness_AStepRunsTheFrontCommand :
    State.reset.pending = [] ∧ State.reset.fab.inReset = true ∧ (sOf fab0).pending = [] ∧ fab0.inReset = false ∧ fab0.waitingPaths = [] ∧ fab0.fc.oper = [] ∧
    (let f := fab0.onFc (fun c => { c with oper := [5, 6] })
     f.inReset = false ∧ f.waitingPaths = [] ∧ f.fc.oper = 5 :: [6]) ∧
    (let f := fab0.onFn 0 (fun x => { x with intake := [(pf 0x106 0, 0)] })
     f.nextPath.isSome = true ∧ (f.nextPath.bind (fun k => (f.takePacket k).map (fun e => packetCommand e.1))) = some (some (.sliceQuery (pf 0x106 0)))) ∧
    (let f := busyF.onFn 1 (fun x => { x with intake := [(vf 0x407 0, 5)] })
     f.nextPath = some 2 ∧ (f.takePacket 2).map (fun e => packetCommand e.1) = some (some (.ctxCancel (vf 0x407 0))) ∧ f.receipt 2 = some 5) := by
  decide +kernel

theorem test_witness_StepKeepsTheInvariant : (sOf busyF).Inv ∧ (∃ t, step (sOf busyF) = .next t) := by
  exact ⟨⟨by decide +kernel, rfl⟩, ⟨_, rfl⟩⟩

theorem test_witness_EveryCommandCompletes :
    State.reset.fab.inReset = true ∧ (∀ n, Instr.frameBoundary ≠ .fabRstNAssert n) ∧ (∀ b, Instr.frameBoundary ≠ .fabPwrOkChange b) ∧
    Instr.frameBoundary ≠ .fabRstNRelease := by
  exact ⟨rfl, fun _ => Instr.noConfusion, fun _ => Instr.noConfusion, Instr.noConfusion⟩

theorem test_witness_OperatorPacketsAreVerified :
    packetCommand (opk 0x106 0) = some (.sliceQuery (opk 0x106 0)) ∧ (opk 0x106 0).path = .mailbox 7 ∧ fab0.coresUp = true ∧
    fab0.session? 7 = some ses ∧ ses.keyLost = false ∧ (opk 0x106 0).tag = Config.gcmTag ses.key ((0x01#8 ++ 0#24) ++ 7#32 ++ (opk 0x106 0).seq)
      ((opk 0x106 0).params ++ ((opk 0x106 0).seq ++ (opk 0x106 0).sliceByte ++ (opk 0x106 0).len ++ (opk 0x106 0).opcode)) ∧
    ses.lastSeq < (opk 0x106 0).seq ∧ (sign { pf 0x106 0 with len := 0x30 }).len ≠ 0x40 ∧ fab0.session? 8 = none := by
  refine ⟨rfl, rfl, ?_, ?_, rfl, rfl, ?_, ?_, ?_⟩ <;> decide +kernel

/-- A session that has accepted SEQ 9, and kept one packet with its reply and one without. -/
def used : Session := { ses with lastSeq := 9, held := [{ seq := 5, tag := (opk 0x106 0).tag, opcode := 0x106, reply := some (rep stOk) }] }
def usedF : Fabric := { fab0 with ctl := { sessions := [used] } }

theorem test_witness_FailedPacketsChangeNothing :
    (let f := fab0.onRs (fun r => { r with restart := some 0 })
     packetCommand (pf 0x106 0) = some (.sliceQuery (pf 0x106 0)) ∧ f.inReset = false ∧ f.coresUp = false ∧ (f.fn 0).ctlRing.enable = true ∧
     (f.fn 0).waiting = []) ∧
    usedF.coresUp = true ∧ usedF.session? 7 = some used ∧ used.verifies (opk 0x106 0) = true ∧ ¬ used.lastSeq < (opk 0x106 0).seq ∧
    used.held.find? (fun h => h.seq == (opk 0x106 0).seq && h.tag == (opk 0x106 0).tag) = used.held.head? ∧
    ({ used with held := [] } : Session).held.find? (fun h => h.seq == (opk 0x106 0).seq && h.tag == (opk 0x106 0).tag) = none ∧
    (fab0.fn 9).ctlRing.enable = false ∧ fab0.hears (pf 0x106 0) = true ∧ rowCqCreate.authorised (pf 0x401 0) (fab0.taking (pf 0x401 0)) = true ∧
    rowSliceDefine.authorised (vf 0x101 0) (busyF.taking (vf 0x101 0)) = false ∧ busyF.hears (vf 0x101 0) = true ∧
    fab0.hears (pf 0x401 0) = true ∧ rowCqCreate.formOk (pf 0x401 0) (fab0.taking (pf 0x401 0)) = false ∧
    (let f := fab0.onFn 0 (fun x => { x with intake := [(pf 0x999 0, 0)] })
     f.nextPath.isSome = true ∧ (f.nextPath.bind (fun k => (f.takePacket k).map (fun e => (packetCommand e.1).isNone && e.2.hears e.1))) = some true) := by
  have hv : used.verifies (opk 0x106 0) = true := by
    unfold Session.verifies
    have : ((opk 0x106 0).tag == packetTag used.key used.id (opk 0x106 0)) = true := by rw [beq_iff_eq]; rfl
    rw [this]; rfl
  have hf : used.held.find? (fun h => h.seq == (opk 0x106 0).seq && h.tag == (opk 0x106 0).tag) = used.held.head? := by
    simp [used, ses, opk, sign, pkt]
  refine ⟨by decide +kernel, by decide +kernel, by rfl, hv, by decide +kernel, hf, rfl, ?_, ?_, ?_, ?_, ?_, ?_, ?_⟩ <;> decide +kernel

theorem test_witness_NeedOfALiveSequence : 0 < (16 : Nat) ∧ poolNeed 100 8 16 = 9 ∧ ({ perPage := 16 } : Seqn).perPage > 0 := by decide

theorem test_witness_PositionsOfTheSequence :
    (fab0.onFrame (fun g => { g with seqLen := 2 })).frame.seqPos + 1 < 2 ∧ fab0.frame.seqPos + 1 = fab0.frame.seqLen ∧
    (fab0.onFrame (fun g => { g with switch := some { due := 1, req := preq (pf 0x203 0) } })).frame.switch.isSome = true := by
  decide +kernel

/-! ### Ill-formed commands (one for each check of WellFormed) -/

/-- Every number past its range is refused: slice 64, function 256, engine 144 of 144 or more, queue 4,096, port, stack, group,
entry, regulator, fault, source, window, chip, BAR offset, access size, virtual lane and member. -/
theorem test_ill_formed_numbers_are_refused :
    [Instr.tilePlace 64, .functionLevelReset 256, .engineResetDone Config.engines, .commit 4096, .pathDelayRequest { jobUnit with port := Config.ports },
     .miRequest Config.stackCount 0 0 [], .deny ⟨syncUnit, 256⟩, .slotEnd 1024, .cleatCycle 49, .parkTimeout 0 16, .xdomainTimeout ⟨512, .other⟩,
     .linkRemoteRequest 0 0 false ⟨0, 0⟩ (2 ^ 16) 1 0 64 false, .linkRemoteRequest 0 0 false ⟨0, 0⟩ 1 1024 0 64 false,
     .registerWrite 0 (2 ^ 24) 8 0, .registerRcRead 0 0 0, .registerRcRead 0 0 9, .windowReply { jobUnit with vl := 8 } 0 0,
     .tileComplete 0 { counted := 0, stall := 0, stretch := 0 } [{ beat0 with member := 32 }], .linkRemoteRequest 0 Config.dmaEngines true ⟨0, 0⟩ 1 0 0 64 false].all
      (fun i => !i.wf) = true := by
  decide +kernel

/-- The checks of single commands refuse what lies past their fields. -/
theorem test_ill_formed_fields_are_refused :
    [Instr.mailboxPacket (pf 0x106 0), .sliceQuery (pkt (.fn 256) 0x106 0 []), .fenceWrite 0 1024 0, .ringWindowWrite 0 0 (List.replicate 4097 0),
     .descriptorBind 0 0 (some (0, 4)), .descriptorBind 0 0 (some (2 ^ 32, 0)), .regionsReport 0 8 0 0, .syncMessage syncUnit 0 (2 ^ 48) 40000, .syncMessage syncUnit 0 0 (2 ^ 18),
     .windowReply jobUnit 0 8, .miRequest 0 Config.channels 0 [], .miRequest 0 0 0 (List.replicate 257 0), .unitResponse 0 0 8,
     .linkStateChange 0 9 1 0, .linkStateChange 0 8 1 256, .readyToken ⟨syncUnit, 0⟩ { tok0 with step := 65536 }, .goToken ⟨syncUnit, 0⟩ { tok0 with step := 65536 },
     .stepAbort ⟨syncUnit, 0⟩ 65536 .path false, .chunkReceive jobUnit 0 { hdrC with step := 65536 } [] 0, .chunkAck ⟨syncUnit, 0⟩ { hdrC with step := 65536 },
     .chunkNack ⟨syncUnit, 0⟩ { hdrC with step := 65536 }, .chunkAckTimeout 0 { hdrC with step := 65536 }, .peerNoticeReceived syncUnit 0 1 0,
     .peerNoticeReceived syncUnit 5 1 0, .measurementRequest 256, .reinstatementDone [] [64], .sensorReply 128 0, .sensorNoReply 128].all
      (fun i => !i.wf) = true := by
  decide +kernel

theorem test_well_formed_commands_are_accepted :
    [Instr.sliceQuery (opk 0x106 0), .tilePlace 63, .functionLevelReset 255, .commit 4095, .slotEnd 1023, .cleatCycle 48, .xdomainTimeout ⟨511, .other⟩,
     .registerRcRead 0 0 8, .windowReply jobUnit 0 7, .peerNoticeReceived syncUnit 4 1 0].all (fun i => i.wf) = true := by
  decide +kernel

/-! ### Single steps and operations, against the spec's own numbers -/

/-- The published check value of CRC-32C, over the digits 1 to 9. -/
theorem test_crc32c_check_value : crc32c [0x31, 0x32, 0x33, 0x34, 0x35, 0x36, 0x37, 0x38, 0x39] = 0xE3069283 := by decide +kernel

/-- The first bytes of the published SHA-384 digest of the three bytes of "abc". -/
theorem test_sha384_of_abc : (sha384 [0x61, 0x62, 0x63]).take 8 = [0xcb, 0x00, 0x75, 0x3f, 0x45, 0xa3, 0x5e, 0x8b] := by decide +kernel

/-- R452: a release of FAB_RST_N starts the fabric with the fuses; before it nothing else is seen. -/
theorem test_release_starts_the_fabric :
    (match step { State.reset with pending := [.fabRstNRelease] } with | .next t => t.fab.rs.boot == .fuses && t.pending.isEmpty | _ => false) = true ∧
    (match step { State.reset with pending := [.frameBoundary] } with | .next t => t.fab.frame.frameNum == 0 | _ => false) = true := by
  decide +kernel

/-- R140, R142: a doorbell one past the end of the ring is an error, and one at its end accepts what fits. -/
theorem test_doorbell_at_the_end_of_the_ring :
    (match exec (.sqDoorbell 1 2 65) (sOf busyF) with
      | .next t => (t.fab.sq? 3).map (fun x => (x.accepted, x.dbErr)) == some (2, 1) | _ => false) = true ∧
    (match exec (.sqDoorbell 1 2 64) (sOf busyF) with
      | .next t => (t.fab.sq? 3).map (fun x => (x.accepted, x.dbErr)) == some (64, 0) | _ => false) = true := by
  decide +kernel

/-- R70: the frame number wraps at 2^48. -/
theorem test_frame_number_wraps :
    (match exec .frameBoundary (sOf (fab0.onFrame (fun g => { g with frameNum := 2 ^ 48 - 1 }))) with
      | .next t => t.fab.frame.frameNum == 0 && t.fab.now == 40000 | _ => false) = true := by
  decide +kernel

/-- R128: 100 tokens with a growth of 8 a step and 16 tokens a page need 9 pages. -/
theorem test_need_of_a_sequence : poolNeed 100 8 16 = 9 := by decide

/-- R456: offset 64 of range 0 of 256 bytes at device offset 10000H is answered with the place 10040H and 192 bytes to go. -/
theorem test_address_resolve :
    let f := runF run0 { bound0 with extents := [[{ len := 256, addr := 0x10000 }]] }
    (match exec (.addressResolve 0 64) (sOf f) with
      | .next t => (t.fab.out.head?.map (fun o => match o with | .engineXrsp _ w => ((w.extractLsb' 0 36).toNat, (w.extractLsb' 74 32).toNat) | _ => (0, 0)))
          == some (0x10040, 192) | _ => false) = true := by
  decide +kernel

end Sys2Proof.Tests
end

section
/-! SUPPORT. What one step of the machine does: the command at the front of the queue, and on an empty queue the idle step,
which accepts a packet or lets a nanosecond pass. -/

namespace Sys2Proof.Machine

/-! ### The step and the queue -/

theorem step_of_pending_cons (s : State) (c : Instr) (rest : List Instr) (h : s.pending = c :: rest) :
    step s = exec c { s with pending := rest } := by
  simp only [step, h]

theorem step_of_pending_nil (s : State) (h : s.pending = []) : step s = idle s := by
  simp only [step, h]

/-! ### The idle step: held in reset, with a packet, with none -/

theorem idle_held (s : State) (h : s.fab.inReset = true) : idle s = .next s := by
  simp only [idle, h, if_true]

theorem Fabric.nextPath_of_none_waiting (f : Fabric) (h : f.waitingPaths = []) : f.nextPath = none := by
  simp only [Fabric.nextPath, h, List.find?_nil, List.head?_nil, Option.or_none]

/-- With no packet waiting the idle step is a tick, which a fabric out of reset sees. -/
theorem idle_ticks (s : State) (h : s.fab.inReset = false) (hw : s.fab.waitingPaths = []) : idle s = s.run Fabric.tick := by
  simp [idle, h, Fabric.nextPath_of_none_waiting s.fab hw]

/-! ### Passing of time and what was driven -/

theorem Fabric.emit_fixBoundary (f : Fabric) (o : Out) : (f.emit o).fixBoundary = f.fixBoundary.emit o := by
  unfold Fabric.fixBoundary
  rw [Fabric.emit_frame]
  split <;> rfl

theorem Fabric.emit_advance (f : Fabric) (o : Out) (t : Nat) : (f.emit o).advance t = (f.advance t).emit o := by
  have h : (f.emit o).nextBoundary = f.nextBoundary := rfl
  unfold Fabric.advance
  rw [h]
  split
  · rw [Fabric.emit_fixBoundary]; rfl
  · rfl

theorem Fabric.advance_mem (f : Fabric) (t : Nat) : (f.advance t).mem = f.mem := by
  rw [Fabric.advance_eq]

/-! ### The tick (R6, R353) -/

theorem Fabric.drainOper_of_empty (f : Fabric) (h : f.fc.oper = []) : f.drainOper = f := by
  simp only [Fabric.drainOper, h]

theorem Fabric.drainOper_of_record (f : Fabric) (b : BitVec 512) (l : List (BitVec 512)) (h : f.fc.oper = b :: l) :
    f.drainOper = (f.onFc (fun c => { c with oper := l })).emit (.operatorRecord b) := by
  simp only [Fabric.drainOper, h]

theorem run_tick_of_empty (s : State) (h : s.fab.inReset = false) (ho : s.fab.fc.oper = []) :
    s.run Fabric.tick = .next (s.after (s.fab.advance (s.fab.now + 1))) := by
  refine State.run_after s _ _ [] h ?_ (Fabric.advance_mem _ _)
  calc (openRun s.fab).tick
      = (openRun s.fab).advance (s.fab.now + 1) := congrArg (·.advance (s.fab.now + 1)) (Fabric.drainOper_of_empty (openRun s.fab) ho)
    _ = openRun (s.fab.advance (s.fab.now + 1)) := openRun_advance _ _

theorem run_tick_of_record (s : State) (b : BitVec 512) (l : List (BitVec 512)) (h : s.fab.inReset = false)
    (ho : s.fab.fc.oper = b :: l) :
    s.run Fabric.tick
      = .next (s.after ((s.fab.onFc (fun c => { c with oper := l })).advance (s.fab.now + 1)) [.operatorRecord b]) := by
  refine State.run_after s _ _ [.operatorRecord b] h ?_ (Fabric.advance_mem _ _)
  calc (openRun s.fab).tick
      = ((openRun (s.fab.onFc (fun c => { c with oper := l }))).emit (.operatorRecord b)).advance (s.fab.now + 1) :=
        congrArg (·.advance (s.fab.now + 1)) (Fabric.drainOper_of_record (openRun s.fab) b l ho)
    _ = (openRun ((s.fab.onFc (fun c => { c with oper := l })).advance (s.fab.now + 1))).emit (.operatorRecord b) := by
        rw [Fabric.emit_advance, openRun_advance]

/-- Settles O53: the step is `exec` of the front command or the idle step, and the idle step stays, accepts a packet or
ticks. -/
theorem aStepRunsTheFrontCommand : Obligations.AStepRunsTheFrontCommand := by
  unfold Obligations.AStepRunsTheFrontCommand
  refine ⟨step_of_pending_cons, ?held, ?command, ?cancel, ?quiet, ?record⟩
  case held =>
    intro s hq h
    rw [step_of_pending_nil s hq, idle_held s h]
  case command =>
    intro s k p c f hq h hk ht hc hn
    rw [step_of_pending_nil s hq, idle_takes s k p f h hk ht, acceptPacket_other p _ _ c hc hn]
    rfl
  case cancel =>
    intro s k p f hq h hk ht hc
    rw [step_of_pending_nil s hq, idle_takes s k p f h hk ht, acceptPacket_cancel p p _ _ hc]
    rfl
  case quiet =>
    intro s hq h hw ho
    rw [step_of_pending_nil s hq, idle_ticks s h hw, run_tick_of_empty s h ho]
  case record =>
    intro s b l hq h hw ho
    rw [step_of_pending_nil s hq, idle_ticks s h hw, run_tick_of_record s b l h ho]

end Sys2Proof.Machine
end

section
/-! SUPPORT. The packets of a slice's life (R59 to R65): what each row of SLICE_DEFINE, SLICE_CREATE, SLICE_ACTIVATE and
SLICE_AMEND does in each state of the slice. -/

namespace Sys2Proof.Machine

/-! ### SLICE_DEFINE (R59) -/

theorem sliceDefine_of_free (f : Fabric) (p : Packet) (h : (f.slice (pslice p)).state = .free) :
    rowSliceDefine.body p (preq p) (f.during f p) = ((f.onSlice (pslice p) (fun x => { x with
      state := .defining, shadow := recSetPart 0 (pfield p 0x18 1) (pdata p), parts := ofBits 16 [pfield p 0x18 1] })).during f p, some repOk) := by
  have h' : ((f.during f p).slice (pslice p)).state = .free := h
  simp only [rowSliceDefine, h']
  rfl

theorem sliceDefine_of_defining (f : Fabric) (p : Packet) (h : (f.slice (pslice p)).state = .defining) :
    rowSliceDefine.body p (preq p) (f.during f p) = ((f.onSlice (pslice p) (fun x => { x with
      shadow := recSetPart x.shadow (pfield p 0x18 1) (pdata p), parts := x.parts ||| ofBits 16 [pfield p 0x18 1] })).during f p, some repOk) := by
  have h' : ((f.during f p).slice (pslice p)).state = .defining := h
  simp only [rowSliceDefine, h']
  rfl

theorem sliceDefine_of_amendable (f : Fabric) (p : Packet)
    (h : (f.slice (pslice p)).state = .created ∨ (f.slice (pslice p)).state = .active) (ha : (f.slice (pslice p)).amend = none) :
    rowSliceDefine.body p (preq p) (f.during f p) = ((f.onSlice (pslice p) (fun x => { x with
      amendShadow := some (recSetPart (x.amendShadow.getD x.record) (pfield p 0x18 1) (pdata p)) })).during f p, some repOk) := by
  have ha' : ((f.during f p).slice (pslice p)).amend = none := ha
  rcases h with h | h
  all_goals
    have h' : ((f.during f p).slice (pslice p)).state = _ := h
    simp only [rowSliceDefine, h', ha']
    rfl

/-- SLICE_DEFINE is refused: the slice is on its way out or in a reset, or it has an amendment pending. -/
theorem sliceDefine_refused (f : Fabric) (p : Packet)
    (h : (f.slice (pslice p)).state = .resetting ∨ (f.slice (pslice p)).state = .removing ∨ (f.slice (pslice p)).state = .whipping ∨
      (((f.slice (pslice p)).state = .created ∨ (f.slice (pslice p)).state = .active) ∧ (f.slice (pslice p)).amend.isSome = true)) :
    rowSliceDefine.body p (preq p) (f.during f p) = (f.during f p, some (rep stState)) := by
  rcases h with h | h | h | ⟨h | h, ha⟩
  case inr.inr.inr.inl | inr.inr.inr.inr =>
    have h' : ((f.during f p).slice (pslice p)).state = _ := h
    have ha' : ((f.during f p).slice (pslice p)).amend.isSome = true := ha
    simp only [rowSliceDefine, h', ha', if_true]
  all_goals
    have h' : ((f.during f p).slice (pslice p)).state = _ := h
    simp only [rowSliceDefine, h']

/-- Settles O1: SLICE_DEFINE writes one part of the shadow record or of the amendment shadow, or is refused with STATE. -/
theorem sliceDefineCollectsParts : Obligations.SliceDefineCollectsParts := by
  unfold Obligations.SliceDefineCollectsParts
  refine ⟨?free, ?defining, ?amendable, ?refused⟩
  case free => exact fun s p hp h => control_does s _ p _ _ hp (sliceDefine_of_free s.fab p h) rfl rfl rfl
  case defining => exact fun s p hp h => control_does s _ p _ _ hp (sliceDefine_of_defining s.fab p h) rfl rfl rfl
  case amendable => exact fun s p hp h ha => control_does s _ p _ _ hp (sliceDefine_of_amendable s.fab p h ha) rfl rfl rfl
  case refused => exact fun s p hp h => control_does s _ p _ _ hp (sliceDefine_refused s.fab p h) rfl rfl rfl

/-! ### SLICE_CREATE (R61, R62) -/

theorem admitCreate_during (f : Fabric) (p : Packet) (k : Nat) : (f.during f p).admitCreate k = f.admitCreate k := rfl

theorem sliceCreate_admitted (f : Fabric) (p : Packet) (h : (f.slice (pslice p)).state = .defining)
    (ha : f.admitCreate (pslice p) = none) :
    rowSliceCreate.body p (preq p) (f.during f p) =
      ((((f.onSlice (pslice p) (fun x => freshSlice x.shadow ((f.keyBaseFor (recMemKeys (f.slice (pslice p)).shadow)).getD 8))).fillCaps
        (pslice p)).onCleat (fun c => { c with freed := [] })).during f p,
        some (repOk [(0x20, 1, 2), (0x22, 2, (f.keyBaseFor (recMemKeys (f.slice (pslice p)).shadow)).getD 8)])) := by
  have h' : ((f.during f p).slice (pslice p)).state = .defining := h
  simp only [rowSliceCreate, h', admitCreate_during, ha, bne_self_eq_false, Bool.false_eq_true, if_false]
  rfl

theorem sliceCreate_names_check (f : Fabric) (p : Packet) (n : Nat) (h : (f.slice (pslice p)).state = .defining)
    (ha : f.admitCreate (pslice p) = some n) :
    rowSliceCreate.body p (preq p) (f.during f p) = (f.during f p, some (repCheck n)) := by
  have h' : ((f.during f p).slice (pslice p)).state = .defining := h
  simp only [rowSliceCreate, h', admitCreate_during, ha, bne_self_eq_false, Bool.false_eq_true, if_false]

theorem sliceCreate_refused (f : Fabric) (p : Packet) (h : (f.slice (pslice p)).state ≠ .defining) :
    rowSliceCreate.body p (preq p) (f.during f p) = (f.during f p, some (rep stState)) := by
  have h' : ((f.during f p).slice (pslice p)).state ≠ .defining := h
  simp only [rowSliceCreate, bne_iff_ne.mpr h', if_true]

/-- Settles O2: SLICE_CREATE admits the shadow record, names the failed check, or is refused with STATE. -/
theorem sliceCreateAdmitsOrNamesTheCheck : Obligations.SliceCreateAdmitsOrNamesTheCheck := by
  unfold Obligations.SliceCreateAdmitsOrNamesTheCheck
  refine ⟨?admitted, ?fails, ?refused⟩
  case admitted => exact fun s p hp h ha => control_does s _ p _ _ hp (sliceCreate_admitted s.fab p h ha) rfl rfl rfl
  case fails => exact fun s p n hp h ha => control_does s _ p _ _ hp (sliceCreate_names_check s.fab p n h ha) rfl rfl rfl
  case refused => exact fun s p hp h => control_does s _ p _ _ hp (sliceCreate_refused s.fab p h) rfl rfl rfl

/-! ### SLICE_ACTIVATE and SLICE_AMEND (R63 to R65) -/

theorem sliceActivate_waits (f : Fabric) (p : Packet) (h : (f.slice (pslice p)).state = .created)
    (ha : (f.slice (pslice p)).activate = none) :
    rowSliceActivate.body p (preq p) (f.during f p) =
      ((f.onSlice (pslice p) (fun x => { x with activate := some (preq p, 64) })).during f p, none) := by
  have h' : ((f.during f p).slice (pslice p)).state = .created := h
  have ha' : ((f.during f p).slice (pslice p)).activate = none := ha
  simp only [rowSliceActivate, h', ha', bne_self_eq_false, Option.isSome_none, Bool.or_self, Bool.false_eq_true, if_false]
  rfl

theorem sliceActivate_refused (f : Fabric) (p : Packet)
    (h : (f.slice (pslice p)).state ≠ .created ∨ (f.slice (pslice p)).activate.isSome = true) :
    rowSliceActivate.body p (preq p) (f.during f p) = (f.during f p, some (rep stState)) := by
  have h' : (((f.during f p).slice (pslice p)).state != .created || ((f.during f p).slice (pslice p)).activate.isSome) = true := by
    rw [Bool.or_eq_true, bne_iff_ne]
    exact h
  simp only [rowSliceActivate, h', if_true]

/-- A slice may be amended: it is CREATED or ACTIVE and no amendment is pending. -/
def Slice.amendable (x : Slice) : Bool := (x.state == .created || x.state == .active) && x.amend.isNone

theorem amendable_iff (x : Slice) : x.amendable = true ↔ (x.state = .created ∨ x.state = .active) ∧ x.amend = none := by
  simp only [Slice.amendable, Bool.and_eq_true, Bool.or_eq_true, beq_iff_eq, Option.isNone_iff_eq_none]

theorem amend_guard_of_amendable (x : Slice) (h : x.amendable = true) :
    (!(x.state == .created || x.state == .active) || x.amend.isSome) = false := by
  rw [← Option.not_isNone, ← Bool.not_and]
  exact congrArg (!·) h

theorem amend_guard_of_not_amendable (x : Slice) (h : x.amendable = false) :
    (!(x.state == .created || x.state == .active) || x.amend.isSome) = true := by
  rw [← Option.not_isNone, ← Bool.not_and]
  exact congrArg (!·) h

theorem sliceAmend_waits (f : Fabric) (p : Packet) (h : (f.slice (pslice p)).amendable = true)
    (hn : f.admitAmend (pslice p) ((f.slice (pslice p)).amendShadow.getD (f.slice (pslice p)).record) = none) :
    rowSliceAmend.body p (preq p) (f.during f p) = ((f.onSlice (pslice p) (fun x =>
      { x with amend := some (preq p), amendShadow := none,
               amendRec := f.amendTo x.record ((f.slice (pslice p)).amendShadow.getD (f.slice (pslice p)).record) })).during f p, none) := by
  have hn' : (f.during f p).admitAmend (pslice p)
      (((f.during f p).slice (pslice p)).amendShadow.getD ((f.during f p).slice (pslice p)).record) = none := hn
  simp only [rowSliceAmend, amend_guard_of_amendable ((f.during f p).slice (pslice p)) h, Bool.false_eq_true, if_false, hn']
  rfl

theorem sliceAmend_names_check (f : Fabric) (p : Packet) (n : Nat) (h : (f.slice (pslice p)).amendable = true)
    (hn : f.admitAmend (pslice p) ((f.slice (pslice p)).amendShadow.getD (f.slice (pslice p)).record) = some n) :
    rowSliceAmend.body p (preq p) (f.during f p) = (f.during f p, some (repCheck n)) := by
  have hn' : (f.during f p).admitAmend (pslice p)
      (((f.during f p).slice (pslice p)).amendShadow.getD ((f.during f p).slice (pslice p)).record) = some n := hn
  simp only [rowSliceAmend, amend_guard_of_amendable ((f.during f p).slice (pslice p)) h, Bool.false_eq_true, if_false, hn']

theorem sliceAmend_refused (f : Fabric) (p : Packet) (h : (f.slice (pslice p)).amendable = false) :
    rowSliceAmend.body p (preq p) (f.during f p) = (f.during f p, some (rep stState)) := by
  simp only [rowSliceAmend, amend_guard_of_not_amendable ((f.during f p).slice (pslice p)) h, if_true]

/-- Settles O3: SLICE_ACTIVATE and SLICE_AMEND wait for a boundary, name the failed check, or are refused with STATE. -/
theorem sliceActivateAndAmendWaitForABoundary : Obligations.SliceActivateAndAmendWaitForABoundary := by
  unfold Obligations.SliceActivateAndAmendWaitForABoundary
  refine ⟨?activate, ?amend, ?fails, ?notActivated, ?notAmended⟩
  case activate => exact fun s p hp h ha => control_defers s _ p _ hp (sliceActivate_waits s.fab p h ha) rfl
  case amend =>
    exact fun s p hp h ha hn => control_defers s _ p _ hp (sliceAmend_waits s.fab p ((amendable_iff _).mpr ⟨h, ha⟩) hn) rfl
  case fails =>
    exact fun s p n hp h ha hn => control_does s _ p _ _ hp (sliceAmend_names_check s.fab p n ((amendable_iff _).mpr ⟨h, ha⟩) hn) rfl rfl rfl
  case notActivated => exact fun s p hp h => control_does s _ p _ _ hp (sliceActivate_refused s.fab p h) rfl rfl rfl
  case notAmended =>
    intro s p hp h
    have hb : (s.fab.slice (pslice p)).amendable = false := by
      rw [Bool.eq_false_iff, ne_eq, amendable_iff]
      rintro ⟨hs, ha⟩
      rcases h with ⟨h1, h2⟩ | h
      · exact hs.elim h1 h2
      · rw [ha] at h; exact absurd h (by decide)
    exact control_does s _ p _ _ hp (sliceAmend_refused s.fab p hb) rfl rfl rfl

end Sys2Proof.Machine
end

section
/-! SUPPORT. SLICE_DESTROY (R59, R332, R333): what its row does in each state of the slice, and where it takes a slice that nothing
else holds back. -/

namespace Sys2Proof.Machine

/-! ### What its row does in each state -/

/-- A packet whose reply falls due later ends with its row's effect. -/
theorem control_ends (s : State) (row : Row) (p : Packet) (g : Fabric) (h : s.fab.passes row p = true)
    (hb : row.body p (preq p) (s.fab.taking p) = (g, none)) : s.run (control row p) = .next (s.ends g) := by
  rw [control_passes s row p h]
  simp only [Row.effect, hb, State.ends]

theorem slice_taking (f : Fabric) (p : Packet) (k : Nat) : (f.taking p).slice k = f.slice k := by
  rw [taking_eq]; rfl

/-- What a removal asked for by a packet starts from: the slice keeps the request, the key port is asked to zero its keys, and what was
pending on it is answered. -/
def Fabric.askRemoval (f : Fabric) (p : Packet) : Fabric :=
  ((f.markRemoval (pslice p) (pfield p 0x18 1 == 1) (some (preq p))).askKey keyZero (pslice p)).abortPending (pslice p)

theorem sliceDestroy_of_defining (f : Fabric) (p : Packet) (h : (f.slice (pslice p)).state = .defining) :
    rowSliceDestroy.body p (preq p) (f.during f p) = ((f.onSlice (pslice p) (fun _ => {})).during f p, some repOk) := by
  have h' : ((f.during f p).slice (pslice p)).state = .defining := h
  simp only [rowSliceDestroy, h']
  rfl

theorem sliceDestroy_of_created (f : Fabric) (p : Packet) (h : (f.slice (pslice p)).state = .created) :
    rowSliceDestroy.body p (preq p) f =
      ((((((f.askRemoval p).dropCau (fun j => j.slice == pslice p)).cutSlice (pslice p)).enterWhipping (pslice p)).onEnv
        (fun e => { e with frozen := true })).settle, none) := by
  simp only [rowSliceDestroy, h]
  rfl

theorem sliceDestroy_of_running (f : Fabric) (p : Packet)
    (h : (f.slice (pslice p)).state = .active ∨ (f.slice (pslice p)).state = .resetting) :
    rowSliceDestroy.body p (preq p) f =
      (((f.askRemoval p).startRemoval (pslice p)).onEnv (fun e => { e with frozen := true }), none) := by
  rcases h with h | h
  all_goals
    simp only [rowSliceDestroy, h]
    rfl

theorem sliceDestroy_refused (f : Fabric) (p : Packet) (h : (f.slice (pslice p)).state = .free ∨
    (f.slice (pslice p)).state = .removing ∨ (f.slice (pslice p)).state = .whipping) :
    rowSliceDestroy.body p (preq p) (f.during f p) = (f.during f p, some (rep stState)) := by
  rcases h with h | h | h
  all_goals
    have h' : ((f.during f p).slice (pslice p)).state = _ := h
    simp only [rowSliceDestroy, h']

/-! ### A reply adds outputs and takes none away -/

theorem Grows.emit (f : Fabric) (o : Out) : Grows f (f.emit o) := ⟨⟨[o], rfl⟩, Nat.le_refl _, ⟨[], (List.append_nil _).symm⟩⟩

theorem settleDisable_grows (f : Fabric) (n : Nat) : Grows f (f.settleDisable n) := by
  unfold Fabric.settleDisable
  split
  · exact Grows.onFn f n _
  · exact .refl f

theorem sendReply_grows (f : Fabric) (q : Req) (r : Reply) (dup hw : Bool) : Grows f (f.sendReply q r dup hw) := by
  unfold Fabric.sendReply
  cases q.path with
  | mailbox id =>
    simp only
    split
    · split
      · exact .emit f _
      · exact (Grows.emit f _).trans (.same rfl rfl)
    · exact .emit f _
  | fn n =>
    simp only
    split
    · exact .refl f
    · split
      · exact ((hostWrite_gains f _ _ _).1.trans (Grows.onFn _ n _)).trans (irq_grows _ _ _)
      · exact Grows.onFn f n _

theorem finishReply_grows (f : Fabric) (q : Req) (r : Reply) : Grows f (f.finishReply q r) := by
  unfold Fabric.finishReply
  cases q.path with
  | mailbox id => exact (sendReply_grows f q r false false).trans (.same rfl rfl)
  | fn n => exact (sendReply_grows f q r false false).trans (settleDisable_grows _ n)

theorem reply_grows (f : Fabric) (q : Req) (r : Reply) : Grows f (f.reply q r) := by
  unfold Fabric.reply Fabric.answer
  split
  · split
    · refine Grows.trans ?_ (finishReply_grows _ q r)
      exact .same rfl rfl
    · exact .same rfl rfl
  · exact .refl f

/-! ### A slice that nothing else holds back -/

theorem slice_onSlice_self (f : Fabric) (k : Nat) (g : Slice → Slice) : (f.onSlice k g).slice k = g (f.slice k) :=
  Tab.getD_upd_self _ _ _ _

theorem quiet_onSlice (f : Fabric) (k : Nat) (g : Slice → Slice) (hg : ∀ x, (g x).tu.faults = x.tu.faults) :
    (f.onSlice k g).quiet = f.quiet := by
  unfold Fabric.quiet
  simp only [Fabric.onSlice_frame, Fabric.onSlice_splice, Fabric.onSlice_belay, Fabric.onSlice_rs, Fabric.onSlice_fns, Fabric.onSlice_sqs,
    Fabric.onSlice_slices, Fabric.onSlice_keys]
  rw [tab_all_upd f.slices k {} g (fun x => x.tu.faults.isEmpty) rfl (fun x => by rw [hg])]

/-- Nothing holds a removal of slice `k` back: it has no engine and no queue, the fabric runs nothing, has no group, no import and no
search, and nothing else is due. -/
structure Fabric.Unhindered (k : Nat) (f : Fabric) : Prop where
  noEngineSet : (f.slice k).engineSet = []
  noQueue : f.queuesOf (fun x => x.slice == k) = []
  noEngine : f.engines = []
  noGroup : f.splice.groups = []
  noImport : f.keys.imports = []
  noHang : f.rs.hangs = []
  quiet : f.quiet = true

theorem Fabric.Unhindered.onSlice {k : Nat} {f : Fabric} (h : f.Unhindered k) (u : Slice → Slice)
    (hu : ∀ x, (u x).tu.faults = x.tu.faults) (he : ∀ x, (u x).engineSet = x.engineSet) : (f.onSlice k u).Unhindered k :=
  ⟨by rw [slice_onSlice_self, he]; exact h.noEngineSet, h.noQueue, h.noEngine, h.noGroup, h.noImport, h.noHang,
    (quiet_onSlice f k u hu).trans h.quiet⟩

theorem Fabric.Unhindered.emit {k : Nat} {f : Fabric} (h : f.Unhindered k) (o : Out) : (f.emit o).Unhindered k :=
  ⟨h.noEngineSet, h.noQueue, h.noEngine, h.noGroup, h.noImport, h.noHang, h.quiet⟩

theorem Fabric.Unhindered.taking {k : Nat} {f : Fabric} (h : f.Unhindered k) (p : Packet) : (f.taking p).Unhindered k := by
  rw [taking_eq]
  exact ⟨h.noEngineSet, h.noQueue, h.noEngine, h.noGroup, h.noImport, h.noHang, h.quiet⟩

/-- Slice `k` stands in state `st` and phase `ph` with its removal asked for by `d`, its keys are asked to be zeroed, and nothing holds
the removal back. -/
structure Fabric.Departs (k : Nat) (st : SliceState) (ph : Nat) (d : Option Req) (f : Fabric) : Prop extends f.Unhindered k where
  state : (f.slice k).state = st
  phase : (f.slice k).phase = ph
  destroy : (f.slice k).destroy = d
  asked : Out.keyPort keyZero k 0 ∈ f.out

namespace Fabric.Departs

variable {k : Nat} {st : SliceState} {ph : Nat} {d : Option Req} {f g : Fabric}

/-- Only what the removal looks at matters. -/
theorem congr (h : f.Departs k st ph d) (ho : ∃ l, g.out = f.out ++ l) (hquiet : g.quiet = f.quiet) (hs : g.slices = f.slices)
    (hq : g.sqs = f.sqs) (he : g.engines = f.engines) (hg : g.splice.groups = f.splice.groups)
    (hi : g.keys.imports = f.keys.imports) (hh : g.rs.hangs = f.rs.hangs) : g.Departs k st ph d := by
  have hk : g.slice k = f.slice k := by unfold Fabric.slice; rw [hs]
  obtain ⟨l, ho⟩ := ho
  have hqs : g.queuesOf (fun x => x.slice == k) = [] := by
    unfold Fabric.queuesOf
    rw [hq]
    exact h.noQueue
  exact ⟨⟨hk ▸ h.noEngineSet, hqs, he ▸ h.noEngine, hg ▸ h.noGroup, hi ▸ h.noImport, hh ▸ h.noHang, hquiet ▸ h.quiet⟩,
    hk ▸ h.state, hk ▸ h.phase, hk ▸ h.destroy, ho ▸ List.mem_append_left l h.asked⟩

/-- An update of the slice that leaves its engines and its faults alone. -/
theorem onSlice {st' : SliceState} {ph' : Nat} {d' : Option Req} (h : f.Departs k st ph d) (u : Slice → Slice)
    (hs : (u (f.slice k)).state = st') (hp : (u (f.slice k)).phase = ph') (hd : (u (f.slice k)).destroy = d')
    (hu : ∀ x, (u x).tu.faults = x.tu.faults := by intro _; rfl) (he : ∀ x, (u x).engineSet = x.engineSet := by intro _; rfl) :
    (f.onSlice k u).Departs k st' ph' d' := by
  have hk := slice_onSlice_self f k u
  exact ⟨h.toUnhindered.onSlice u hu he, by rw [hk, hs], by rw [hk, hp], by rw [hk, hd], h.asked⟩

/-- An update of the slice that leaves alone all that the removal looks at. -/
theorem edit (h : f.Departs k st ph d) (u : Slice → Slice) (hs : ∀ x, (u x).state = x.state := by intro _; rfl)
    (hp : ∀ x, (u x).phase = x.phase := by intro _; rfl) (hd : ∀ x, (u x).destroy = x.destroy := by intro _; rfl)
    (hu : ∀ x, (u x).tu.faults = x.tu.faults := by intro _; rfl) (he : ∀ x, (u x).engineSet = x.engineSet := by intro _; rfl) :
    (f.onSlice k u).Departs k st ph d :=
  h.onSlice u ((hs _).trans h.state) ((hp _).trans h.phase) ((hd _).trans h.destroy) hu he

theorem foldl {α : Type} {l : List α} {u : Fabric → α → Fabric} (h : f.Departs k st ph d)
    (hu : ∀ (f : Fabric) (a : α), f.Departs k st ph d → (u f a).Departs k st ph d) : (l.foldl u f).Departs k st ph d := by
  induction l generalizing f with
  | nil => exact h
  | cons a l ih => exact ih (hu f a h)

/-- A pass over what the slice has not. -/
theorem skip {α : Type} {l : List α} {u : Fabric → α → Fabric} (h : f.Departs k st ph d) (hl : f.Departs k st ph d → l = []) :
    (l.foldl u f).Departs k st ph d := by
  rw [hl h]
  exact h

theorem slice_ne (h : f.Departs k st ph d) (e : Nat × Sq) (he : e ∈ f.sqs) : e.2.slice ≠ k := by
  have hf := List.map_eq_nil_iff.mp h.noQueue
  simpa using List.filter_eq_nil_iff.mp hf e he

theorem descsOf_nil (h : f.Departs k st ph d) : f.descsOf k = [] := by
  unfold Fabric.descsOf
  rw [List.flatMap_eq_nil_iff]
  exact fun e he => if_neg (h.slice_ne e he)

theorem reply (h : f.Departs k st ph d) (q : Req) (r : Reply) : (f.reply q r).Departs k st ph d := by
  have e := unreplied_reply f q r
  exact h.congr (reply_grows f q r).out (quiet_reply f q r) (congrArg Fabric.slices e :) (congrArg Fabric.sqs e :)
    (congrArg Fabric.engines e :) (congrArg (fun x : Fabric => x.splice.groups) e :) (congrArg (fun x : Fabric => x.keys.imports) e :)
    (congrArg (fun x : Fabric => x.rs.hangs) e :)

theorem replyOpt (h : f.Departs k st ph d) (q : Option Req) (r : Reply) : (f.replyOpt q r).Departs k st ph d := by
  cases q with
  | none => exact h
  | some q => exact h.reply q r

/-- Updates of parts that a removal does not look at. -/
theorem same (h : f.Departs k st ph d) (ho : g.out = f.out := by rfl) (hquiet : g.quiet = f.quiet := by rfl)
    (hs : g.slices = f.slices := by rfl) (hq : g.sqs = f.sqs := by rfl) (he : g.engines = f.engines := by rfl)
    (hg : g.splice.groups = f.splice.groups := by rfl) (hi : g.keys.imports = f.keys.imports := by rfl)
    (hh : g.rs.hangs = f.rs.hangs := by rfl) : g.Departs k st ph d :=
  h.congr ⟨[], by rw [ho, List.append_nil]⟩ hquiet hs hq he hg hi hh

theorem settle (h : f.Departs k st ph d) : f.settle.Departs k st ph d := by
  rw [settle_quiet f h.quiet]
  exact h

/-! #### Jobs of the arithmetic unit -/

theorem offerReads (h : f.Departs k st ph d) (s cls : Nat) (l : List Extent) (n : Option Nat) :
    (f.offerReads s cls l n).Departs k st ph d := by
  unfold Fabric.offerReads
  refine h.foldl (fun f e hf => ?_)
  split
  · exact hf
  · exact hf.foldl (fun f u hf => hf.same)

theorem assignLanes (h : f.Departs k st ph d) (n : Nat) : (f.assignLanes n).Departs k st ph d := by
  induction n generalizing f with
  | zero => exact h
  | succ n ih =>
    unfold Fabric.assignLanes
    split
    · refine ih (same (f := if _ then _ else _) ?_)
      split
      · exact h
      · exact h.offerReads _ _ _ _
    · split
      · exact ih h.same
      · exact h

theorem dropCau (h : f.Departs k st ph d) (p : Job → Bool) : (f.dropCau p).Departs k st ph d :=
  assignLanes (same h) 12

/-! #### What the removal does in turn -/

/-- Answers to what was pending on the slice (R339). -/
theorem abortPending (h : f.Departs k st ph d) : (f.abortPending k).Departs k st ph d := by
  unfold Fabric.abortPending
  extract_lets x qs gone cleared activated amended asked queues windows groups unmapped forgotten
  have hcleared : cleared.Departs k st ph d := h.edit _
  have hactivated : activated.Departs k st ph d := by
    unfold activated
    split
    · exact hcleared.reply _ _
    · exact hcleared
  have hasked : asked.Departs k st ph d := foldl (hactivated.replyOpt _ _) (fun f r hf => hf.reply r _)
  have hqueues : queues.Departs k st ph d := hasked.skip (fun _ => h.noQueue)
  have hwindows : windows.Departs k st ph d := hqueues.foldl (fun f w hf => replyOpt (same hf) _ _)
  have hgroups : groups.Departs k st ph d := hwindows.skip (fun h => by rw [h.noGroup]; rfl)
  have hunmapped : unmapped.Departs k st ph d := by
    refine hgroups.foldl (fun f m hf => ?_)
    split
    · exact hf.reply _ _
    · exact hf
  exact foldl (hunmapped.edit _) (fun f i hf => hf.reply i.req _)

theorem stopImports (h : f.Departs k st ph d) (p : Import → Bool) : (f.stopImports p).Departs k st ph d := by
  unfold Fabric.stopImports
  rw [h.noImport]
  exact h

theorem breakGroups (h : f.Departs k st ph d) (p : Group → Bool) : (f.breakGroups p).Departs k st ph d :=
  h.skip (fun h => by rw [h.noGroup]; rfl)

/-- An update of the replica sets that leaves their results alone. -/
theorem editReplicas (h : f.Departs k st ph d) (u : Nat → Replica → Replica) (hu : ∀ n r, (u n r).result = r.result) :
    ({ f with belay := { f.belay with replicas := f.belay.replicas.each u } } : Fabric).Departs k st ph d := by
  refine h.same (hquiet := ?_)
  unfold Fabric.quiet Tab.each
  simp only [List.all_map, Function.comp_def, hu]

/-- An update of the key slots that leaves the imports alone. -/
theorem editKeys (h : f.Departs k st ph d) (u : Keys → Keys) (hu : ∀ x, (u x).imports = x.imports) : (f.onKeys u).Departs k st ph d := by
  refine h.same (hquiet := ?_) (hi := hu _)
  unfold Fabric.quiet
  rw [Fabric.onKeys_keys, hu]
  rfl

theorem editCleat (h : f.Departs k st ph d) (u : Cleat → Cleat) : (f.onCleat u).Departs k st ph d := h.same

theorem editWindows (h : f.Departs k st ph d) (l : Tab Window) : ({ f with windows := l } : Fabric).Departs k st ph d := h.same

theorem editRemotes (h : f.Departs k st ph d) (l : Tab RemoteReq) : ({ f with remotes := l } : Fabric).Departs k st ph d := h.same

/-- What the slice loses at the acceptance (R335). -/
theorem cutSlice (h : f.Departs k st ph d) : (f.cutSlice k).Departs k st ph d := by
  unfold Fabric.cutSlice
  extract_lets stopped windows broken belay replicas remotes stays asked waiting answered links
  have hbroken : broken.Departs k st ph d := breakGroups (editWindows (stopImports h _) _) _
  have hreplicas : replicas.Departs k st ph d := editReplicas hbroken _ (fun _ _ => rfl)
  have hremotes : remotes.Departs k st ph d := editRemotes hreplicas _
  have hanswered : answered.Departs k st ph d := foldl (editCleat hremotes _) (fun f u hf => hf.replyOpt _ _)
  have hlinks : links.Departs k st ph d := foldl hanswered (fun f n hf => hf.editKeys _ (fun _ => rfl))
  exact editKeys hlinks _ (fun _ => rfl)

theorem closeDebug (h : f.Departs k st ph d) (p : Debug → Bool) : (f.closeDebug p).Departs k st ph d := by
  have hdbg := h.editKeys (fun k => { k with dbg := k.dbg.filter (fun d => !p d.2) }) (fun _ => rfl)
  unfold Fabric.closeDebug Fabric.lockTap
  split
  · exact hdbg
  · exact hdbg.same

theorem clearStores (h : f.Departs k st ph d) : (f.clearStores k).Departs k st ph d :=
  same (h.skip (fun h => h.descsOf_nil))

/-- The slice enters WHIPPING with nothing to scrub (R332, R336). -/
theorem enterWhipping (h : f.Departs k st ph d) : (f.enterWhipping k).Departs k .whipping 3 d := by
  unfold Fabric.enterWhipping
  extract_lets engs whipping wiped cleared
  have hwhipping : whipping.Departs k .whipping 3 d := h.onSlice _ rfl rfl h.destroy
  have hwiped : wiped.Departs k .whipping 3 d := same (hwhipping.closeDebug _)
  have hcleared : cleared.Departs k .whipping 3 d :=
    clearStores (edit hwiped _)
  exact hcleared.skip (fun _ => by rw [show engs = [].filter _ from congrArg (List.filter _) h.noEngineSet]; rfl)

/-- The removal begins with nothing to cut off (R333). -/
theorem startRemoval (h : f.Departs k st ph d) : (f.startRemoval k).Departs k .removing 1 d := by
  unfold Fabric.startRemoval
  extract_lets removing timers quit withdrawn untested ended preempted jobs
  have hremoving : removing.Departs k .removing 1 d := h.onSlice _ rfl rfl h.destroy
  have hquit : quit.Departs k .removing 1 d := skip (same hremoving) (fun h => by rw [h.noHang]; rfl)
  have hwithdrawn : withdrawn.Departs k .removing 1 d := skip hquit (fun h => by rw [h.noEngine]; rfl)
  have huntested : untested.Departs k .removing 1 d := skip hwithdrawn (fun h => h.noEngineSet)
  have hended : ended.Departs k .removing 1 d := skip huntested (fun h => h.descsOf_nil)
  have hpreempted : preempted.Departs k .removing 1 d := skip hended (fun h => by unfold Fabric.enginesRunning; rw [h.noEngine]; rfl)
  exact (hpreempted.dropCau _).cutSlice.settle

theorem freezeEnv (h : f.Departs k st ph d) : (f.onEnv (fun e => { e with frozen := true })).Departs k st ph d := h.same

/-- An update of a slice that nothing holds back, which asks the key port to zero the slice's keys. -/
theorem askZero (h : f.Unhindered k) (u : Slice → Slice) (hu : ∀ x, (u x).tu.faults = x.tu.faults)
    (he : ∀ x, (u x).engineSet = x.engineSet) (hs : (u (f.slice k)).state = st) (hp : (u (f.slice k)).phase = ph)
    (hd : (u (f.slice k)).destroy = d) : ((f.onSlice k u).askKey keyZero k).Departs k st ph d := by
  have hk : ((f.onSlice k u).askKey keyZero k).slice k = u (f.slice k) := slice_onSlice_self f k u
  exact ⟨(h.onSlice u hu he).emit _, by rw [hk, hs], by rw [hk, hp], by rw [hk, hd], List.mem_append_right _ (List.mem_singleton.mpr rfl)⟩

/-- A removal of a slice that nothing holds back keeps what it was asked, and asks the key port. -/
theorem markRemoval (h : f.Unhindered k) (zero : Bool) :
    ((f.markRemoval k zero d).askKey keyZero k).Departs k (f.slice k).state (f.slice k).phase d :=
  askZero h _ (fun _ => rfl) (fun _ => rfl) rfl rfl rfl

end Fabric.Departs

/-- A command that ends with a slice on its way out and the environment frozen. -/
theorem ends_departs (s : State) (k : Nat) (st : SliceState) (ph : Nat) (d : Option Req) (f : Fabric) (h : f.Departs k st ph d)
    (hz : f.env.frozen = true) :
    (s.ends f).fab.env.frozen = true ∧ ((s.ends f).fab.slice k).state = st ∧ ((s.ends f).fab.slice k).phase = ph ∧
      ((s.ends f).fab.slice k).destroy = d ∧ .keyPort keyZero k 0 ∈ driven s (s.ends f) := by
  refine ⟨hz, h.state, h.phase, h.destroy, ?_⟩
  rw [State.ends, driven_close]
  exact h.asked

/-- Settles O15: SLICE_DESTROY frees a DEFINING slice, whips a CREATED one, removes an ACTIVE or RESETTING one, and is refused
otherwise. -/
theorem sliceDestroyFreesOrRemoves : Obligations.SliceDestroyFreesOrRemoves := by
  unfold Obligations.SliceDestroyFreesOrRemoves
  refine ⟨?defining, ?removal, ?refused⟩
  case defining => exact fun s p hp h => control_does s _ p _ _ hp (sliceDestroy_of_defining s.fab p h) rfl rfl rfl
  case refused => exact fun s p hp h => control_does s _ p _ _ hp (sliceDestroy_refused s.fab p h) rfl rfl rfl
  case removal =>
    intro s p k st f hp hk hst hf
    subst hk hst
    have hf : f = (s.fab.taking p).askRemoval p := hf
    have created (h : (s.fab.slice (pslice p)).state = .created) := control_ends s _ p _ hp
      (sliceDestroy_of_created (s.fab.taking p) p (by rw [slice_taking]; exact h))
    have running (h : (s.fab.slice (pslice p)).state = .active ∨ (s.fab.slice (pslice p)).state = .resetting) := control_ends s _ p _ hp
      (sliceDestroy_of_running (s.fab.taking p) p (by rw [slice_taking]; exact h))
    rw [← hf] at created running
    refine ⟨created, running, fun hes hq he hg hi hh hquiet hst => ?_⟩
    have asked : f.Departs (pslice p) (s.fab.slice (pslice p)).state (s.fab.slice (pslice p)).phase (some (preq p)) := by
      rw [hf, ← slice_taking s.fab p]
      exact .abortPending (.markRemoval (.taking ⟨hes, hq, he, hg, hi, hh, hquiet⟩ p) _)
    rcases hst with hst | hst
    · have whipping := ((asked.dropCau (fun j => j.slice == pslice p)).cutSlice.enterWhipping).freezeEnv
      refine ⟨_, created hst, ?_⟩
      rw [settle_quiet _ whipping.quiet, if_pos hst, if_pos hst]
      exact ends_departs s _ _ _ _ _ whipping rfl
    · have ne : (s.fab.slice (pslice p)).state ≠ .created := by
        rcases hst with h | h <;> rw [h] <;> decide
      refine ⟨_, running hst, ?_⟩
      rw [if_neg ne, if_neg ne]
      exact ends_departs s _ _ _ _ _ asked.startRemoval.freezeEnv rfl

end Sys2Proof.Machine
end

section
/-! SUPPORT. The frame boundary (R70, R102, R384) and what waits for one: a trim (R102), the end of a wait for an activation (R63), and
the end of a watch (R254). -/

namespace Sys2Proof.Machine

/-! ### Raising a record touches the fault collector alone (R346) -/

theorem consume_eq (f : Fabric) : f.consume = { f with fc := f.consume.fc } := by
  unfold Fabric.consume
  split <;> rfl

/-- Where only the fault collector differs, it still does after an update of it. -/
theorem eq_with_fc {f g : Fabric} (h : g = { f with fc := g.fc }) (c : Fc) : ({ g with fc := c } : Fabric) = { f with fc := c } :=
  congrArg (fun x : Fabric => { x with fc := c }) h

theorem markInjected_eq (f : Fabric) (r : FRec) : (f.markInjected r).2 = { f with fc := (f.markInjected r).2.fc } := by
  unfold Fabric.markInjected
  extract_lets g
  have hg : g = { f with fc := g.fc } := by
    unfold g
    split
    · split
      · exact consume_eq f
      · rfl
    · rfl
  split
  · exact eq_with_fc hg _
  · exact hg

theorem raise_eq (f : Fabric) (r : FRec) : f.raise r = { f with fc := (f.raise r).fc } := by
  unfold Fabric.raise
  extract_lets m r' g
  have hg : g = { f with fc := g.fc } := markInjected_eq f _
  split
  · split
    · exact eq_with_fc hg _
    · exact eq_with_fc hg _
  · exact eq_with_fc hg _

theorem openRun_consume (f : Fabric) : (openRun f).consume = openRun f.consume := by
  unfold Fabric.consume
  rw [show (openRun f).fc = f.fc from rfl]
  split <;> rfl

theorem openRun_markInjected (f : Fabric) (r : FRec) :
    (openRun f).markInjected r = ((f.markInjected r).1, openRun (f.markInjected r).2) := by
  unfold Fabric.markInjected
  extract_lets g h
  have hg : g = openRun h := by
    unfold g h
    rw [show (openRun f).fc = f.fc from rfl, openRun_consume]
    split
    · split <;> rfl
    · rfl
  rw [hg, show (openRun h).fc = h.fc from rfl]
  split <;> rfl

/-- A record that a command raises is the record that the fabric it finds would raise. -/
theorem openRun_raise (f : Fabric) (r : FRec) : (openRun f).raise r = openRun (f.raise r) := by
  unfold Fabric.raise
  rw [show stampSensors (openRun f) { r with time := (openRun f).now } = stampSensors f { r with time := f.now } from rfl,
    openRun_markInjected]
  extract_lets m r' g m' r'' g'
  rw [show g.fc = g'.fc from rfl]
  split
  · split <;> rfl
  · rfl

/-! ### Passing of time up to a boundary -/

/-- Time passes, and the outcomes of the next boundary may be fixed; the frame changes in nothing else. -/
theorem advance_frame (f : Fabric) (t : Nat) :
    (f.advance t).frame = { f.frame with time := max f.frame.time t, fixed := (f.advance t).frame.fixed } := by
  unfold Fabric.advance Fabric.fixBoundary
  split
  · split <;> rfl
  · rfl

/-- Time passes: nothing changes but the frame, and in it the time and what is fixed. -/
theorem advance_eq_time (f : Fabric) (t : Nat) :
    f.advance t = { f with frame := { f.frame with time := max f.frame.time t, fixed := (f.advance t).frame.fixed } } :=
  (Fabric.advance_eq f t).trans (congrArg (fun fr : Frame => { f with frame := fr }) (advance_frame f t))

/-- At a boundary its outcomes are fixed. -/
theorem advance_nextBoundary_fixed (f : Fabric) : (f.advance f.nextBoundary).frame.fixed = f.fixBoundary.frame.fixed := by
  unfold Fabric.advance
  rw [if_pos (Nat.le_add_right _ _)]
  rfl

theorem fixBoundary_fixed (f : Fabric) : ∃ fx, f.fixBoundary.frame.fixed = some fx := by
  unfold Fabric.fixBoundary
  split
  · exact Option.isSome_iff_exists.mp ‹_›
  · exact ⟨_, rfl⟩

theorem advance_now (f : Fabric) (t : Nat) : (f.advance t).now = max f.now t := congrArg Frame.time (advance_frame f t)

/-! ### A new frame (R70) -/

theorem endSlack_eq (f : Fabric) (p : Nat × Nat) :
    f.endSlack p = { f with slices := (f.endSlack p).slices, frame := { f.frame with slackRun := (f.endSlack p).frame.slackRun } } := by
  unfold Fabric.endSlack
  split <;> rfl

theorem foldl_endSlack_eq (l : List (Nat × Nat)) (f : Fabric) :
    l.foldl Fabric.endSlack f = { f with
      slices := (l.foldl Fabric.endSlack f).slices
      frame := { f.frame with slackRun := (l.foldl Fabric.endSlack f).frame.slackRun } } := by
  induction l generalizing f with
  | nil => rfl
  | cons p l ih => rw [List.foldl_cons, ih, endSlack_eq]

/-- The frame that begins: the figures of the one that ended are gone, and nothing is fixed for its own end yet. -/
def Frame.begin (fr : Frame) : Frame :=
  { fr with time := max fr.time (fr.boundaryAt + fr.periodNs), frameNum := (fr.frameNum + 1) % 2 ^ 48,
            seqPos := (fr.seqPos + 1) % max 1 fr.seqLen, boundaryAt := fr.boundaryAt + fr.periodNs,
            begun := [], ended := [], slackRun := [], slackSeen := [], closed := [], fixed := none }

/-- A new frame changes the frame, the slack that its slices held back, and the tests that waited for it. -/
theorem beginFrame_eq (f : Fabric) : f.beginFrame = { f with
    frame := f.frame.begin, slices := f.beginFrame.slices, engines := f.engines.each (fun _ e => { e with testHeld := false }) } := by
  unfold Fabric.beginFrame
  extract_lets t g h
  have hg : g = { f with frame := { f.frame with time := max f.frame.time t, fixed := g.frame.fixed } } := advance_eq_time f t
  have hh : h = { g with slices := h.slices, frame := { g.frame with slackRun := h.frame.slackRun } } := foldl_endSlack_eq _ g
  rw [hh, hg]
  rfl

/-- The count of a frame without a message changes the alignment of the frame, and may raise a record (R75, R78). -/
theorem countMissed_eq (f : Fabric) :
    f.countMissed = { f with frame := { f.frame with sync := f.countMissed.frame.sync }, fc := f.countMissed.fc } := by
  unfold Fabric.countMissed
  extract_lets y g
  have hg : g = { f with frame := { f.frame with sync := g.frame.sync }, fc := g.fc } := by
    unfold g
    split
    · unfold Fabric.missMessage Fabric.unlock Fabric.raiseCentral
      extract_lets n h was k
      split
      · split
        · rw [raise_eq]
          rfl
        · rfl
      · rfl
    · rfl
  rw [hg]
  rfl

/-- The frame that begins after a frame whose messages are counted. -/
theorem countMissed_beginFrame_frame (f : Fabric) :
    f.countMissed.beginFrame.frame = { f.frame.begin with sync := f.countMissed.frame.sync } := by
  rw [beginFrame_eq, countMissed_eq]
  rfl

theorem countMissed_beginFrame_engines (f : Fabric) :
    f.countMissed.beginFrame.engines = f.engines.each (fun _ e => { e with testHeld := false }) := by
  rw [beginFrame_eq, countMissed_eq]

/-- What a new frame leaves as it was. -/
theorem countMissed_beginFrame_keeps (f : Fabric) :
    { f.countMissed.beginFrame with frame := {}, fc := {}, slices := [], engines := [] } =
      ({ f with frame := {}, fc := {}, slices := [], engines := [] } : Fabric) := by
  rw [beginFrame_eq, countMissed_eq]

/-! ### What a boundary runs -/

/-- The fabric at its next boundary, before the actions that follow. -/
def Fabric.newFrame (f : Fabric) : Fabric := (f.advance f.nextBoundary).countMissed.beginFrame

theorem newFrame_keeps (f : Fabric) : { f.newFrame with frame := {}, fc := {}, slices := [], engines := [] } =
    ({ f with frame := {}, fc := {}, slices := [], engines := [] } : Fabric) := by
  rw [Fabric.newFrame, countMissed_beginFrame_keeps, advance_eq_time]

theorem newFrame_rs (f : Fabric) : f.newFrame.rs = f.rs := (congrArg Fabric.rs (newFrame_keeps f) :)

/-- A boundary whose outcomes are `fx`: the actions of R70, those of a frozen chip, or the end of an L4 and then the actions (R384). -/
theorem boundary_eq (f : Fabric) (fx : Fixed) (h : f.fixBoundary.frame.fixed = some fx) :
    f.boundary = if f.rs.frozen = false then f.newFrame.boundaryActions fx
      else if f.newFrame.atStage 10 = true then f.newFrame.endL4.boundaryActions fx else f.newFrame.frozenActions fx := by
  unfold Fabric.boundary
  extract_lets g fx' b
  have hfx : fx' = fx := by
    unfold fx' g
    rw [advance_nextBoundary_fixed, h]
    rfl
  have hb : b = f.newFrame := rfl
  rw [hfx, hb, newFrame_rs]
  by_cases hz : f.rs.frozen = false
  · rw [if_pos hz, if_neg (Bool.eq_false_iff.mp hz)]
  · rw [if_neg hz, if_pos (eq_true_of_ne_false hz)]

theorem openRun_fixed (f : Fabric) : (openRun f).fixBoundary.frame.fixed = f.fixBoundary.frame.fixed := by
  rw [openRun_fixBoundary]
  rfl

theorem run_boundary (s : State) (fx : Fixed) (h : s.fab.inReset = false) (hfx : s.fab.fixBoundary.frame.fixed = some fx) :
    s.run Fabric.boundary = .next (s.ends (if s.fab.rs.frozen = false then (openRun s.fab).newFrame.boundaryActions fx
      else if (openRun s.fab).newFrame.atStage 10 = true then (openRun s.fab).newFrame.endL4.boundaryActions fx
      else (openRun s.fab).newFrame.frozenActions fx)) := by
  rw [State.run_eq s _ h, boundary_eq (openRun s.fab) fx ((openRun_fixed s.fab).trans hfx)]
  rfl

/-! ### The boundary of a frozen chip (R384) -/

/-- What no action of a frozen chip's boundary touches: the time and the number of the frame, a pending switch, the queues, the tags and
the memory. -/
def Fabric.standing (f : Fabric) : (Nat × Nat × Nat × Option Switch) × Tab Sq × Tab Tag × List Host.Cell × List MemOp :=
  ((f.frame.time, f.frame.frameNum, f.frame.boundaryAt, f.frame.switch), f.sqs, f.tags, f.mem, f.writes)

theorem foldl_standing {α : Type} (l : List α) (u : Fabric → α → Fabric) (h : ∀ f a, (u f a).standing = f.standing) (f : Fabric) :
    (l.foldl u f).standing = f.standing := by
  induction l generalizing f with
  | nil => rfl
  | cons a l ih => rw [List.foldl_cons, ih, h]

theorem each_standing (l : List Nat) (u : Nat → Fabric → Fabric) (h : ∀ k f, (u k f).standing = f.standing) (f : Fabric) :
    (f.each l u).standing = f.standing := foldl_standing l _ (fun f k => h k f) f

theorem raise_standing (f : Fabric) (r : FRec) : (f.raise r).standing = f.standing := by
  rw [raise_eq]
  rfl

theorem trimDue_standing (f : Fabric) : f.trimDue.standing = f.standing := by
  refine each_standing _ _ (fun i f => ?_) f
  unfold Fabric.trimEntry
  extract_lets t k note set
  split
  · exact raise_standing _ _
  · split
    · exact raise_standing _ _
    · rfl

theorem updateCaps_standing (f : Fabric) (k : Nat) : (f.updateCaps k).standing = f.standing := by
  unfold Fabric.updateCaps
  extract_lets x body g
  split
  · rfl
  · split
    · rfl
    · exact raise_standing _ _

theorem watchDue_standing (f : Fabric) : f.watchDue.standing = f.standing := by
  refine each_standing _ _ (fun k f => ?_) f
  unfold Fabric.exitWatch
  split <;> rfl

theorem chipDue_standing (f : Fabric) : f.chipDue.standing = f.standing := by
  unfold Fabric.chipDue
  split <;> rfl

theorem sendPort_standing (f : Fabric) (p : Nat) (m : LinkMsg) : (f.sendPort p m).standing = f.standing := by
  unfold Fabric.sendPort
  split <;> rfl

theorem syncDue_standing (f : Fabric) : f.syncDue.standing = f.standing := by
  unfold Fabric.syncDue
  extract_lets y
  split
  · exact sendPort_standing _ _ _
  · rfl
  · rfl

theorem dropDue_standing (f : Fabric) (p : Nat) : (f.dropDue p).standing = f.standing := raise_standing _ _

theorem clearMarks_standing (f : Fabric) : f.clearMarks.standing = f.standing := rfl

/-- With no retirement in progress, the boundary of a frozen chip leaves what stands as it is. -/
theorem frozenActions_standing (f : Fabric) (fx : Fixed) (h : f.units.retiring = []) : (f.frozenActions fx).standing = f.standing := by
  unfold Fabric.frozenActions
  extract_lets retired trimmed synced
  have hretired : retired = f := by
    unfold retired Fabric.retireDue
    rw [h]
    rfl
  have htrimmed : trimmed.standing = f.standing := by
    unfold trimmed
    rw [hretired]
    split
    · rw [each_standing _ _ (fun k f => updateCaps_standing f k), trimDue_standing]
    · rfl
  have hsynced : synced.standing = f.standing := by
    unfold synced
    rw [syncDue_standing, chipDue_standing, watchDue_standing, htrimmed]
  rw [clearMarks_standing, each_standing _ _ (fun p f => dropDue_standing f p), hsynced]

/-- What a new frame makes of what stands: the frame's number and its times advance, and nothing else changes. -/
theorem newFrame_standing (f : Fabric) : f.newFrame.standing =
    ((max f.now f.nextBoundary, (f.frame.frameNum + 1) % 2 ^ 48, f.nextBoundary, f.frame.switch), f.sqs, f.tags, f.mem, f.writes) := by
  unfold Fabric.newFrame
  rw [beginFrame_eq, countMissed_eq, advance_eq_time]
  simp only [Fabric.standing, Frame.begin, Fabric.now, Fabric.nextBoundary, Prod.mk.injEq, and_true]
  omega

/-- What stands after a command whose effect ends as a new frame does. -/
theorem ends_of_newFrame_standing (s : State) (g : Fabric) (h : g.standing = (openRun s.fab).newFrame.standing) :
    (s.ends g).fab.frame.frameNum = (s.fab.frame.frameNum + 1) % 2 ^ 48 ∧ (s.ends g).fab.now = max s.fab.now s.fab.nextBoundary ∧
      (s.ends g).fab.frame.boundaryAt = s.fab.nextBoundary ∧ (s.ends g).fab.frame.switch = s.fab.frame.switch ∧
      (s.ends g).fab.sqs = s.fab.sqs ∧ (s.ends g).fab.tags = s.fab.tags ∧ (s.ends g).fab.mem = s.fab.mem := by
  rw [newFrame_standing] at h
  simp only [Fabric.standing, Prod.mk.injEq] at h
  obtain ⟨⟨htime, hnum, hat, hswitch⟩, hsqs, htags, _, hwrites⟩ := h
  refine ⟨hnum, htime, hat, hswitch, hsqs, htags, ?_⟩
  rw [State.ends, closeRun_mem, hwrites]
  rfl

theorem newFrame_atStage (f : Fabric) (n : Nat) (h : f.rs.l4Stage ≠ n) : f.newFrame.atStage n = false := by
  unfold Fabric.atStage
  rw [newFrame_rs, beq_false_of_ne h]
  rfl

theorem newFrame_retiring (f : Fabric) : f.newFrame.units.retiring = f.units.retiring :=
  (congrArg (fun x : Fabric => x.units.retiring) (newFrame_keeps f) :)

/-- The boundary of a frozen chip, where no L4 ends at it, runs only its own actions. -/
theorem run_frozen_boundary (s : State) (fx : Fixed) (h : s.fab.inReset = false) (hfx : s.fab.fixBoundary.frame.fixed = some fx)
    (hz : s.fab.rs.frozen = true) (hl : s.fab.rs.l4Stage ≠ 10) :
    s.run Fabric.boundary = .next (s.ends ((openRun s.fab).newFrame.frozenActions fx)) := by
  rw [run_boundary s fx h hfx, if_neg (Bool.not_eq_false _ ▸ hz), if_neg (Bool.eq_false_iff.mp (newFrame_atStage (openRun s.fab) 10 hl))]

/-! ### Trims (R102) -/

/-- A command that writes nothing and drives nothing. -/
theorem run_silent (s : State) (x : Fabric → Fabric) (f : Fabric) (h : s.fab.inReset = false) (hx : x (openRun s.fab) = openRun f)
    (hm : f.mem = s.fab.mem) : s.run x = .next (s.after f) := State.run_after s x f [] h hx hm

/-- The note about a step of an entry's trim. -/
def Fabric.trimNote (f : Fabric) (i : Nat) (cause : BitVec 16) (steps : Nat) : FRec :=
  { source := srcFs, unit := centralUnit srcFs, cause := cause, owners := [entSlice (bankEntry f.frame.bank i)], syndrome := syn3 i steps 0 }

/-- The fabric with a trim of an entry set, and its note raised. -/
def Fabric.setTrim (f : Fabric) (i : Nat) (t : Trim) (cause : BitVec 16) : Fabric :=
  (f.onFrame (fun fr => { fr with trims := fr.trims.put i t })).raise (f.trimNote i cause t.steps)

theorem trimEntry_of_tooLate (f : Fabric) (i : Nat) (t : Trim) (ht : f.frame.trims.getD i {} = t) (h : t.tooLate = true) :
    f.trimEntry i = f.setTrim i { steps := t.steps + 1 } 0x0505 := by
  simp only [Fabric.trimEntry, ht, h, if_true]
  rfl

theorem trimEntry_of_recovered (f : Fabric) (i : Nat) (t : Trim) (ht : f.frame.trims.getD i {} = t) (h : t.tooLate = false)
    (hr : t.recovered = true) : f.trimEntry i = f.setTrim i { t with steps := t.steps - 1, clean := 0 } 0x0506 := by
  simp only [Fabric.trimEntry, ht, h, hr, Bool.false_eq_true, if_false, if_true]
  rfl

theorem trimEntry_of_not_due (f : Fabric) (i : Nat) (t : Trim) (ht : f.frame.trims.getD i {} = t) (h : t.tooLate = false)
    (hr : t.recovered = false) : f.trimEntry i = f := by
  simp only [Fabric.trimEntry, ht, h, hr, Bool.false_eq_true, if_false]

theorem openRun_setTrim (f : Fabric) (i : Nat) (t : Trim) (cause : BitVec 16) :
    (openRun f).setTrim i t cause = openRun (f.setTrim i t cause) := by
  rw [Fabric.setTrim, Fabric.setTrim, ← openRun_raise]
  rfl

theorem setTrim_mem (f : Fabric) (i : Nat) (t : Trim) (cause : BitVec 16) : (f.setTrim i t cause).mem = f.mem := by
  rw [Fabric.setTrim, raise_eq]
  rfl

theorem openRun_advance_trims (f : Fabric) (t : Nat) : (openRun (f.advance t)).frame.trims = f.frame.trims :=
  (congrArg Frame.trims (advance_frame f t) :)

theorem advance_setTrim (f : Fabric) (t i : Nat) (x : Trim) (cause : BitVec 16) :
    (f.advance t).setTrim i x cause =
      ((f.advance t).onFrame (fun fr => { fr with trims := fr.trims.put i x })).raise (f.trimNote i cause x.steps) := by
  have h : (f.advance t).trimNote i cause x.steps = f.trimNote i cause x.steps := by
    unfold Fabric.trimNote
    rw [advance_frame]
    rfl
  rw [Fabric.setTrim, h]

/-- A trim that may be due looks at its entry at the next boundary. -/
theorem openRun_trimAtBoundary (f : Fabric) (i : Nat) (hz : f.rs.frozen = false) (hs : f.frame.switchNext = false) :
    (openRun f).trimAtBoundary i = (openRun (f.advance f.nextBoundary)).trimEntry i := by
  rw [← openRun_advance]
  unfold Fabric.trimAtBoundary
  rw [show (openRun f).rs = f.rs from rfl, show (openRun f).frame = f.frame from rfl, hz, hs]
  rfl

theorem run_slotTrim_sets (s : State) (i : Nat) (x : Trim) (cause : BitVec 16) (h : s.fab.inReset = false) (hz : s.fab.rs.frozen = false)
    (hs : s.fab.frame.switchNext = false)
    (hx : (openRun (s.fab.advance s.fab.nextBoundary)).trimEntry i = (openRun (s.fab.advance s.fab.nextBoundary)).setTrim i x cause) :
    s.run (fun f => f.trimAtBoundary i) = .next (s.after (((s.fab.advance s.fab.nextBoundary).onFrame
      (fun fr => { fr with trims := fr.trims.put i x })).raise (s.fab.trimNote i cause x.steps))) := by
  rw [← advance_setTrim]
  refine run_silent s _ _ h ?_ ((setTrim_mem _ _ _ _).trans (Fabric.advance_mem _ _))
  rw [openRun_trimAtBoundary s.fab i hz hs, hx, openRun_setTrim]

theorem run_slotTrim_idle (s : State) (i : Nat) (h : s.fab.inReset = false) (hz : s.fab.rs.frozen = false)
    (hs : s.fab.frame.switchNext = false) (hl : (s.fab.frame.trims.getD i {}).tooLate = false)
    (hr : (s.fab.frame.trims.getD i {}).recovered = false) :
    s.run (fun f => f.trimAtBoundary i) = .next (s.after (s.fab.advance s.fab.nextBoundary)) := by
  refine run_silent s _ _ h ?_ (Fabric.advance_mem _ _)
  rw [openRun_trimAtBoundary s.fab i hz hs]
  exact trimEntry_of_not_due _ i _ (congrArg (Tab.getD · i {}) (openRun_advance_trims _ _)) hl hr

theorem run_slotTrim_none (s : State) (i : Nat) (h : s.fab.inReset = false)
    (hz : s.fab.rs.frozen = true ∨ s.fab.frame.switchNext = true) :
    s.run (fun f => f.trimAtBoundary i) = .next (s.after s.fab) := by
  refine run_silent s _ _ h ?_ rfl
  unfold Fabric.trimAtBoundary
  exact if_pos (Bool.or_eq_true _ _ ▸ hz)

/-! ### The end of a wait for an activation (R63) -/

theorem activateLate_times_out (f : Fabric) (k n : Nat) (q : Req) (hz : f.rs.frozen = false) (ha : (f.slice k).activate = some (q, n))
    (hn : n ≤ 1) (hc : ∀ fx, f.fixBoundary.frame.fixed = some fx → fx.activate.contains k = false) :
    f.activateLate k = ((f.advance f.nextBoundary).onSlice k (fun x => { x with activate := none })).reply q (rep stTimeout) := by
  obtain ⟨fx, hfx⟩ := fixBoundary_fixed f
  have ha' : ((f.advance f.nextBoundary).slice k).activate = some (q, n) := by rw [Fabric.advance_eq]; exact ha
  have hn' : ¬ 1 < n := Nat.not_lt.mpr hn
  simp only [Fabric.activateLate, ha, hz, hn', decide_false, Bool.or_self, Bool.false_eq_true, if_false, advance_nextBoundary_fixed, hfx,
    Option.map_some, Option.getD_some, hc fx hfx, Fabric.awaitActive, ha', hn, if_true]

theorem activateLate_activates (f : Fabric) (k n : Nat) (q : Req) (fx : Fixed) (hz : f.rs.frozen = false)
    (ha : (f.slice k).activate = some (q, n)) (hn : n ≤ 1) (hfx : f.fixBoundary.frame.fixed = some fx) (hc : fx.activate.contains k = true) :
    f.activateLate k = f.advance f.nextBoundary := by
  have hn' : ¬ 1 < n := Nat.not_lt.mpr hn
  simp only [Fabric.activateLate, ha, hz, hn', decide_false, Bool.or_self, Bool.false_eq_true, if_false, advance_nextBoundary_fixed, hfx,
    Option.map_some, Option.getD_some, hc, if_true]

theorem activateLate_early (f : Fabric) (k : Nat)
    (h : f.rs.frozen = true ∨ ∀ q n, (f.slice k).activate = some (q, n) → 1 < n) : f.activateLate k = f := by
  unfold Fabric.activateLate
  split
  · next q n ha =>
    refine if_pos ?_
    rw [Bool.or_eq_true, decide_eq_true_eq]
    exact h.imp_right (fun h => h q n ha)
  · rfl

theorem run_activateLate_times_out (s : State) (k n : Nat) (q : Req) (h : s.fab.inReset = false) (hz : s.fab.rs.frozen = false)
    (ha : (s.fab.slice k).activate = some (q, n)) (hn : n ≤ 1)
    (hc : ∀ fx, s.fab.fixBoundary.frame.fixed = some fx → fx.activate.contains k = false) :
    s.run (fun f => f.activateLate k) = .next (s.ends ((((openRun s.fab).advance s.fab.nextBoundary).onSlice k
      (fun x => { x with activate := none })).reply q (rep stTimeout))) := by
  rw [State.run_eq s _ h, activateLate_times_out (openRun s.fab) k n q hz ha hn (fun fx hfx => hc fx ((openRun_fixed s.fab).symm.trans hfx))]
  rfl

theorem run_activateLate_activates (s : State) (k n : Nat) (q : Req) (fx : Fixed) (h : s.fab.inReset = false)
    (hz : s.fab.rs.frozen = false) (ha : (s.fab.slice k).activate = some (q, n)) (hn : n ≤ 1)
    (hfx : s.fab.fixBoundary.frame.fixed = some fx) (hc : fx.activate.contains k = true) :
    s.run (fun f => f.activateLate k) = .next (s.after (s.fab.advance s.fab.nextBoundary)) := by
  refine run_silent s _ _ h ?_ (Fabric.advance_mem _ _)
  exact (activateLate_activates (openRun s.fab) k n q fx hz ha hn ((openRun_fixed s.fab).trans hfx) hc).trans (openRun_advance _ _)

theorem run_activateLate_early (s : State) (k : Nat) (h : s.fab.inReset = false)
    (hw : s.fab.rs.frozen = true ∨ ∀ q n, (s.fab.slice k).activate = some (q, n) → 1 < n) :
    s.run (fun f => f.activateLate k) = .next (s.after s.fab) :=
  run_silent s _ _ h (activateLate_early (openRun s.fab) k hw) rfl

/-! ### The end of a watch (R254) -/

theorem watchExit_of_done (f : Fabric) (k : Nat) (hz : f.rs.frozen = false) (hd : (f.belay.watch.getD k {}).done f.nextBoundary = true)
    (hn : f.now ≤ f.nextBoundary) : f.watchExit k = (f.advance f.nextBoundary).unwatch k := by
  have hnow : (f.advance f.nextBoundary).now = f.nextBoundary := by rw [advance_now, Nat.max_eq_right hn]
  have hd' : ((f.advance f.nextBoundary).belay.watch.getD k {}).done (f.advance f.nextBoundary).now = true := by
    rw [hnow, Fabric.advance_eq]
    exact hd
  simp only [Fabric.watchExit, hz, hd, Fabric.exitWatch, hd', Bool.not_true, Bool.or_self, Bool.false_eq_true, if_false, if_true]

theorem watchExit_early (f : Fabric) (k : Nat)
    (h : f.rs.frozen = true ∨ (f.belay.watch.getD k {}).done f.nextBoundary = false) : f.watchExit k = f := by
  unfold Fabric.watchExit
  refine if_pos ?_
  rw [Bool.or_eq_true, Bool.not_eq_true']
  exact h

theorem isWatched_unwatch_self (f : Fabric) (k : Nat) : (f.unwatch k).isWatched k = false := by
  unfold Fabric.isWatched Fabric.unwatch Tab.getD
  rw [Tab.find_onKey]
  cases f.belay.watch.find k <;> rfl

theorem isWatched_unwatch_other (f : Fabric) (k j : Nat) (h : j ≠ k) : (f.unwatch k).isWatched j = f.isWatched j := by
  unfold Fabric.isWatched Fabric.unwatch Tab.getD
  rw [Tab.find_onKey_other _ _ _ _ h]

theorem run_watchExit (s : State) (k : Nat) (w : Watch) (h : s.fab.inReset = false) (hz : s.fab.rs.frozen = false)
    (hw : s.fab.belay.watch.find k = some w) (hd : w.done s.fab.nextBoundary = true) (hn : s.fab.now ≤ s.fab.nextBoundary) :
    s.run (fun f => f.watchExit k) = .next (s.after ((s.fab.advance s.fab.nextBoundary).unwatch k)) := by
  have hd' : (s.fab.belay.watch.getD k {}).done s.fab.nextBoundary = true := by
    unfold Tab.getD
    rw [hw]
    exact hd
  refine run_silent s _ _ h ?_ (Fabric.advance_mem _ _)
  rw [watchExit_of_done (openRun s.fab) k hz hd' hn, openRun_advance]
  rfl

theorem run_watchExit_early (s : State) (k : Nat) (h : s.fab.inReset = false)
    (hw : s.fab.rs.frozen = true ∨ (s.fab.belay.watch.getD k {}).done s.fab.nextBoundary = false) :
    s.run (fun f => f.watchExit k) = .next (s.after s.fab) :=
  run_silent s _ _ h (watchExit_early (openRun s.fab) k hw) rfl

theorem advance_belay (f : Fabric) (t : Nat) : (f.advance t).belay = f.belay := (congrArg Fabric.belay (Fabric.advance_eq f t) :)
theorem advance_engines (f : Fabric) (t : Nat) : (f.advance t).engines = f.engines := (congrArg Fabric.engines (Fabric.advance_eq f t) :)
theorem advance_sqs (f : Fabric) (t : Nat) : (f.advance t).sqs = f.sqs := (congrArg Fabric.sqs (Fabric.advance_eq f t) :)

/-- A watch that ends at a boundary changes nothing but the time and the engine's own entry. -/
theorem after_unwatch_keeps (s : State) (k : Nat) (hn : s.fab.now ≤ s.fab.nextBoundary) :
    let t := s.after ((s.fab.advance s.fab.nextBoundary).unwatch k)
    t.fab.isWatched k = false ∧ t.fab.now = s.fab.nextBoundary ∧ t.fab.engines = s.fab.engines ∧ t.fab.sqs = s.fab.sqs ∧
      t.fab.mem = s.fab.mem ∧ ∀ j, j ≠ k → t.fab.isWatched j = s.fab.isWatched j := by
  refine ⟨isWatched_unwatch_self _ k, ?now, advance_engines _ _, advance_sqs _ _, Fabric.advance_mem _ _, fun j hj => ?other⟩
  case now => exact (advance_now _ _).trans (Nat.max_eq_right hn)
  case other =>
    refine (isWatched_unwatch_other _ k j hj).trans ?_
    unfold Fabric.isWatched
    rw [advance_belay]

/-- Settles O38: a boundary begins a frame and runs the actions of R70, those of a frozen chip, or the end of an L4 and then the actions;
trims, the end of a wait for an activation and the end of a watch happen at the next boundary where they are due. -/
theorem boundariesAdvanceTheFrame : Obligations.BoundariesAdvanceTheFrame := by
  unfold Obligations.BoundariesAdvanceTheFrame
  refine ⟨?boundary, ?begins, ?frozen, ?trims, ?restores, ?noTrim, ?timesOut, ?activates, ?waits, ?leaves, ?stays⟩
  case boundary =>
    intro s fx g h hfx hg
    subst hg
    exact run_boundary s fx h hfx
  case begins =>
    intro f
    rw [countMissed_beginFrame_engines, Fabric.now, countMissed_beginFrame_frame]
    exact ⟨rfl, rfl, rfl, rfl, rfl, rfl, (congrArg Fabric.sqs (countMissed_beginFrame_keeps f) :)⟩
  case frozen =>
    intro s h hz hl _ _ hr _
    obtain ⟨fx, hfx⟩ := fixBoundary_fixed s.fab
    exact ⟨_, run_frozen_boundary s fx h hfx hz hl, ends_of_newFrame_standing s _
      (frozenActions_standing _ fx ((newFrame_retiring (openRun s.fab)).trans hr))⟩
  case trims =>
    intro s i t r h hz hs ht hl hr
    subst ht hr
    exact run_slotTrim_sets s i _ 0x0505 h hz hs (trimEntry_of_tooLate _ i _ (congrArg (Tab.getD · i {}) (openRun_advance_trims _ _)) hl)
  case restores =>
    intro s i t r h hz hs ht hl hd hr
    subst ht hr
    exact run_slotTrim_sets s i _ 0x0506 h hz hs (trimEntry_of_recovered _ i _ (congrArg (Tab.getD · i {}) (openRun_advance_trims _ _)) hl hd)
  case noTrim => exact fun s i h => ⟨run_slotTrim_none s i h, run_slotTrim_idle s i h⟩
  case timesOut =>
    intro s k n q g h hz ha hn hc hg
    subst hg
    exact run_activateLate_times_out s k n q h hz ha hn hc
  case activates => exact fun s k n q fx h hz ha hn hfx hc => run_activateLate_activates s k n q fx h hz ha hn hfx hc
  case waits => exact fun s k h hw => run_activateLate_early s k h hw
  case leaves =>
    exact fun s k w h hz hw hd hn => ⟨_, run_watchExit s k w h hz hw hd hn, after_unwatch_keeps s k hn⟩
  case stays => exact fun s k h hw => run_watchExit_early s k h hw

end Sys2Proof.Machine
end

section
/-! SUPPORT. The need of a live sequence (R128): what a rounded-up quotient says of pages and tokens, and when a sequence is
low or unbacked. -/

namespace Sys2Proof.Machine

theorem ceilDiv_le_iff {a b n : Nat} (h : 0 < b) : ceilDiv a b ≤ n ↔ a ≤ n * b := by
  rw [ceilDiv, Nat.div_le_iff_le_mul h]
  omega

theorem lt_ceilDiv_iff {a b n : Nat} (h : 0 < b) : n < ceilDiv a b ↔ n * b < a := by
  rw [← Nat.not_le, ceilDiv_le_iff h, Nat.not_le]

theorem Seqn.isLow_iff (q : Seqn) : q.isLow = true ↔ q.pages.length < poolNeed q.tokens q.grow q.perPage :=
  decide_eq_true_iff

theorem Seqn.unbacked_iff (q : Seqn) : q.unbacked = true ↔ q.pages.length < ceilDiv q.tokens q.perPage :=
  decide_eq_true_iff

/-- Settles O59: the need is a rounded-up quotient, so `n` pages reach it exactly when they hold the tokens, and low and
unbacked are the failures of that. -/
theorem needOfALiveSequence : Obligations.NeedOfALiveSequence := by
  unfold Obligations.NeedOfALiveSequence
  refine ⟨?least, ?low, ?lowTokens, ?unbacked⟩
  case least => exact fun T g t ht => ⟨(ceilDiv_le_iff ht).mp (Nat.le_refl _), fun n => (ceilDiv_le_iff ht).mpr⟩
  case low => exact fun q _ => q.isLow_iff
  case lowTokens => exact fun q hq => q.isLow_iff.trans (lt_ceilDiv_iff hq)
  case unbacked => exact fun q hq => q.unbacked_iff.trans (lt_ceilDiv_iff hq)

end Sys2Proof.Machine
end

section
/-! SUPPORT. Cleat: requests at a stack agent (R309, R311, R458), the regulator's cycle and its grants (R203 to R206), responses (R206 to
R208), the width of a port (R201, R212), and the droop throttle (R213, R461). -/

namespace Sys2Proof.Machine

/-! ### What a command ends with -/

/-- A fabric out of reset ends a command with its whole effect. -/
theorem run_ends (s : State) (x : Fabric → Fabric) (h : s.fab.inReset = false) : s.run x = .next (s.ends (x (openRun s.fab))) :=
  State.run_eq s x h

theorem raise_mem (f : Fabric) (r : FRec) : (f.raise r).mem = f.mem := by rw [raise_eq]

/-- A command that only raises a record. -/
theorem run_raises (s : State) (x : Fabric → Fabric) (r : FRec) (h : s.fab.inReset = false)
    (hx : x (openRun s.fab) = (openRun s.fab).raise r) : s.run x = .next (s.after (s.fab.raise r)) :=
  run_silent s x _ h (hx.trans (openRun_raise _ _)) (raise_mem _ _)

/-- A command that raises a record and drives one output. -/
theorem run_raises_emits (s : State) (x : Fabric → Fabric) (r : FRec) (o : Out) (h : s.fab.inReset = false)
    (hx : x (openRun s.fab) = ((openRun s.fab).raise r).emit o) : s.run x = .next (s.after (s.fab.raise r) [o]) := by
  refine State.run_after s x _ [o] h ?_ (raise_mem _ _)
  rw [hx, openRun_raise]
  rfl

/-! ### Requests at a stack agent (R309, R311, R458) -/

/-- The slice's checks of a request: the slice may use memory, the sender is in its set, and the line in its extents (R458). -/
def Fabric.mayAsk (f : Fabric) (st : Nat) (q : Word) : Bool :=
  let x := f.slice (miField q 46 6)
  (x.state == .active || x.state == .resetting || x.state == .removing) &&
    (if bitAt q 0 then f.hasDma x (miField q 56 8) && decide (miField q 56 8 < 64) else x.hasEngine (miField q 56 8)) &&
    inExtent x.record st (miField q 6 30 * 64 / 256 * 256) 256

/-- The unit in which a request waits. -/
def miUnit (ch : Nat) (q : Word) (data : List Byte) (k : Option Nat) (cls : Nat) : CUnit :=
  { slice := k, cls := cls, charge := 256, write := bitAt q 36, line := miField q 6 30 * 64, chan := ch, keySlot := miField q 37 9,
    data := (data ++ List.replicate 256 0).take 256, mi := true, src := miField q 56 8 }

theorem takeMi_of_absent (f : Fabric) (st ch : Nat) (q : Word) (data : List Byte) (h : f.stackIn st = false) :
    f.takeMi st ch q data = f := by
  simp only [Fabric.takeMi, h, Bool.not_false, if_true]

theorem takeMi_of_fabric (f : Fabric) (st ch : Nat) (q : Word) (data : List Byte) (h : f.stackIn st = true) (hq : bitAt q 55 = true) :
    f.takeMi st ch q data =
      if 8 ≤ miField q 37 9 then f.refuseMi st ch none (some 3) else f.offer st (miUnit ch q data none 6) := by
  simp only [Fabric.takeMi, h, hq, Bool.not_true, Bool.false_eq_true, if_false, if_true]
  rfl

/-- A key slot that is none of the slice's (R311). -/
def Slice.foreignKey (x : Slice) (sn : Nat) : Bool := decide (sn < x.keyBase) || decide (x.keyBase + recMemKeys x.record ≤ sn)

theorem Slice.foreignKey_iff (x : Slice) (sn : Nat) : x.foreignKey sn = true ↔ sn < x.keyBase ∨ x.keyBase + recMemKeys x.record ≤ sn := by
  rw [Slice.foreignKey, Bool.or_eq_true, decide_eq_true_iff, decide_eq_true_iff]

theorem takeMi_of_slice (f : Fabric) (st ch : Nat) (q : Word) (data : List Byte) (h : f.stackIn st = true) (hq : bitAt q 55 = false) :
    f.takeMi st ch q data =
      if f.mayAsk st q = false then f.refuseMi st ch (some (miField q 46 6)) none
      else if (f.slice (miField q 46 6)).foreignKey (miField q 37 9) = true then f.refuseMi st ch (some (miField q 46 6)) (some 3)
      else f.offer st (miUnit ch q data (some (miField q 46 6)) (miField q 52 3)) := by
  simp only [Fabric.takeMi, h, hq, Bool.not_true, Bool.false_eq_true, if_false, ← Bool.not_and, Bool.not_eq_true']
  rfl

/-- The record of a refused request; it is FATAL for a foreign key slot (R311). -/
def miRefusal (st : Nat) (k base : Option Nat) : FRec :=
  { source := srcStack st, unit := unitId 3 0 st, cause := 0x0104, owners := k.toList, fabric := k.isNone, base := base }

theorem run_takeMi_refuses (s : State) (st ch : Nat) (q : Word) (data : List Byte) (k base : Option Nat) (h : s.fab.inReset = false)
    (hx : (openRun s.fab).takeMi st ch q data = (openRun s.fab).refuseMi st ch k base) :
    exec (.miRequest st ch q data) s = .next (s.after (s.fab.raise (miRefusal st k base)) [.miResponse st ch 0 2 []]) :=
  run_raises_emits s (fun f => f.takeMi st ch q data) _ _ h hx

theorem run_takeMi_offers (s : State) (st ch : Nat) (q : Word) (data : List Byte) (u : CUnit) (h : s.fab.inReset = false)
    (hx : (openRun s.fab).takeMi st ch q data = (openRun s.fab).offer st u) :
    exec (.miRequest st ch q data) s = .next (s.after (s.fab.offer st u)) :=
  run_silent s (fun f => f.takeMi st ch q data) _ h hx rfl

/-! ### The cycle and what it may grant (R203 to R206) -/

theorem regCycle_of_up (f : Fabric) (r : Nat) (h : f.regUp r = true) (hz : f.rs.frozen = false) :
    f.regCycle r = ((dirsOf r).foldl (fun f up => f.grantUnits r up (regGrants r)) ((f.refill r).shortfalls r)).present r
      (f.reg r).out.length := by
  simp only [Fabric.regCycle, h, hz, Bool.not_true, Bool.or_self, Bool.false_eq_true, if_false]

theorem regCycle_idle (f : Fabric) (r : Nat) (h : f.regUp r = false ∨ f.rs.frozen = true) : f.regCycle r = f := by
  refine if_pos ?_
  rw [Bool.or_eq_true, Bool.not_eq_true']
  exact h

/-- The host port grants in both directions, every other resource in one (R201). -/
theorem foldl_dirsOf (r : Nat) (u : Fabric → Bool → Fabric) (f : Fabric) :
    (dirsOf r).foldl u f = if regKind r = 2 then u (u f false) true else u f false := by
  unfold dirsOf
  split <;> rfl

theorem mem_insertBy {α : Type} (key : α → Nat) (x y : α) (l : List α) : y ∈ insertBy key x l ↔ y = x ∨ y ∈ l := by
  induction l with
  | nil => simp [insertBy]
  | cons z l ih =>
    unfold insertBy
    split
    · exact List.mem_cons
    · rw [List.mem_cons, ih, List.mem_cons]
      exact or_left_comm

theorem mem_sortBy {α : Type} (key : α → Nat) (y : α) (l : List α) : y ∈ sortBy key l ↔ y ∈ l := by
  suffices h : ∀ acc, y ∈ l.foldl (fun acc x => insertBy key x acc) acc ↔ y ∈ l ∨ y ∈ acc by
    rw [sortBy, h, or_iff_left List.not_mem_nil]
  induction l with
  | nil => simp
  | cons x l ih =>
    intro acc
    rw [List.foldl_cons, ih, mem_insertBy, List.mem_cons]
    exact or_left_comm.trans or_assoc.symm

/-- The checks of a path allow a unit (R205). -/
def Fabric.allows (f : Fabric) (r : Nat) (u : CUnit) (p : GPath) : Bool :=
  match p with | .min => f.minPath r u | .fab => f.fabPath r u | .rem => f.remPath r u

theorem minPath_slice (f : Fabric) (r : Nat) (u : CUnit) (h : f.minPath r u = true) : u.slice.isNone = false := by
  unfold Fabric.minPath at h
  split at h
  · next s hs => rw [hs]; rfl
  · exact absurd h Bool.false_ne_true

theorem fabPath_slice (f : Fabric) (r : Nat) (u : CUnit) (h : f.fabPath r u = true) : u.slice.isNone = true := by
  simp only [Fabric.fabPath, Bool.and_eq_true] at h
  obtain ⟨⟨⟨⟨hs, _⟩, _⟩, _⟩, _⟩ := h
  exact hs

/-- The unit whose turn it is on the remainder waits in that direction, and its path allows it. -/
theorem remTurn_allowed (f : Fabric) (r : Nat) (up : Bool) (u : CUnit) (h : f.remTurn r up = some u) :
    u ∈ (f.reg r).inAge.filter (fun u => u.up r == up && f.remPath r u) := by
  unfold Fabric.remTurn at h
  extract_lets g m l ss more next at h
  split at h
  · exact List.mem_of_find?_eq_some h
  · cases h

/-- A grant of a cycle goes to a waiting unit of that direction, on a path that allows it. -/
theorem nextGrant_allowed (f : Fabric) (r : Nat) (up : Bool) (u : CUnit) (p : GPath) (h : f.nextGrant r up = some (u, p)) :
    u ∈ (f.reg r).inAge ∧ (u.up r == up) = true ∧ f.allows r u p = true := by
  unfold Fabric.nextGrant at h
  extract_lets l at h
  have waits (v : CUnit) (hv : v ∈ l) : v ∈ (f.reg r).inAge ∧ (v.up r == up) = true := List.mem_filter.mp hv
  split at h
  · next v hv =>
    obtain ⟨rfl, rfl⟩ := Prod.mk.inj (Option.some.inj h)
    obtain ⟨hw, hu⟩ := waits v (List.mem_of_find?_eq_some hv)
    exact ⟨hw, hu, (Bool.and_eq_true _ _ ▸ List.find?_some hv).2⟩
  · split at h
    · next v hv =>
      obtain ⟨rfl, rfl⟩ := Prod.mk.inj (Option.some.inj h)
      obtain ⟨hw, hu⟩ := waits v (List.mem_of_find?_eq_some hv)
      refine ⟨hw, hu, ?_⟩
      rcases Bool.or_eq_true _ _ ▸ List.find?_some hv with hp | hp
      · rw [fabPath_slice f r v hp]
        exact hp
      · rw [minPath_slice f r v hp]
        exact hp
    · obtain ⟨v, hv, hvp⟩ := Option.map_eq_some_iff.mp h
      obtain ⟨rfl, rfl⟩ := Prod.mk.inj hvp
      obtain ⟨hw, hp⟩ := List.mem_filter.mp (remTurn_allowed f r up v hv)
      exact ⟨hw, Bool.and_eq_true _ _ ▸ hp⟩

/-! ### What a grant takes (R204 to R206) -/

/-- The regulators and the fault collector: what a granted unit leaves as it was. -/
def Fabric.regulated (f : Fabric) : Cleat × Fc := (f.cleat, f.fc)

theorem writeKeyed_regulated (f : Fabric) (slot a : Nat) (data : List Byte) : (f.writeKeyed slot a data).regulated = f.regulated := by
  unfold Fabric.writeKeyed
  split <;> rfl

theorem foldl_emit_regulated (l : List Out) (f : Fabric) : (l.foldl (fun f o => f.emit o) f).regulated = f.regulated := by
  induction l generalizing f with
  | nil => rfl
  | cons o l ih => exact ih (f.emit o)

/-- A granted unit that is no zero write of Whipping, answers no packet and carries no shadow reaches no regulator and raises no record. -/
theorem unitActs_regulated (f : Fabric) (r : Nat) (u : CUnit) (hz : u.zeros = none) (hd : u.done = none) (hs : u.shadow = none) :
    (f.unitActs r u).regulated = f.regulated := by
  unfold Fabric.unitActs
  rw [hz, hd, hs]
  extract_lets wired sent stored written shadowed stepped answered imported
  have hwired : wired.regulated = f.regulated := by
    unfold wired
    split
    · split <;> rfl
    · rfl
  have hsent : sent.regulated = f.regulated := (foldl_emit_regulated _ _).trans hwired
  have hstored : stored.regulated = f.regulated := by
    unfold stored
    split
    · exact (writeKeyed_regulated _ _ _ _).trans hsent
    · exact hsent
  have hwritten : written.regulated = f.regulated := by
    unfold written
    split
    · exact (writeKeyed_regulated _ _ _ _).trans hstored
    · exact hstored
  have hstepped : stepped.regulated = f.regulated := by
    unfold stepped
    split <;> exact hwritten
  show imported.regulated = f.regulated
  unfold imported
  split <;> exact hstepped

theorem countBytes_regulated (f : Fabric) (r : Nat) (u : CUnit) : (f.countBytes r u).regulated = f.regulated := by
  unfold Fabric.countBytes
  split <;> rfl

/-- The unit as it holds its credit: its class, its path, and the time of the grant. -/
def Fabric.credited (f : Fabric) (r : Nat) (u : CUnit) (p : GPath) : CUnit :=
  { u with cls := if p = .min ∧ f.isReal r u = true then 7 else u.cls, fromMin := p == .min, fromRem := p == .rem, grantedAt := f.now }

/-- The meters after a charge on a path (R204, R206). -/
def Meters.charge (m : Meters) (k : Option Nat) (c : Nat) (p : GPath) : Meters :=
  { m with
    min := match p, k with | .min, some s => m.min.put s (m.min.getD s 0 - c) | _, _ => m.min
    rem := if p = .min then m.rem else m.rem - c
    fab := if p = .fab then m.fab - c else m.fab }

/-- A regulator that has granted a unit. -/
def Reg.grant (g : Reg) (r : Nat) (u : CUnit) (p : GPath) : Reg :=
  { g with waiting := g.waiting.filter (fun w => w.tag != u.tag || w.arrived != u.arrived), out := g.out ++ [u] : Reg }.onDir (u.up r)
    (fun m => m.charge u.slice (u.charge * 65536) p)

theorem reg_onReg_self (f : Fabric) (r : Nat) (g : Reg → Reg) : (f.onReg r g).reg r = g (f.reg r) := Tab.getD_upd_self _ _ _ _

theorem reg_emit (f : Fabric) (o : Out) (r : Nat) : (f.emit o).reg r = f.reg r := rfl

/-- With no injection due, a grant leaves its regulator with the unit granted. -/
theorem grantUnit_reg (f : Fabric) (r : Nat) (u : CUnit) (p : GPath) (hz : u.zeros = none) (hd : u.done = none) (hs : u.shadow = none)
    (hi : u.injectBits = 0) (hf : f.fc.inject = none) : (f.grantUnit r u p).reg r = (f.reg r).grant r (f.credited r u p) p := by
  unfold Fabric.grantUnit
  extract_lets v c taken charged acted consumed
  have hacted : acted.regulated = charged.regulated :=
    (unitActs_regulated _ r v hz hd hs).trans (countBytes_regulated charged r v)
  have hconsumed : consumed = acted := if_neg (not_not_intro hi)
  have hfc : acted.fc.inject = none := (congrArg (fun x : Cleat × Fc => x.2.inject) hacted).trans hf
  have hreg : acted.reg r = charged.reg r := (congrArg (fun x : Cleat × Fc => x.1.regs.getD r {}) hacted :)
  rw [hconsumed, hfc]
  show acted.reg r = _
  rw [hreg, show charged.reg r = (fun g : Reg => g.onDir (v.up r) (fun m => m.charge v.slice c p)) (taken.reg r) from reg_onReg_self taken r _,
    show taken.reg r = _ from reg_onReg_self f r _]
  rfl

theorem Reg.onDir_dir (g : Reg) (up : Bool) (h : Meters → Meters) : (g.onDir up h).dir up = h (g.dir up) := by
  cases up <;> rfl

theorem Reg.onDir_waiting (g : Reg) (up : Bool) (h : Meters → Meters) : (g.onDir up h).waiting = g.waiting := by
  cases up <;> rfl

theorem Reg.onDir_out (g : Reg) (up : Bool) (h : Meters → Meters) : (g.onDir up h).out = g.out := by
  cases up <;> rfl

theorem Reg.grant_waiting (g : Reg) (r : Nat) (u : CUnit) (p : GPath) :
    (g.grant r u p).waiting = g.waiting.filter (fun w => w.tag != u.tag || w.arrived != u.arrived) := Reg.onDir_waiting _ _ _

theorem Reg.grant_out (g : Reg) (r : Nat) (u : CUnit) (p : GPath) : (g.grant r u p).out = g.out ++ [u] := Reg.onDir_out _ _ _

/-- A grant charges the meters of the unit's direction. -/
theorem Reg.grant_dir (g : Reg) (r : Nat) (u : CUnit) (p : GPath) :
    (g.grant r u p).dir (u.up r) = (g.dir (u.up r)).charge u.slice (u.charge * 65536) p := by
  refine (Reg.onDir_dir _ _ _).trans ?_
  cases u.up r <;> rfl

/-- Where arrival numbers name the waiting units, a grant removes the granted unit alone. -/
theorem filter_granted (l : List CUnit) (u : CUnit) (h : ∀ w ∈ l, w.arrived = u.arrived → w = u) :
    l.filter (fun w => w.tag != u.tag || w.arrived != u.arrived) = l.filter (fun w => w ≠ u) := by
  refine List.filter_congr fun w hw => ?_
  rw [Bool.eq_iff_iff, Bool.or_eq_true, bne_iff_ne, bne_iff_ne, decide_eq_true_iff]
  refine ⟨?moved, fun hne => .inr fun ha => hne (h w hw ha)⟩
  rintro hne rfl
  exact hne.elim (· rfl) (· rfl)

/-! ### Responses (R206 to R208) -/

theorem takeResponse_unawaited (f : Fabric) (r tag st : Nat)
    (h : (f.reg r).out.find? (fun w => w.tag == tag && w.answered.isNone) = none) : f.takeResponse r tag st = f.raiseReg r 0x0104 tag := by
  simp only [Fabric.takeResponse, h]

/-- A response is held for a sealed slice, but at a link port (R207). -/
def Fabric.hushed (f : Fabric) (r : Nat) (u : CUnit) : Bool :=
  match u.slice with | some s => recSealed (f.slice s).record && regKind r != 1 | none => false

/-- A response without an error: late, held until its time, or delivered. -/
theorem takeResponse_of_good (f : Fabric) (r tag st : Nat) (u : CUnit) (h1 : st ≠ 1) (h2 : st ≠ 2)
    (h : (f.reg r).out.find? (fun w => w.tag == tag && w.answered.isNone) = some u) :
    f.takeResponse r tag st = if u.grantedAt + regLat r < (f.unitData r u).2.now
      then ((f.unitData r u).2.lateResponse r u).deliverUnit r u st (f.unitData r u).1
      else if (f.unitData r u).2.hushed r u && decide ((f.unitData r u).2.now < u.grantedAt + regLat r) then
        (f.unitData r u).2.onReg r (fun g => { g with out := g.out.map (fun w => if w.tag == tag && w.arrived == u.arrived then
          { w with answered := some st, data := if w.write then w.data else (f.unitData r u).1 } else w) })
      else (f.unitData r u).2.deliverUnit r u st (f.unitData r u).1 := by
  simp only [Fabric.takeResponse, h, h1, h2, and_false, if_false]
  cases u.group <;> cases u.walk <;> rfl

/-- A response of the interconnect goes to its requester, and its credit comes back (R206, R458). -/
theorem deliverUnit_of_mi (f : Fabric) (r st : Nat) (u : CUnit) (d : List Byte) (hm : u.mi = true) (hw : u.window = none) :
    f.deliverUnit r u st d =
      (f.onReg r (fun g => { g with out := g.out.filter (fun w => w.tag != u.tag || w.arrived != u.arrived), back := g.back ++ [u] })).emit
        (.miResponse r u.chan u.tag (if st = 2 then 1 else 0) (if st = 2 then [] else d)) := by
  unfold Fabric.deliverUnit
  simp only [hm, hw, Bool.not_true, Bool.false_eq_true, if_false]
  split <;> rfl

/-- What the equalisation buffer holds leaves LAT after its grant (R207). -/
theorem run_equalise (s : State) (r tag : Nat) (h : s.fab.inReset = false) : s.run (fun f => f.equalise r tag) = .next (
    match (s.fab.reg r).out.find? (fun w => w.tag == tag && w.answered.isSome) with
    | some u => s.ends (((openRun s.fab).advance (u.grantedAt + regLat r)).deliverUnit r u (u.answered.getD 0) (if u.write then [] else u.data))
    | none => s.after s.fab) := by
  have hreg : (openRun s.fab).reg r = s.fab.reg r := rfl
  split
  · next u hu =>
    rw [run_ends s _ h]
    simp only [Fabric.equalise, hreg, hu]
  · next hu =>
    refine run_silent s _ _ h ?_ rfl
    simp only [Fabric.equalise, hreg, hu]

/-! ### The width of a port (R201, R212) -/

/-- What the link layer reports of a port: no lane and no peer, or its lanes and its peer. -/
def Fabric.setPort (f : Fabric) (p lanes peer pp : Nat) : Fabric :=
  f.onCleat (fun c => { c with lanes := c.lanes.put p lanes, peers := c.peers.put p (if lanes = 0 then (0, 0) else (peer, pp)) })

/-- The record of a port that lost lanes: all of them, or some. -/
def Fabric.narrowed (f : Fabric) (p lanes : Nat) : FRec :=
  { source := srcPort p, unit := unitId 4 0 p, cause := if lanes = 0 then 0x0805 else 0x0804, owners := f.portOwners p, fabric := true,
    syndrome := syn3 lanes (f.lanesOf p) 0 }

theorem pump_of_no_group (f : Fabric) (n : Nat) (h : f.splice.groups = []) : f.pump n = f := by
  cases n with
  | zero => rfl
  | succ n => simp only [Fabric.pump, h, Tab.keysOf, List.filter_nil, List.map_nil, List.foldl_nil, if_true]

theorem resendFrom_of_no_group (f : Fabric) (p : Nat) (h : f.splice.groups = []) : f.resendFrom p = f := by
  unfold Fabric.resendFrom Fabric.pumpAll
  rw [h]
  exact pump_of_no_group f _ h

theorem breakUnreached_of_no_group (f : Fabric) (h : f.splice.groups = []) : f.breakUnreached = f := by
  unfold Fabric.breakUnreached Fabric.breakGroups
  rw [h]
  rfl

/-- A report raises a record where the port has fewer lanes than before; then chunks move and groups break (R299, R300). -/
theorem linkChange_eq (f : Fabric) (p lanes peer pp : Nat) : f.linkChange p lanes peer pp =
    let g := if lanes < f.lanesOf p then (f.setPort p lanes peer pp).raise (f.narrowed p lanes) else f.setPort p lanes peer pp
    (if lanes = 0 then g.resendFrom p else g).breakUnreached.settle := by
  unfold Fabric.linkChange
  extract_lets old set own note noted g
  have hnoted : noted = g := by
    unfold noted g
    by_cases hless : lanes < old
    · by_cases hzero : lanes = 0
      · rw [if_pos ⟨hzero, Nat.ne_of_gt (hzero ▸ hless)⟩, if_pos hless]
        unfold Fabric.narrowed
        rw [if_pos hzero]
        rfl
      · rw [if_neg (fun h => hzero h.1), if_pos hless, if_pos hless]
        unfold Fabric.narrowed
        rw [if_neg hzero]
        rfl
    · rw [if_neg (fun h : lanes = 0 ∧ old ≠ 0 => hless (h.1 ▸ Nat.pos_of_ne_zero h.2)), if_neg hless, if_neg hless]
      rfl
  rw [hnoted]

theorem quiet_raise (f : Fabric) (r : FRec) : (f.raise r).quiet = f.quiet := by
  rw [raise_eq]
  rfl

/-- With no group and nothing due, a report is what the port's registers take and its record. -/
theorem linkChange_quiet (f : Fabric) (p lanes peer pp : Nat) (hq : f.quiet = true) (hg : f.splice.groups = []) :
    f.linkChange p lanes peer pp =
      if lanes < f.lanesOf p then (f.setPort p lanes peer pp).raise (f.narrowed p lanes) else f.setPort p lanes peer pp := by
  rw [linkChange_eq]
  extract_lets g
  have hgroups : g.splice.groups = [] := by
    unfold g
    split
    · rw [raise_eq]
      exact hg
    · exact hg
  have hquiet : g.quiet = true := by
    unfold g
    split
    · exact (quiet_raise _ _).trans hq
    · exact hq
  rw [resendFrom_of_no_group g p hgroups, ite_self, breakUnreached_of_no_group g hgroups, settle_quiet g hquiet]

theorem run_linkChange_wider (s : State) (p lanes peer pp : Nat) (h : s.fab.inReset = false) (hq : s.fab.quiet = true)
    (hg : s.fab.splice.groups = []) (hl : s.fab.lanesOf p ≤ lanes) :
    s.run (fun f => f.linkChange p lanes peer pp) = .next (s.after (s.fab.setPort p lanes peer pp)) :=
  run_silent s _ _ h ((linkChange_quiet (openRun s.fab) p lanes peer pp hq hg).trans (if_neg (Nat.not_lt.mpr hl))) rfl

theorem run_linkChange_narrower (s : State) (p lanes peer pp : Nat) (h : s.fab.inReset = false) (hq : s.fab.quiet = true)
    (hg : s.fab.splice.groups = []) (hl : lanes < s.fab.lanesOf p) :
    s.run (fun f => f.linkChange p lanes peer pp) = .next (s.after ((s.fab.setPort p lanes peer pp).raise (s.fab.narrowed p lanes))) := by
  refine run_silent s _ _ h ?_ (raise_mem _ _)
  rw [linkChange_quiet (openRun s.fab) p lanes peer pp hq hg, show (openRun s.fab).lanesOf p = s.fab.lanesOf p from rfl, if_pos hl,
    ← openRun_raise]
  rfl

/-! ### Droop (R213, R461) -/

/-- The alarm is noted as asserted, and throttles from now or from the hold that ran. -/
def Fabric.throttle (f : Fabric) : Fabric :=
  f.onCleat (fun c => { c with
    droopLow := true, droopHold := none, droopFrom := if f.cleat.droopHold.isSome then f.cleat.droopFrom else f.now
    droopEvents := satAdd 16 c.droopEvents 1, droopEventsAll := (c.droopEventsAll + 1) % 2 ^ 32, droopNoted := true })

/-- What runs is marked: an alarm stood during the run (R249). -/
def Fabric.markRuns (f : Fabric) : Fabric :=
  { f with engines := f.engines.each (fun _ e => { e with running := e.running.map (fun r => { r with excursion := true }) }) }

theorem droopOn_of_high (f : Fabric) (h : f.cleat.droopLow = false) : f.droopOn =
    if f.cleat.droopNoted then f.throttle.markRuns
    else f.throttle.markRuns.raise { source := srcTm, unit := unitId 7 0 0, cause := 0x0304, fabric := true } := by
  simp only [Fabric.droopOn, h, Bool.false_eq_true, if_false]
  rfl

theorem droopOn_of_low (f : Fabric) (h : f.cleat.droopLow = true) : f.droopOn = f := if_pos h

/-- An alarm changes the throttle and the marks of the runs, and the collector where it is not noted yet. -/
theorem droopOn_eq (f : Fabric) (h : f.cleat.droopLow = false) : f.droopOn = { f.throttle.markRuns with fc := f.droopOn.fc } := by
  rw [droopOn_of_high f h]
  split
  · rfl
  · exact raise_eq _ _

theorem droopOn_fc_of_noted (f : Fabric) (h : f.cleat.droopLow = false) (hn : f.cleat.droopNoted = true) : f.droopOn.fc = f.fc := by
  rw [droopOn_of_high f h, hn]
  rfl

theorem openRun_droopOn (f : Fabric) (h : f.cleat.droopLow = false) : (openRun f).droopOn = openRun f.droopOn := by
  rw [droopOn_of_high f h, droopOn_of_high (openRun f) h, show (openRun f).throttle.markRuns = openRun f.throttle.markRuns from rfl,
    openRun_raise, show (openRun f).cleat = f.cleat from rfl]
  split <;> rfl

theorem run_droopOn (s : State) (h : s.fab.inReset = false) (hl : s.fab.cleat.droopLow = false) :
    s.run (fun f => f.droopOn) = .next (s.after s.fab.droopOn) := by
  refine run_silent s _ _ h (openRun_droopOn s.fab hl) ?_
  rw [droopOn_eq s.fab hl]
  rfl

theorem find_each {α : Type} (t : Tab α) (g : Nat → α → α) (k : Nat) : (t.each g).find k = (t.find k).map (g k) := by
  induction t with
  | nil => rfl
  | cons e t ih =>
    obtain ⟨j, v⟩ := e
    by_cases h : j = k
    · subst h
      simp [Tab.each, Tab.find]
    · simpa [Tab.each, Tab.find, h] using ih

theorem markRuns_running (f : Fabric) (k : Nat) :
    (f.markRuns.engine k).running = (f.engine k).running.map (fun r => { r with excursion := true }) := by
  unfold Fabric.engine Fabric.markRuns Tab.getD
  rw [find_each]
  cases f.engines.find k <;> rfl

theorem droopOn_running (f : Fabric) (k : Nat) (h : f.cleat.droopLow = false) :
    (f.droopOn.engine k).running = (f.engine k).running.map (fun r => { r with excursion := true }) := by
  rw [droopOn_eq f h]
  exact markRuns_running f k

theorem openRun_droopOff (f : Fabric) : (openRun f).droopOff = openRun f.droopOff := by
  unfold Fabric.droopOff
  rw [show (openRun f).cleat = f.cleat from rfl]
  split <;> rfl

theorem droopOff_mem (f : Fabric) : f.droopOff.mem = f.mem := by
  unfold Fabric.droopOff
  split <;> rfl

theorem droopEnd_of_hold (f : Fabric) (t : Nat) (h : f.cleat.droopHold = some t) : f.droopEnd = (f.advance t).onCleat (fun c => { c with
    droopHold := none, throttleNs := c.throttleNs + (max f.now t - c.droopFrom) }) := by
  simp only [Fabric.droopEnd, h, advance_now]

theorem droopEnd_of_none (f : Fabric) (h : f.cleat.droopHold = none) : f.droopEnd = f := by
  simp only [Fabric.droopEnd, h]

/-- Settles O43: a request, a cycle, a response, a port's report and an alarm each end as the lemmas of its operation say; a granted unit
waited on a path that allows it, and its grant takes it from the queue and its charge from the meters. -/
theorem regulatorsPortWidthAndDroop : Obligations.RegulatorsPortWidthAndDroop := by
  unfold Obligations.RegulatorsPortWidthAndDroop
  refine ⟨?sliceRequest, ?fabricRequest, ?absentStack, ?cycle, ?idleCycle, ?allowed, ?grant, ?response, ?good, ?equalised, ?delivered,
    ?report, ?wider, ?narrower, ?alarm, ?alarmAgain, ?release, ?holdEnd, ?noHold⟩
  case sliceRequest =>
    intro s st ch k sn q data x b h hin hq hk hsn hx hb
    subst hk hsn hx
    have hb : b = (openRun s.fab).mayAsk st q := hb
    subst hb
    have take := takeMi_of_slice (openRun s.fab) st ch q data hin hq
    have foreign := Slice.foreignKey_iff (s.fab.slice (miField q 46 6)) (miField q 37 9)
    refine ⟨fun hok hlo hhi => ?offered, fun hok hkey => ?foreign, fun hno => ?refused⟩
    case offered =>
      have hkey := (not_congr foreign).mpr (not_or.mpr ⟨Nat.not_lt.mpr hlo, Nat.not_le.mpr hhi⟩)
      exact run_takeMi_offers s st ch q data _ h (take.trans ((if_neg (ne_false_of_eq_true hok)).trans (if_neg hkey)))
    case foreign =>
      exact run_takeMi_refuses s st ch q data (some (miField q 46 6)) (some 3) h
        (take.trans ((if_neg (ne_false_of_eq_true hok)).trans (if_pos (foreign.mpr hkey))))
    case refused => exact run_takeMi_refuses s st ch q data (some (miField q 46 6)) none h (take.trans (if_pos hno))
  case fabricRequest =>
    intro s st ch sn q data h hin hq hsn
    subst hsn
    have take := takeMi_of_fabric (openRun s.fab) st ch q data hin hq
    exact ⟨fun hkey => run_takeMi_refuses s st ch q data none (some 3) h (take.trans (if_pos hkey)),
      fun hkey => run_takeMi_offers s st ch q data _ h (take.trans (if_neg (Nat.not_le.mpr hkey)))⟩
  case absentStack =>
    intro s st ch q data h hin
    exact run_silent s (fun f => f.takeMi st ch q data) _ h (takeMi_of_absent (openRun s.fab) st ch q data hin) rfl
  case cycle =>
    intro s r n g h hreset hup hz hn hg hh
    have hcycle : (openRun s.fab).regCycle r = h.present r n := by
      rw [regCycle_of_up (openRun s.fab) r hup hz, foldl_dirsOf, hh, hg, hn]
      rfl
    exact hcycle ▸ run_ends s (fun f => (f.regCycle r).settle) hreset
  case idleCycle =>
    intro s r h hq hidle
    refine run_silent s (fun f => (f.regCycle r).settle) _ h ?_ rfl
    rw [regCycle_idle (openRun s.fab) r hidle]
    exact settle_quiet (openRun s.fab) hq
  case allowed =>
    intro f r up u p h
    obtain ⟨hw, hu, hp⟩ := nextGrant_allowed f r up u p h
    exact ⟨(mem_sortBy _ _ _).mp hw, beq_iff_eq.mp hu, hp⟩
  case grant =>
    intro f r u p g a b hg hnum hz hd hs hi hf ha hb
    subst hg ha hb
    rw [grantUnit_reg f r u p hz hd hs hi hf]
    have hdir : ((f.reg r).grant r (f.credited r u p) p).dir (u.up r) = ((f.reg r).dir (u.up r)).charge u.slice (u.charge * 65536) p :=
      Reg.grant_dir (f.reg r) r (f.credited r u p) p
    rw [Reg.grant_waiting, Reg.grant_out, List.map_append]
    exact ⟨filter_granted _ u hnum, rfl, congrArg Meters.rem hdir, congrArg Meters.fab hdir⟩
  case response =>
    intro s r tag st h
    exact ⟨run_ends s (fun f => f.takeResponse r tag st) h, fun hno =>
      run_raises s (fun f => f.takeResponse r tag st) _ h (takeResponse_unawaited (openRun s.fab) r tag st hno)⟩
  case good =>
    intro f r tag st u d b h1 h2 hu hd hb
    subst hd hb
    exact takeResponse_of_good f r tag st u h1 h2 hu
  case equalised => exact fun s r tag h => run_equalise s r tag h
  case delivered =>
    intro f r st u d hm hw
    rw [deliverUnit_of_mi f r st u d hm hw, reg_emit, reg_onReg_self]
    exact ⟨rfl, rfl, rfl⟩
  case report => exact fun s p lanes peer pp h => run_ends s (fun f => f.linkChange p lanes peer pp) h
  case wider =>
    intro s p lanes peer pp h hq hg hne hl
    have run := run_linkChange_wider s p lanes peer pp h hq hg hl
    unfold Fabric.setPort at run
    rw [if_neg hne] at run
    exact run
  case narrower =>
    intro s p lanes peer pp r h hq hg hl hr
    subst hr
    exact run_linkChange_narrower s p lanes peer pp h hq hg hl
  case alarm =>
    intro s h hlow
    have hcleat : s.fab.droopOn.cleat = s.fab.throttle.cleat := (congrArg Fabric.cleat (droopOn_eq s.fab hlow) :)
    exact ⟨_, run_droopOn s h hlow, congrArg Cleat.droopLow hcleat, congrArg Cleat.droopHold hcleat, congrArg Cleat.droopNoted hcleat,
      congrArg Cleat.droopFrom hcleat, congrArg Cleat.droopEvents hcleat, congrArg Cleat.droopEventsAll hcleat,
      fun k => droopOn_running s.fab k hlow, droopOn_fc_of_noted s.fab hlow, (congrArg Fabric.sqs (droopOn_eq s.fab hlow) :),
      (congrArg Fabric.mem (droopOn_eq s.fab hlow) :)⟩
  case alarmAgain => exact fun s h hlow => run_silent s (fun f => f.droopOn) _ h (droopOn_of_low (openRun s.fab) hlow) rfl
  case release => exact fun s h => run_silent s (fun f => f.droopOff) s.fab.droopOff h (openRun_droopOff s.fab) (droopOff_mem s.fab)
  case holdEnd =>
    intro s t0 h hh
    refine run_silent s (fun f => f.droopEnd) _ h ?_ (Fabric.advance_mem _ _)
    rw [droopEnd_of_hold (openRun s.fab) t0 hh, openRun_advance]
    rfl
  case noHold => exact fun s h hh => run_silent s (fun f => f.droopEnd) _ h (droopEnd_of_none (openRun s.fab) hh) rfl

end Sys2Proof.Machine
end

section
/-! SUPPORT. In-field tests (R362 to R364): what ends, postpones and holds one back. Audit windows (R252). Jobs of the CAU (R232) and the
digest job that met unreadable bytes (R239, R270). -/

namespace Sys2Proof.Machine

/-! ### Updates of one engine -/

theorem engine_onEngine_self (f : Fabric) (k : Nat) (g : Engine → Engine) : (f.onEngine k g).engine k = g (f.engine k) :=
  Tab.getD_upd_self _ _ _ _

theorem advance_engine (f : Fabric) (t k : Nat) : (f.advance t).engine k = f.engine k :=
  congrArg (fun t : Tab Engine => t.getD k {}) (advance_engines f t)

theorem startNext_of_no_queue (f : Fabric) (k n : Nat) (h : (f.engine k).queue = []) : f.startNext k n = f := by
  cases n with
  | zero => rfl
  | succ n =>
    rw [Fabric.startNext, h]
    split
    · contradiction
    · rfl

/-! ### What holds a test back (R362 to R364) -/

/-- An engine whose test is not due, that takes no tiles or is watched starts no test, and none starts while tests are off. -/
theorem tryTest_of_barred (f : Fabric) (k : Nat)
    (h : (f.engine k).testDue = false ∨ f.tests.enable = false ∨ f.takesTiles k = false ∨ f.isWatched k = true) : f.tryTest k = f := by
  unfold Fabric.tryTest
  refine if_pos ?_
  rcases h with h | h | h | h <;> simp [h]

/-- A test waits for the gap that its engine's pattern has (R362, placement 1). -/
theorem tryTest_of_later_gap (f : Fabric) (k : Nat) (hgap : f.hasTestGap k = true) (hnow : fitsBetween (f.grantTimes k) f.now = false) :
    f.tryTest k = f := by
  unfold Fabric.tryTest
  refine ite_eq_left_iff.mpr fun _ => ?_
  rw [if_pos hgap, hnow]
  rfl

/-- A borrow that was postponed is not tried again before the next frame (R363). -/
theorem tryTest_of_held (f : Fabric) (k : Nat) (hgap : f.hasTestGap k = false) (hheld : (f.engine k).testHeld = true) :
    f.tryTest k = f := by
  unfold Fabric.tryTest
  refine ite_eq_left_iff.mpr fun _ => ?_
  rw [if_neg (Bool.eq_false_iff.mp hgap)]
  exact if_pos hheld

theorem tryTests_of_off (f : Fabric) (h : f.tests.enable = false) : f.tryTests = f :=
  foldl_same _ _ f (fun k _ => tryTest_of_barred f k (.inr (.inl h)))

/-! ### The end of a test (R362 to R364) -/

/-- The engine as the end of its test leaves it, the outcome aside: it awaits no test, and its owner is owed the borrowed time (R363). -/
def Engine.tested (e : Engine) (now : Nat) : Engine :=
  { e with testSeed := none, testOwner := none, testComp := e.testOwner.map (fun s => (s, now - e.testFrom)) }

/-- A test that passed: no failure stands against the engine. -/
def Engine.passed (e : Engine) : Engine := { e with testFailAt := none }
/-- A test that failed at a ledger time: it is due again (R364). -/
def Engine.failed (e : Engine) (t : Nat) : Engine := { e with testFailAt := some t, testDue := true }

/-- A test has ended, with its outcome still to be noted at the engine: the engine awaits none, the slices that hold it have counted it,
and its record is raised. -/
def Fabric.closeTest (f : Fabric) (k : Nat) (ok : Bool) : Fabric :=
  ((f.engineOwners k).foldl (fun f s => f.onSlice s (fun x => { x with
      testsRun := (x.testsRun + 1) % 65536, testFails := if ok then x.testFails else satAdd 8 x.testFails 1 }))
    (f.onEngine k (fun e => e.tested f.now))).raise
    { source := srcTm, unit := unitId 0 0 k, cause := if ok then 0x0A01 else 0x0A02, owners := f.engineOwners k }

theorem foldl_onSlice_eq (l : List Nat) (u : Slice → Slice) (f : Fabric) :
    l.foldl (fun f s => f.onSlice s u) f = { f with slices := (l.foldl (fun f s => f.onSlice s u) f).slices } := by
  induction l generalizing f with
  | nil => rfl
  | cons s l ih => exact ih (f.onSlice s u)

/-- The end of a test changes its engine, the counts of slices, and the collector. -/
theorem closeTest_eq (f : Fabric) (k : Nat) (ok : Bool) : f.closeTest k ok =
    { f.onEngine k (fun e => e.tested f.now) with slices := (f.closeTest k ok).slices, fc := (f.closeTest k ok).fc } := by
  unfold Fabric.closeTest
  rw [raise_eq, foldl_onSlice_eq]

theorem closeTest_engine (f : Fabric) (k : Nat) (ok : Bool) : (f.closeTest k ok).engine k = (f.engine k).tested f.now := by
  rw [closeTest_eq]
  exact engine_onEngine_self f k (fun e => e.tested f.now)

theorem closeTest_ledgerNow (f : Fabric) (k : Nat) (ok : Bool) : (f.closeTest k ok).ledgerNow = f.ledgerNow := by
  rw [closeTest_eq]
  rfl

theorem endTest_stray (f : Fabric) (k : Nat) (sig : Word) (h : (f.engine k).testSeed = none) : f.endTest k sig = f.strayBeat k := by
  simp only [Fabric.endTest, h]

/-- The right signature: the test ends with no failure. -/
theorem endTest_passed (f : Fabric) (k : Nat) (seed : Word) (h : (f.engine k).testSeed = some seed) :
    f.endTest k (Config.testSignature seed) =
      (((f.closeTest k true).onEngine k Engine.passed).startNext k 9).tryTests := by
  simp only [Fabric.endTest, h, beq_self_eq_true]
  rfl

/-- A wrong signature with no failure before it: the failure is noted, and the test is due again (R364). -/
theorem endTest_failed_first (f : Fabric) (k : Nat) (seed sig : Word) (h : (f.engine k).testSeed = some seed)
    (hsig : sig ≠ Config.testSignature seed) (hfirst : (f.engine k).testFailAt = none) :
    f.endTest k sig = (((f.closeTest k false).onEngine k (fun e => e.failed f.ledgerNow)).startNext k 9).tryTests := by
  rw [← closeTest_ledgerNow f k false]
  simp only [Fabric.endTest, h, beq_false_of_ne hsig, hfirst]
  rfl

/-- With nothing queued and tests off, nothing starts when a test has ended and its outcome is noted. -/
theorem run_endTest_notes (s : State) (k : Nat) (sig : Word) (ok : Bool) (u : Engine → Engine) (h : s.fab.inReset = false)
    (hq : (s.fab.engine k).queue = []) (hoff : s.fab.tests.enable = false) (hu : ∀ e, (u e).queue = e.queue)
    (hend : (openRun s.fab).endTest k sig = ((((openRun s.fab).closeTest k ok).onEngine k u).startNext k 9).tryTests) :
    ∃ t, s.run (fun f => f.endTest k sig) = .next t ∧ t.fab.engine k = u ((s.fab.engine k).tested s.fab.now) ∧
      t.fab.sqs = s.fab.sqs ∧ t.fab.units = s.fab.units ∧ t.fab.mem = s.fab.mem := by
  have hengine : (((openRun s.fab).closeTest k ok).onEngine k u).engine k = u ((s.fab.engine k).tested s.fab.now) :=
    (engine_onEngine_self _ k u).trans (congrArg u (closeTest_engine (openRun s.fab) k ok))
  have htests : (((openRun s.fab).closeTest k ok).onEngine k u).tests.enable = false := by
    rw [closeTest_eq]
    exact hoff
  have run := run_ends s (fun f => f.endTest k sig) h
  rw [hend, startNext_of_no_queue _ k 9 (by rw [hengine, hu]; exact hq), tryTests_of_off _ htests] at run
  refine ⟨_, run, hengine, ?_⟩
  rw [closeTest_eq]
  exact ⟨rfl, rfl, rfl⟩

/-! ### Tests that fall due, and borrows that no boundary met (R362 to R364) -/

/-- The interval has passed: the test is due unless one runs, and the next interval begins. -/
def Fabric.markDue (f : Fabric) (k : Nat) : Fabric :=
  f.onEngine k (fun e => { e with testDue := e.testSeed.isNone, testAt := f.ledgerNow })

/-- Ledger time at which the interval of an engine has passed. -/
def Fabric.dueAt (f : Fabric) (k : Nat) : Nat := (f.engine k).testAt + f.tests.intervalH * 3600000000000

theorem fallDue_of_eligible (f : Fabric) (k : Nat) (hon : f.tests.enable = true) (ha : (f.engine k).state ≠ .absent)
    (hr : (f.engine k).state ≠ .retired) (hw : f.isWatched k = false) :
    f.fallDue k = ((f.advance (f.atLedger (f.dueAt k))).markDue k).tryTest k := by
  simp only [Fabric.fallDue, hon, beq_false_of_ne ha, beq_false_of_ne hr, hw, Bool.not_true, Bool.or_self, Bool.false_eq_true, if_false]
  rfl

theorem fallDue_of_skipped (f : Fabric) (k : Nat) (h : f.tests.enable = false ∨ (f.engine k).state = .absent ∨
    (f.engine k).state = .retired ∨ f.isWatched k = true) : f.fallDue k = f := by
  unfold Fabric.fallDue
  refine if_pos ?_
  rcases h with h | h | h | h <;> simp [h]

/-- A test that falls due and starts nothing leaves the engine marked. -/
theorem run_fallDue_marks (s : State) (k : Nat) (due : Bool) (h : s.fab.inReset = false) (hon : s.fab.tests.enable = true)
    (ha : (s.fab.engine k).state ≠ .absent) (hr : (s.fab.engine k).state ≠ .retired) (hw : s.fab.isWatched k = false)
    (hdue : (s.fab.engine k).testSeed.isNone = due) (hbar : due = false ∨ (s.fab.engine k).state ≠ .inService) :
    s.run (fun f => f.fallDue k) = .next (s.after ((s.fab.advance (s.fab.atLedger (s.fab.dueAt k))).onEngine k (fun e => { e with
      testDue := due, testAt := (s.fab.advance (s.fab.atLedger (s.fab.dueAt k))).ledgerNow }))) := by
  refine run_silent s _ _ h ?_ (Fabric.advance_mem _ _)
  rw [fallDue_of_eligible (openRun s.fab) k hon ha hr hw, openRun_advance]
  generalize hg : s.fab.advance ((openRun s.fab).atLedger ((openRun s.fab).dueAt k)) = g
  have hengine : (openRun g).engine k = s.fab.engine k := hg ▸ advance_engine _ _ _
  have hmarked : ((openRun g).markDue k).engine k = { s.fab.engine k with testDue := due, testAt := g.ledgerNow } := by
    rw [Fabric.markDue, engine_onEngine_self, hengine, hdue]
    rfl
  have hfabric : (openRun g).markDue k = openRun (g.onEngine k (fun e => { e with testDue := due, testAt := g.ledgerNow })) := by
    rw [← hdue, ← hengine]
    rfl
  rw [tryTest_of_barred, hfabric]
  · exact hg ▸ rfl
  · rw [Fabric.takesTiles, hmarked]
    rcases hbar with hbar | hbar
    · exact .inl hbar
    · simp [hbar]

theorem postponeTest_of_borrow (f : Fabric) (k o : Nat) (ho : (f.engine k).testOwner = some o) (hs : (f.engine k).testSeed = none) :
    f.postponeTest k = ((((f.advance ((f.engine k).testFrom + (match (f.engine k).running with | some r => r.budgetNs | none => 0))).onEngine k
      (fun e => { e with testOwner := none, testDue := true, testHeld := true })).onSlice o
      (fun y => { y with testPostponed := satAdd 8 y.testPostponed 1 })).raise
        { source := srcTm, unit := unitId 0 0 k, cause := 0x0A03, owners := [o] }).startNext k 9 := by
  unfold Fabric.postponeTest
  extract_lets e
  split
  · next o' ho' _ =>
    obtain rfl : o' = o := Option.some.inj (ho'.symm.trans ho)
    rfl
  · next hno => exact absurd hs (hno o ho)

theorem postponeTest_of_none (f : Fabric) (k : Nat) (h : (f.engine k).testOwner = none ∨ (f.engine k).testSeed.isSome = true) :
    f.postponeTest k = f := by
  unfold Fabric.postponeTest
  extract_lets e
  split
  · next o ho hs =>
    rcases h with h | h
    · exact absurd (h.symm.trans ho) nofun
    · exact absurd (hs ▸ h) nofun
  · rfl

/-! ### Audit windows (R252) -/

theorem auditEnd_of_full (f : Fabric) (s k : Nat) (a : Audit) (ha : (f.slice s).audits.find k = some a) (hon : (f.slice s).auditLog2 ≠ 31)
    (hfull : 2 ^ (f.slice s).auditLog2 ≤ a.n) : f.auditEnd s k = f.drawAudit s k := by
  simp [Fabric.auditEnd, ha, hon, hfull]

theorem auditEnd_of_open (f : Fabric) (s k : Nat)
    (h : ∀ a, (f.slice s).audits.find k = some a → (f.slice s).auditLog2 = 31 ∨ a.n < 2 ^ (f.slice s).auditLog2) : f.auditEnd s k = f := by
  unfold Fabric.auditEnd
  extract_lets x
  split
  · next a ha =>
    refine if_neg ?_
    rcases h a ha with hoff | hopen
    · simp [x, hoff]
    · simp [x, hopen]
  · rfl

/-! ### Jobs and their lanes (R232) -/

/-- All but the regulators and the CAU: what jobs that take lanes leave alone. -/
def Fabric.laneless (f : Fabric) : Fabric := { f with cleat := {}, cau := {} }

/-- Steps that change only the regulators change only the regulators in turn. -/
theorem foldl_cleat_eq {α : Type} (u : Fabric → α → Fabric) (hu : ∀ f a, u f a = { f with cleat := (u f a).cleat })
    (l : List α) (f : Fabric) : l.foldl u f = { f with cleat := (l.foldl u f).cleat } := by
  induction l generalizing f with
  | nil => rfl
  | cons a l ih => rw [List.foldl_cons, ih, hu]

theorem offerReads_eq (f : Fabric) (s cls : Nat) (l : List Extent) (n : Option Nat) :
    f.offerReads s cls l n = { f with cleat := (f.offerReads s cls l n).cleat } := by
  refine foldl_cleat_eq _ (fun f e => ?_) l f
  split
  · rfl
  · exact foldl_cleat_eq _ (fun _ _ => rfl) _ f

theorem assignLanes_laneless (f : Fabric) (n : Nat) : (f.assignLanes n).laneless = f.laneless := by
  induction n generalizing f with
  | zero => rfl
  | succ n ih =>
    unfold Fabric.assignLanes
    split
    · rw [ih]
      split
      · rfl
      · rw [offerReads_eq]
        rfl
    · split
      · exact ih _
      · rfl

theorem setLane_cau_congr (f g : Fabric) (id : Nat) (l : Option Nat) (h : f.cau = g.cau) : (f.setLane id l).cau = (g.setLane id l).cau := by
  unfold Fabric.setLane
  rw [Fabric.onCau_cau, Fabric.onCau_cau, h]

/-- Which jobs take which lanes depends on the CAU alone. -/
theorem assignLanes_cau_congr (f g : Fabric) (n : Nat) (h : f.cau = g.cau) : (f.assignLanes n).cau = (g.assignLanes n).cau := by
  induction n generalizing f g with
  | zero => exact h
  | succ n ih =>
    have reads (x : Fabric) (j : Job) : (if j.begun then x else x.offerReads j.slice 0 (x.jobReads j) none).cau = x.cau := by
      split
      · rfl
      · rw [offerReads_eq]
    unfold Fabric.assignLanes
    rw [h]
    split
    · exact ih _ _ (setLane_cau_congr _ _ _ _ (by rw [reads, reads, h]))
    · split
      · exact ih _ _ (setLane_cau_congr _ _ _ _ h)
      · exact h

theorem dropCau_laneless (f : Fabric) (p : Job → Bool) : (f.dropCau p).laneless = f.laneless := assignLanes_laneless _ _

theorem openRun_dropCau_cau (f : Fabric) (p : Job → Bool) : ((openRun f).dropCau p).cau = (f.dropCau p).cau :=
  assignLanes_cau_congr _ _ _ rfl

/-! ### Ends of jobs (R232, R239, R270) -/

theorem cauDone_of_idle (f : Fabric) (id : Nat) (u : List Nat) (l : List Host.Cell)
    (h : f.cau.jobs.find? (fun j => j.id == id && j.lane.isSome) = none) : f.cauDone id u l = f := by
  simp only [Fabric.cauDone, h]

/-- A member whose digest could not be formed. -/
def Member.unread (x : Member) : Member := { x with state := 5, job := none }

theorem digestDone_unread (f : Fabric) (set m : Nat) (j : Job) (x : Member) (u : List Nat) (l : List Host.Cell)
    (hx : (f.replica set).members.find m = some x) (hj : x.job = some j.id) (hu : u ≠ []) :
    f.digestDone set m j u l = f.onMember set m Member.unread := by
  have hempty : u.isEmpty = false := by simpa using hu
  simp only [Fabric.digestDone, Tab.getD, hx, Option.getD_some, hj, bne_self_eq_false, hempty, Bool.false_eq_true, if_false]
  rfl

/-- A replica set with one of its members updated. -/
def Replica.onMember (r : Replica) (m : Nat) (g : Member → Member) : Replica := { r with members := r.members.onKey m g }

theorem replica_onMember_self (f : Fabric) (set m : Nat) (g : Member → Member) :
    (f.onMember set m g).replica set = (f.replica set).onMember m g :=
  Tab.getD_upd_self f.belay.replicas set {} (fun r => r.onMember m g)

theorem quiet_onMember (f : Fabric) (set m : Nat) (g : Member → Member) : (f.onMember set m g).quiet = f.quiet := by
  have hresults := tab_all_upd f.belay.replicas set {} (fun r => r.onMember m g) (fun r => r.result != 1) rfl (fun _ => rfl)
  unfold Fabric.quiet
  rw [← hresults]
  rfl

/-- With nothing else due, a digest job that met unreadable bytes ends with its member UNREADABLE and its lane free. -/
theorem cauDone_unread (f : Fabric) (id set m : Nat) (j : Job) (x : Member) (u : List Nat) (l : List Host.Cell)
    (hj : f.cau.jobs.find? (fun j => j.id == id && j.lane.isSome) = some j) (hk : j.kind = .digest set m)
    (hx : (f.replica set).members.find m = some x) (hjob : x.job = some id) (hu : u ≠ []) (hquiet : f.quiet = true) :
    f.cauDone id u l = (f.dropCau (fun k => k.id == id)).onMember set m Member.unread := by
  have hid : j.id = id := beq_iff_eq.mp ((Bool.and_eq_true _ _ ▸ List.find?_some hj).1)
  have hkeeps := dropCau_laneless f (fun k => k.id == id)
  have hmember : ((f.dropCau (fun k => k.id == id)).replica set).members.find m = some x :=
    (congrArg (fun g : Fabric => (g.replica set).members.find m) hkeeps).trans hx
  have hstill : (f.dropCau (fun k => k.id == id)).quiet = true := (congrArg Fabric.quiet hkeeps).trans hquiet
  simp only [Fabric.cauDone, hj, hk]
  rw [digestDone_unread _ set m j x u l hmember (hid ▸ hjob) hu, settle_quiet _ ((quiet_onMember _ _ _ _).trans hstill)]

/-- Settles O36: a test ends, falls due and is postponed, an audit window draws, and a job of the CAU ends, as the lemmas of each say. -/
theorem testsAuditsAndDigestJobs : Obligations.TestsAuditsAndDigestJobs := by
  unfold Obligations.TestsAuditsAndDigestJobs
  refine ⟨?ended, ?passed, ?failed, ?due, tryTest_of_held, tryTest_of_later_gap, ?watched, ?skipped,
    ?postponed, ?noBorrow, ?full, ?openWindow, ?job, ?digest⟩
  case ended =>
    intro s k sig h
    refine ⟨run_ends s (fun f => f.endTest k sig) h, fun hs => ?_⟩
    exact endTest_stray (openRun s.fab) k sig hs ▸ run_ends s (fun f => f.endTest k sig) h
  case passed =>
    intro s k seed h hs hq hoff
    obtain ⟨t, run, hengine, hkept⟩ := run_endTest_notes s k _ true Engine.passed h hq hoff (fun _ => rfl) (endTest_passed _ k seed hs)
    refine ⟨t, run, ?_⟩
    rw [hengine]
    exact ⟨rfl, rfl, rfl, rfl, hkept⟩
  case failed =>
    intro s k seed sig h hs hq hoff hsig hfirst
    obtain ⟨t, run, hengine, -, hunits, -⟩ := run_endTest_notes s k sig false (fun e => e.failed s.fab.ledgerNow) h hq hoff (fun _ => rfl)
      (endTest_failed_first _ k seed sig hs hsig hfirst)
    refine ⟨t, run, ?_⟩
    rw [hengine]
    exact ⟨rfl, rfl, rfl, hunits⟩
  case due =>
    intro s k g g' t0 h hon ha hr hw ht hg hh
    subst ht hg hh
    have marks (due : Bool) := run_fallDue_marks s k due h hon ha hr hw
    refine ⟨?_, fun hs => marks false (by simpa using hs) (.inl rfl), fun hout hs => marks true (by rw [hs]; rfl) (.inr hout)⟩
    exact fallDue_of_eligible (openRun s.fab) k hon ha hr hw ▸ run_ends s (fun f => f.fallDue k) h
  case watched => exact fun f k hw => tryTest_of_barred f k (.inr (.inr (.inr hw)))
  case skipped =>
    exact fun s k h hskip => run_silent s (fun f => f.fallDue k) _ h (fallDue_of_skipped (openRun s.fab) k hskip) rfl
  case postponed =>
    intro s k o h ho hs
    exact postponeTest_of_borrow (openRun s.fab) k o ho hs ▸ run_ends s (fun f => f.postponeTest k) h
  case noBorrow =>
    exact fun s k h hno => run_silent s (fun f => f.postponeTest k) _ h (postponeTest_of_none (openRun s.fab) k hno) rfl
  case full =>
    intro s sl k a y h hy ha hon hfull
    subst hy
    exact run_silent s (fun f => f.auditEnd sl k) _ h (auditEnd_of_full (openRun s.fab) sl k a ha hon hfull) rfl
  case openWindow =>
    exact fun s sl k h hopen => run_silent s (fun f => f.auditEnd sl k) _ h (auditEnd_of_open (openRun s.fab) sl k hopen) rfl
  case job =>
    exact fun s id u l h => ⟨run_ends s (fun f => f.cauDone id u l) h, fun hno =>
      run_silent s (fun f => f.cauDone id u l) _ h (cauDone_of_idle (openRun s.fab) id u l hno) rfl⟩
  case digest =>
    intro s id set m m2 j x y u l h hj hk hx hjob hu _ _ _ _ _ _ _ _ hquiet
    have run := run_ends s (fun f => f.cauDone id u l) h
    rw [cauDone_unread (openRun s.fab) id set m j x u l hj hk hx hjob hu hquiet] at run
    have hkeeps := dropCau_laneless (openRun s.fab) (fun k => k.id == id)
    have hset : ((openRun s.fab).dropCau (fun k => k.id == id)).replica set = s.fab.replica set :=
      (congrArg (fun f : Fabric => f.replica set) hkeeps :)
    have hreplica := replica_onMember_self ((openRun s.fab).dropCau (fun k => k.id == id)) set m Member.unread
    rw [hset] at hreplica
    refine ⟨_, run, congrArg Cau.jobs (openRun_dropCau_cau s.fab _), ?_, (congrArg Replica.result hreplica :), ?_,
      (congrArg Fabric.sqs hkeeps :)⟩
    · refine (congrArg (fun r : Replica => r.members.find m) hreplica).trans ?_
      exact (Tab.find_onKey _ _ _).trans (congrArg (Option.map Member.unread) hx)
    · exact (congrArg (memStore s.fab.mem) (congrArg Fabric.writes hkeeps :))

end Sys2Proof.Machine
end

section
/-! SUPPORT. The packets of Belay's audit setting and watch list (R251, R257, R276): what each row does in each state of the slice and
of the engine. -/

namespace Sys2Proof.Machine

/-! ### BELAY_AUDIT_SET (R251) -/

theorem belayAuditSet_waits (f : Fabric) (p : Packet) (h : (f.slice (pslice p)).state = .created ∨
    (f.slice (pslice p)).state = .active ∨ (f.slice (pslice p)).state = .resetting) :
    rowBelayAuditSet.body p (preq p) (f.during f p) =
      ((f.onSlice (pslice p) (fun x => { x with auditNext := x.auditNext ++ [(pfield p 0x18 1, preq p)] })).during f p, none) := by
  rcases h with h | h | h
  all_goals
    have h' : ((f.during f p).slice (pslice p)).state = _ := h
    simp only [rowBelayAuditSet, h']
    rfl

theorem belayAuditSet_refused (f : Fabric) (p : Packet) (hc : (f.slice (pslice p)).state ≠ .created)
    (ha : (f.slice (pslice p)).state ≠ .active) (hr : (f.slice (pslice p)).state ≠ .resetting) :
    rowBelayAuditSet.body p (preq p) (f.during f p) = (f.during f p, some (rep stState)) := by
  have same : ((f.during f p).slice (pslice p)).state = (f.slice (pslice p)).state := rfl
  simp only [rowBelayAuditSet, same, beq_false_of_ne hc, beq_false_of_ne ha, beq_false_of_ne hr, Bool.or_self, Bool.false_eq_true, if_false]

/-! ### BELAY_WATCH (R257) -/

theorem belayWatch_off (f : Fabric) (p : Packet) (h : pfield p 0x19 1 = 1) :
    rowBelayWatch.body p (preq p) (f.during f p) = ((f.unwatch (pfield p 0x18 1)).during f p, some repOk) := by
  simp only [rowBelayWatch, h, if_true]
  rfl

/-- The fabric with another watch list. -/
def Fabric.onWatch (f : Fabric) (l : Tab Watch) : Fabric := { f with belay := { f.belay with watch := l } }

/-- An engine's watch as a cause at a time leaves it (R254). -/
def Watch.caused (w : Watch) (cause now : Nat) : Watch :=
  { w with on := true, cause := cause, lastAt := now, clean := 0, causes := if w.on then w.causes + 1 else 1 }

/-- An engine in service is not retired, so a cause puts it on the watch list. -/
theorem watchEngine_of_in (f : Fabric) (k cause : Nat) (h : f.engineIn k = true) :
    f.watchEngine k cause = f.onWatch (f.belay.watch.upd k {} (fun w => w.caused cause f.now)) := by
  have hretired : ((f.engine k).state == .retired) = false := by
    simp only [Fabric.engineIn, Bool.and_eq_true, bne_iff_ne] at h
    exact beq_false_of_ne h.2
  simp only [Fabric.watchEngine, hretired, Bool.false_eq_true, if_false]
  rfl

theorem belayWatch_on (f : Fabric) (p : Packet) (h : pfield p 0x19 1 = 0) (hin : f.engineIn (pfield p 0x18 1) = true) :
    rowBelayWatch.body p (preq p) (f.during f p) =
      ((f.onWatch (f.belay.watch.upd (pfield p 0x18 1) {} (fun w => w.caused 4 f.now))).during f p, some repOk) := by
  have hin' : (f.during f p).engineIn (pfield p 0x18 1) = true := hin
  simp only [rowBelayWatch, h, hin', watchEngine_of_in _ _ 4 hin', Nat.zero_ne_one, Bool.not_true, Bool.false_eq_true, if_false]
  rfl

theorem belayWatch_refused (f : Fabric) (p : Packet) (h : pfield p 0x19 1 = 0) (hin : f.engineIn (pfield p 0x18 1) = false) :
    rowBelayWatch.body p (preq p) (f.during f p) = (f.during f p, some (rep stState)) := by
  have hin' : (f.during f p).engineIn (pfield p 0x18 1) = false := hin
  simp only [rowBelayWatch, h, hin', Nat.zero_ne_one, Bool.not_false, if_true, if_false]

/-! ### BELAY_HELD_QUERY (R276) -/

theorem belayHeldQuery_found (f : Fabric) (p : Packet) (q : Nat) (d : Desc)
    (h : (f.heldOf (pslice p))[pfield p 0x18 2]? = some (q, d)) :
    rowBelayHeldQuery.body p (preq p) (f.during f p) =
      (f.during f p, some (repOk [(0x20, 2, (f.heldOf (pslice p)).length), (0x22, 2, q), (0x24, 4, d.seq.toNat)])) := by
  have same : (f.during f p).heldOf (pslice p) = f.heldOf (pslice p) := rfl
  simp only [rowBelayHeldQuery, same, h]

theorem belayHeldQuery_past (f : Fabric) (p : Packet) (h : (f.heldOf (pslice p)).length ≤ pfield p 0x18 2) :
    rowBelayHeldQuery.body p (preq p) (f.during f p) =
      (f.during f p, some (repOk [(0x20, 2, (f.heldOf (pslice p)).length), (0x22, 2, 0xFFFF)])) := by
  have same : (f.during f p).heldOf (pslice p) = f.heldOf (pslice p) := rfl
  simp only [rowBelayHeldQuery, same, List.getElem?_eq_none h]

/-- Settles O16: BELAY_AUDIT_SET waits for the boundary, BELAY_WATCH edits the watch list, BELAY_HELD_QUERY only reads; each refusal is
STATE. -/
theorem auditSettingAndWatchList : Obligations.AuditSettingAndWatchList := by
  unfold Obligations.AuditSettingAndWatchList
  refine ⟨?waits, ?notAudited, ?off, ?on, ?notWatched, ?found, ?past⟩
  case waits => exact fun s p hp h => control_defers s _ p _ hp (belayAuditSet_waits s.fab p h) rfl
  case notAudited => exact fun s p hp hc ha hr => control_does s _ p _ _ hp (belayAuditSet_refused s.fab p hc ha hr) rfl rfl rfl
  case off =>
    intro s p l hp h hl
    subst hl
    exact control_does s _ p _ _ hp (belayWatch_off s.fab p h) rfl rfl rfl
  case on =>
    intro s p l hp h hin hl
    subst hl
    exact control_does s _ p _ _ hp (belayWatch_on s.fab p h hin) rfl rfl rfl
  case notWatched => exact fun s p hp h hin => control_does s _ p _ _ hp (belayWatch_refused s.fab p h hin) rfl rfl rfl
  case found =>
    intro s p q d hp h
    obtain ⟨t, run, answered, kept⟩ := control_does s _ p _ _ hp (belayHeldQuery_found s.fab p q d h) rfl rfl rfl
    exact ⟨t, run, kept, answered⟩
  case past =>
    intro s p hp h
    obtain ⟨t, run, answered, kept⟩ := control_does s _ p _ _ hp (belayHeldQuery_past s.fab p h) rfl rfl rfl
    exact ⟨t, run, kept, answered⟩

end Sys2Proof.Machine
end

section
/-! SUPPORT. The packets of replica sets (R269, R270, R272): what each row does, the start of the two jobs of a check, and what an
expulsion keeps. -/

namespace Sys2Proof.Machine

/-! ### REPLICA_DEFINE (R269) -/

theorem replica_during (f g : Fabric) (p : Packet) (n : Nat) : (g.during f p).replica n = g.replica n := rfl

/-- The member that a REPLICA_DEFINE describes. -/
def memberOf (p : Packet) : Member :=
  { state := 1, slice := pslice p, tag := pfield p 0x1A 2, va := pfield p 0x20 8, len := pfield p 0x28 8 }

theorem replicaDefine_sets (f : Fabric) (p : Packet) (x : Tag) (hr : (f.replica (pfield p 0x18 1)).result ≠ 1)
    (hlen : pfield p 0x28 8 ≠ 0) (hx : f.tag? (pfield p 0x1A 2) = some x) (hs : x.slice = pslice p) :
    rowReplicaDefine.body p (preq p) (f.during f p) =
      ((f.onReplica (pfield p 0x18 1) (fun r => { r with members := r.members.put (pfield p 0x19 1) (memberOf p) })).during f p,
        some repOk) := by
  have hx' : (f.during f p).tag? (pfield p 0x1A 2) = some x := hx
  simp only [rowReplicaDefine, replica_during, hr, hlen, hx', hs, bne_self_eq_false, Bool.false_eq_true, if_false]
  rfl

theorem replicaDefine_empties (f : Fabric) (p : Packet) (hr : (f.replica (pfield p 0x18 1)).result ≠ 1) (hlen : pfield p 0x28 8 = 0) :
    rowReplicaDefine.body p (preq p) (f.during f p) =
      ((f.onReplica (pfield p 0x18 1) (fun r => { r with members := r.members.del (pfield p 0x19 1) })).during f p, some repOk) := by
  simp only [rowReplicaDefine, replica_during, hr, hlen, if_false, if_true]
  rfl

theorem replicaDefine_refused_in_check (f : Fabric) (p : Packet) (hr : (f.replica (pfield p 0x18 1)).result = 1) :
    rowReplicaDefine.body p (preq p) (f.during f p) = (f.during f p, some (rep stState)) := by
  simp only [rowReplicaDefine, replica_during, hr, if_true]

theorem replicaDefine_refused_for_tag (f : Fabric) (p : Packet) (hr : (f.replica (pfield p 0x18 1)).result ≠ 1)
    (hlen : pfield p 0x28 8 ≠ 0)
    (h : f.tag? (pfield p 0x1A 2) = none ∨ ∃ x : Tag, f.tag? (pfield p 0x1A 2) = some x ∧ x.slice ≠ pslice p) :
    rowReplicaDefine.body p (preq p) (f.during f p) = (f.during f p, some (rep stState)) := by
  rcases h with h | ⟨x, h, hs⟩
  · have h' : (f.during f p).tag? (pfield p 0x1A 2) = none := h
    simp only [rowReplicaDefine, replica_during, hr, hlen, h', if_false]
  · have h' : (f.during f p).tag? (pfield p 0x1A 2) = some x := h
    simp only [rowReplicaDefine, replica_during, hr, hlen, h', bne_iff_ne.mpr hs, if_true, if_false]

/-! ### REPLICA_CHECK (R270) -/

/-- A set that may be checked: no check of it runs, it has two members or more, and they are of one length. -/
def Replica.checkable (r : Replica) : Prop :=
  r.result ≠ 1 ∧ 2 ≤ r.members.length ∧ (r.members.map (·.2.len)).eraseDups.length = 1

/-- A replica set whose check a packet asked for. -/
def Replica.asked (r : Replica) (p : Packet) : Replica :=
  { r with result := 1, req := some (preq p),
           autoExpel := (match p.path with | .mailbox _ => true | .fn _ => false) && pfield p 0x19 1 == 1 }

/-- A check of a set asked for by a packet is entered; its jobs are not started yet. -/
def Fabric.enterCheck (f : Fabric) (p : Packet) : Fabric := f.onReplica (pfield p 0x18 1) (fun r => r.asked p)

theorem replicaCheck_starts (f : Fabric) (p : Packet) (h : (f.replica (pfield p 0x18 1)).checkable) :
    rowReplicaCheck.body p (preq p) f = (((f.enterCheck p).startCheck (pfield p 0x18 1)).settle, none) := by
  obtain ⟨hr, hmany, hlen⟩ := h
  simp only [rowReplicaCheck, hr, hlen, Nat.not_lt.mpr hmany, decide_false, bne_self_eq_false, Bool.or_self, Bool.false_eq_true, if_false]
  rfl

theorem replicaCheck_refused (f : Fabric) (p : Packet) (h : (f.replica (pfield p 0x18 1)).result = 1 ∨
    (f.replica (pfield p 0x18 1)).members.length < 2 ∨ ((f.replica (pfield p 0x18 1)).members.map (·.2.len)).eraseDups.length ≠ 1) :
    rowReplicaCheck.body p (preq p) (f.during f p) = (f.during f p, some (rep stState)) := by
  have guard : (decide ((f.replica (pfield p 0x18 1)).result = 1) || decide ((f.replica (pfield p 0x18 1)).members.length < 2) ||
      ((f.replica (pfield p 0x18 1)).members.map (·.2.len)).eraseDups.length != 1) = true := by
    rw [Bool.or_eq_true, Bool.or_eq_true, decide_eq_true_eq, decide_eq_true_eq, bne_iff_ne, or_assoc]
    exact h
  simp only [rowReplicaCheck, replica_during]
  exact if_pos guard

/-! ### The jobs of a check (R232, R270) -/

/-- What the offer of a job's reads and its move to or off a lane keep, jobs that take lanes keep. -/
theorem assignLanes_induction {P : Fabric → Prop} (reads : ∀ f j, P f → P (f.offerReads j.slice 0 (f.jobReads j) none))
    (lane : ∀ f id l, P f → P (f.setLane id l)) (n : Nat) (f : Fabric) (h : P f) : P (f.assignLanes n) := by
  induction n generalizing f with
  | zero => exact h
  | succ n ih =>
    unfold Fabric.assignLanes
    split
    · refine ih _ (lane _ _ _ ?_)
      split
      · exact h
      · exact reads _ _ h
    · split
      · exact ih _ (lane _ _ _ h)
      · exact h

/-- How many jobs there are and the number of the next do not depend on the lanes. -/
theorem assignLanes_counts (f : Fabric) (n : Nat) :
    (f.assignLanes n).cau.jobs.length = f.cau.jobs.length ∧ (f.assignLanes n).cau.nextId = f.cau.nextId := by
  refine assignLanes_induction
    (P := fun g => g.cau.jobs.length = f.cau.jobs.length ∧ g.cau.nextId = f.cau.nextId)
    (fun g j h => ?_) (fun g id l h => ?_) n f ⟨rfl, rfl⟩
  · rw [offerReads_eq]
    exact h
  · exact ⟨(List.length_map _).trans h.1, h.2⟩

/-- A member whose digest job `id` is under way. -/
def Member.inCheck (x : Member) (id : Nat) : Member := { x with state := 2, job := some id }

/-- The digest job of a member of slice `s` is queued, and jobs take lanes. -/
def Fabric.startDigest (f : Fabric) (set m s : Nat) : Fabric :=
  ((f.addJob (.digest set m) s []).2.onMember set m (fun x => x.inCheck f.cau.nextId)).assignLanes 12

/-- Beside the jobs, the start of a digest job changes its member. -/
theorem startDigest_laneless (f : Fabric) (set m s : Nat) :
    (f.startDigest set m s).laneless = (f.onMember set m (fun x => x.inCheck f.cau.nextId)).laneless :=
  assignLanes_laneless _ _

theorem startDigest_replica (f : Fabric) (set m s : Nat) :
    (f.startDigest set m s).replica set = (f.replica set).onMember m (fun x => x.inCheck f.cau.nextId) :=
  (congrArg (fun g : Fabric => g.replica set) (startDigest_laneless f set m s)).trans (replica_onMember_self f set m _)

theorem startDigest_counts (f : Fabric) (set m s : Nat) :
    (f.startDigest set m s).cau.jobs.length = f.cau.jobs.length + 1 ∧ (f.startDigest set m s).cau.nextId = f.cau.nextId + 1 := by
  unfold Fabric.startDigest
  rw [(assignLanes_counts _ _).1, (assignLanes_counts _ _).2]
  exact ⟨List.length_append, rfl⟩

/-- A check of two defined members starts the job of each in turn. -/
theorem startCheck_of_pair (f : Fabric) (set a b : Nat) (x y : Member) (h : (f.replica set).members = [(a, x), (b, y)])
    (hx : x.state = 1) (hy : y.state = 1) : f.startCheck set = (f.startDigest set a x.slice).startDigest set b y.slice := by
  simp only [Fabric.startCheck, h, List.foldl_cons, List.foldl_nil, hx, hy, decide_true, Bool.true_or, if_true]
  rfl

/-! ### A check whose jobs run holds nothing else up -/

/-- All but what a check of a replica set, its jobs and a packet on its way touch. -/
def Fabric.unchecked (f : Fabric) : Fabric := { f with belay := {}, cau := {}, cleat := {}, ctl := {}, out := [], writes := [] }

theorem unchecked_of_laneless {f g : Fabric} {b : BelayUnit} (h : g.laneless = { f.laneless with belay := b }) : g.unchecked = f.unchecked :=
  (congrArg Fabric.unchecked h :)

theorem unchecked_enterCheck (f : Fabric) (p : Packet) : (f.enterCheck p).unchecked = f.unchecked := rfl
theorem unchecked_during (f g : Fabric) (p : Packet) : (g.during f p).unchecked = g.unchecked := rfl

theorem quiet_iff_unchecked (f : Fabric) : f.quiet = true ↔ f.unchecked.quiet = true ∧ ∀ e ∈ f.belay.replicas, e.2.result ≠ 1 := by
  simp only [Fabric.quiet, Fabric.unchecked, Bool.and_eq_true, List.all_nil, and_true, List.all_eq_true (l := f.belay.replicas), bne_iff_ne]
  constructor
  · rintro ⟨⟨⟨hrest, hr⟩, hn⟩, hl⟩
    exact ⟨⟨⟨hrest, hn⟩, hl⟩, hr⟩
  · rintro ⟨⟨⟨hrest, hn⟩, hl⟩, hr⟩
    exact ⟨⟨⟨hrest, hr⟩, hn⟩, hl⟩

/-- With nothing due but checks whose jobs run, settling changes nothing. -/
theorem settle_of_unchecked (f : Fabric) (h : f.unchecked.quiet = true) (hr : f.settleReplicas = f) : f.settle = f := by
  simp only [Fabric.quiet, Desc.quiet, Group.quiet, Bool.and_eq_true, List.all_eq_true, Bool.not_eq_true', List.isEmpty_iff,
    Option.isNone_iff_eq_none, bne_iff_ne, ne_eq] at h
  obtain ⟨⟨⟨⟨⟨⟨⟨hq, hf⟩, hs⟩, hg⟩, hi⟩, -⟩, hn⟩, hl⟩ := h
  have groups := settleGroups_quiet f (fun e he => ⟨(hg e he).1.1, (hg e he).1.2, (hg e he).2⟩)
  unfold Fabric.settle
  rw [settleRebind_quiet f (fun e he d hd => ((hq e he).2 d hd).1.1), settleConds_quiet f (fun e he d hd => ((hq e he).2 d hd).1.2),
    settleFaults_quiet f hf, settleRows_quiet f (fun e he d hd => ((hq e he).2 d hd).2), settleAllCancels_quiet f (fun e he => (hq e he).1),
    settleSlack_quiet f hs, groups.1, groups.2.1, groups.2.2, hr, settleImports_quiet f hi, settleQuiesce_quiet f hn, settleDrain_quiet f hl]

theorem settleReplica_of_running (f : Fabric) (n : Nat) (h : (f.replica n).members.any (fun m => m.2.job.isSome) = true) :
    f.settleReplica n = f := by
  simp only [Fabric.settleReplica, h, Bool.or_true, if_true]

/-- An entry of a table after a write is the one written, or stood there before. -/
theorem mem_tab_put {α : Type} (t : Tab α) (k : Nat) (v : α) (e : Nat × α) (h : e ∈ t.put k v) : e = (k, v) ∨ e ∈ t := by
  induction t with
  | nil => exact .inl (List.mem_singleton.mp h)
  | cons c t ih =>
    obtain ⟨k', v'⟩ := c
    rw [Tab.put] at h
    split at h
    · exact List.mem_cons.mp h
    · split at h
      · exact (List.mem_cons.mp h).imp_right (List.mem_cons_of_mem _)
      · rcases List.mem_cons.mp h with rfl | h
        · exact .inr List.mem_cons_self
        · exact (ih h).imp_right (List.mem_cons_of_mem _)

/-- Where one set alone is in check and a job of it runs, no check of a replica set ends. -/
theorem settleReplicas_of_running (f g : Fabric) (set : Nat) (h : g.belay.replicas = f.belay.replicas.put set (g.replica set))
    (hrest : ∀ e ∈ f.belay.replicas, e.2.result ≠ 1) (hr : (g.replica set).members.any (fun m => m.2.job.isSome) = true) :
    g.settleReplicas = g := by
  refine foldl_same _ _ g (fun n hn => ?_)
  obtain ⟨e, he, rfl⟩ := List.mem_map.mp hn
  obtain ⟨hin, hres⟩ := List.mem_filter.mp he
  rcases mem_tab_put _ _ _ _ (h ▸ hin) with rfl | hold
  · exact settleReplica_of_running g set hr
  · exact absurd (beq_iff_eq.mp hres) (hrest e hold)

/-! ### A check of two members (R270) -/

/-- Beside its jobs and what they offer to the regulators, the start of a digest job changes nothing outside Belay. -/
theorem startDigest_keeps (f : Fabric) (set m s : Nat) :
    (f.startDigest set m s).laneless = { f.laneless with belay := (f.startDigest set m s).belay } := by
  have h := startDigest_laneless f set m s
  have hbelay : (f.startDigest set m s).belay = (f.onMember set m (fun x => x.inCheck f.cau.nextId)).belay := (congrArg Fabric.belay h :)
  rw [hbelay, h]
  rfl

theorem startDigest_replicas (f : Fabric) (set m s : Nat) :
    (f.startDigest set m s).belay.replicas = f.belay.replicas.put set ((f.startDigest set m s).replica set) := by
  rw [startDigest_replica]
  exact (congrArg (fun g : Fabric => g.belay.replicas) (startDigest_laneless f set m s) :)

/-- The set in check with both jobs under way, and what the start of the check leaves alone. -/
theorem startCheck_pair (f : Fabric) (set a b : Nat) (x y : Member) (h : (f.replica set).members = [(a, x), (b, y)]) (hab : a ≠ b)
    (hx : x.state = 1) (hy : y.state = 1) :
    (f.startCheck set).replica set =
        { f.replica set with members := [(a, x.inCheck f.cau.nextId), (b, y.inCheck (f.cau.nextId + 1))] } ∧
      (f.startCheck set).belay.replicas = f.belay.replicas.put set ((f.startCheck set).replica set) ∧
      (f.startCheck set).cau.jobs.length = f.cau.jobs.length + 2 ∧
      (f.startCheck set).laneless = { f.laneless with belay := (f.startCheck set).belay } := by
  rw [startCheck_of_pair f set a b x y h hx hy]
  have first := startDigest_counts f set a x.slice
  refine ⟨?replica, ?replicas, ?jobs, ?kept⟩
  case replica =>
    rw [startDigest_replica, startDigest_replica, first.2]
    simp only [Replica.onMember, h, Tab.onKey, List.map_cons, List.map_nil, hab, hab.symm, if_true, if_false]
  case replicas => rw [startDigest_replicas, startDigest_replicas, Tab.put_put]
  case jobs => rw [(startDigest_counts _ _ _ _).1, first.1]
  case kept => rw [startDigest_keeps, startDigest_keeps]

/-- Two members of one length make a set that may be checked. -/
theorem checkable_of_pair (r : Replica) (a b : Nat) (x y : Member) (hr : r.result ≠ 1) (h : r.members = [(a, x), (b, y)])
    (hlen : x.len = y.len) : r.checkable := by
  refine ⟨hr, ?_, ?_⟩
  · rw [h]
    exact Nat.le_refl 2
  · rw [h]
    simp [hlen, List.eraseDups_cons]

theorem enterCheck_replica (f : Fabric) (p : Packet) : (f.enterCheck p).replica (pfield p 0x18 1) = (f.replica (pfield p 0x18 1)).asked p :=
  Tab.getD_upd_self f.belay.replicas _ {} (fun r => r.asked p)

/-- With nothing else due, the check of two defined members is under way once the packet is taken: its settling changes nothing. -/
theorem settle_pair (f : Fabric) (p : Packet) (a b : Nat) (x y : Member) (h : (f.replica (pfield p 0x18 1)).members = [(a, x), (b, y)])
    (hab : a ≠ b) (hx : x.state = 1) (hy : y.state = 1) (hq : f.quiet = true) :
    ((f.enterCheck p).startCheck (pfield p 0x18 1)).settle = (f.enterCheck p).startCheck (pfield p 0x18 1) := by
  obtain ⟨hquiet, hrest⟩ := (quiet_iff_unchecked f).mp hq
  obtain ⟨hset, hsets, -, hkept⟩ := startCheck_pair (f.enterCheck p) _ a b x y (by rw [enterCheck_replica]; exact h) hab hx hy
  have same : ((f.enterCheck p).startCheck (pfield p 0x18 1)).unchecked = f.unchecked := unchecked_of_laneless hkept
  refine settle_of_unchecked _ (same ▸ hquiet) (settleReplicas_of_running f _ (pfield p 0x18 1) ?_ hrest ?_)
  · exact hsets.trans (Tab.put_put _ _ _ _)
  · rw [hset]
    rfl

theorem enterCheck_taking (f : Fabric) (p : Packet) : (f.taking p).enterCheck p = (f.enterCheck p).during f p := by
  rw [taking_during]
  rfl

/-- A check of two defined members, with nothing else due: the reply waits, each member has its job, and nothing else changes. -/
theorem run_check_of_pair (s : State) (p : Packet) (a b : Nat) (x y : Member) (hp : s.fab.passes rowReplicaCheck p = true)
    (hcheck : (s.fab.replica (pfield p 0x18 1)).checkable) (hm : (s.fab.replica (pfield p 0x18 1)).members = [(a, x), (b, y)])
    (hab : a ≠ b) (hx : x.state = 1) (hy : y.state = 1) (hq : s.fab.quiet = true) :
    ∃ t, s.run (control rowReplicaCheck p) = .next t ∧ Waits s t p ∧ (t.fab.replica (pfield p 0x18 1)).result = 1 ∧
      (t.fab.replica (pfield p 0x18 1)).req = some (preq p) ∧
      (t.fab.replica (pfield p 0x18 1)).members = [(a, x.inCheck s.fab.cau.nextId), (b, y.inCheck (s.fab.cau.nextId + 1))] ∧
      t.fab.cau.jobs.length = s.fab.cau.jobs.length + 2 ∧ t.fab.unchecked = s.fab.unchecked := by
  have htaken : s.fab.taking p = s.fab.during s.fab p := taking_during s.fab p
  have run := control_ends s _ p _ hp (replicaCheck_starts (s.fab.taking p) p (htaken ▸ hcheck))
  rw [settle_pair (s.fab.taking p) p a b x y (htaken ▸ hm) hab hx hy (htaken ▸ hq)] at run
  obtain ⟨hset, -, hjobs, hkept⟩ := startCheck_pair ((s.fab.taking p).enterCheck p) (pfield p 0x18 1) a b x y
    (by rw [enterCheck_replica, htaken]; exact hm) hab hx hy
  rw [enterCheck_taking] at run hset hjobs hkept
  generalize hg : Fabric.startCheck _ _ = g at run hset hjobs hkept
  refine ⟨s.ends g, run, ⟨?ctl, ?driven⟩, ?result, ?req, ?members, ?jobs, ?kept⟩
  case ctl => exact (congrArg Fabric.ctl hkept :)
  case jobs => exact hjobs
  case driven => exact (driven_close s g).trans (congrArg Fabric.out hkept :)
  case result => exact (congrArg Replica.result hset).trans (congrArg Replica.result (enterCheck_replica s.fab p))
  case req => exact (congrArg Replica.req hset).trans (congrArg Replica.req (enterCheck_replica s.fab p))
  case members => exact congrArg Replica.members hset
  case kept =>
    have hwrites : g.writes = [] := (congrArg Fabric.writes hkept :)
    have hsame : g.unchecked = s.fab.unchecked := by
      rw [unchecked_of_laneless hkept, unchecked_during, unchecked_enterCheck]
    calc (closeRun s.fab g).unchecked
        = { g.unchecked with mem := memStore s.fab.mem g.writes } := rfl
      _ = s.fab.unchecked := by
        rw [hwrites, hsame]
        rfl

/-! ### Reads of jobs while a packet is on its way (R232) -/

theorem resolveAt_during (f g : Fabric) (p : Packet) (x : Slice) (n : Nat) (t : Tag) (va len : Nat) :
    (g.during f p).resolveAt x n t va len = g.resolveAt x n t va len := by
  have ports (peer : Nat) : (g.during f p).portFor x peer va = g.portFor x peer va := rfl
  simp only [Fabric.resolveAt, ports]

theorem resolveRange_during (f g : Fabric) (p : Packet) (x : Slice) (n : Nat) (t : Tag) (k va len : Nat) :
    (g.during f p).resolveRange x n t k va len = g.resolveRange x n t k va len := by
  induction k generalizing va len with
  | zero => rfl
  | succ k ih => simp only [Fabric.resolveRange, resolveAt_during, ih]

theorem bindRange_during (f g : Fabric) (p : Packet) (s n : Nat) (t : Tag) (v : View) (o : Nat) (w : Bool) (r : Rng) :
    (g.during f p).bindRange s n t v o w r = g.bindRange s n t v o w r := by
  have slices : (g.during f p).slice s = g.slice s := rfl
  have keys (target sel : Nat) : (g.during f p).keyReady s target sel = g.keyReady s target sel := rfl
  simp only [Fabric.bindRange, resolveRange_during, slices, keys]

theorem memberExtents_during (f g : Fabric) (p : Packet) (set m : Nat) :
    (g.during f p).memberExtents set m = g.memberExtents set m := by
  simp only [Fabric.memberExtents, bindRange_during]
  rfl

theorem jobReads_during (f g : Fabric) (p : Packet) (j : Job) : (g.during f p).jobReads j = g.jobReads j := by
  simp only [Fabric.jobReads, memberExtents_during]
  rfl

theorem offerReads_during (f g : Fabric) (p : Packet) (s cls : Nat) (l : List Extent) (n : Option Nat) :
    (g.during f p).offerReads s cls l n = (g.offerReads s cls l n).during f p := by
  refine List.foldl_hom (fun g : Fabric => g.during f p) (fun g e => ?_)
  split
  · rfl
  · exact List.foldl_hom (fun g : Fabric => g.during f p) (fun _ _ => rfl)

theorem assignLanes_during (f g : Fabric) (p : Packet) (n : Nat) : (g.during f p).assignLanes n = (g.assignLanes n).during f p := by
  induction n generalizing g with
  | zero => rfl
  | succ n ih =>
    have reads (j : Job) : (if j.begun then g.during f p else (g.during f p).offerReads j.slice 0 ((g.during f p).jobReads j) none) =
        (if j.begun then g else g.offerReads j.slice 0 (g.jobReads j) none).during f p := by
      rw [jobReads_during, offerReads_during]
      split <;> rfl
    have lane (g : Fabric) (id : Nat) (l : Option Nat) : (g.during f p).setLane id l = (g.setLane id l).during f p := rfl
    unfold Fabric.assignLanes
    rw [show (g.during f p).cau = g.cau from rfl]
    split
    · simp only [reads, lane]
      exact ih _
    · split
      · rw [lane]
        exact ih _
      · rfl

/-! ### Reads only add to the arrivals at a regulator (R205) -/

theorem reg_onReg_other (f : Fabric) (r k : Nat) (g : Reg → Reg) (h : k ≠ r) : (f.onReg r g).reg k = f.reg k :=
  Tab.getD_upd_other f.cleat.regs r k {} {} g h

theorem offer_arrivals_le (f : Fabric) (r k : Nat) (u : CUnit) : (f.reg k).arrivals ≤ ((f.offer r u).reg k).arrivals := by
  by_cases h : k = r
  · subst h
    rw [Fabric.offer, reg_onReg_self]
    exact Nat.le_succ _
  · exact Nat.le_of_eq (congrArg Reg.arrivals (reg_onReg_other f r k _ h)).symm

theorem offerReads_arrivals_le (f : Fabric) (s cls k : Nat) (l : List Extent) (n : Option Nat) :
    (f.reg k).arrivals ≤ ((f.offerReads s cls l n).reg k).arrivals := by
  refine List.foldlRecOn (motive := fun g : Fabric => (f.reg k).arrivals ≤ (g.reg k).arrivals) l _ (Nat.le_refl _) (fun g hg e _ => ?_)
  split
  · exact hg
  · exact List.foldlRecOn (motive := fun g : Fabric => (f.reg k).arrivals ≤ (g.reg k).arrivals) _ _ hg
      (fun g hg u _ => Nat.le_trans hg (offer_arrivals_le g _ k _))

theorem assignLanes_arrivals_le (f : Fabric) (k n : Nat) : (f.reg k).arrivals ≤ ((f.assignLanes n).reg k).arrivals :=
  assignLanes_induction (P := fun g => (f.reg k).arrivals ≤ (g.reg k).arrivals)
    (fun g _ h => Nat.le_trans h (offerReads_arrivals_le g _ _ k _ _)) (fun _ _ _ h => h) n f (Nat.le_refl _)

/-! ### Records raised while a packet is on its way (R346) -/

theorem consume_during (f g : Fabric) (p : Packet) : (g.during f p).consume = g.consume.during f p := by
  unfold Fabric.consume
  rw [show (g.during f p).fc = g.fc from rfl]
  split <;> rfl

theorem markInjected_during (f g : Fabric) (p : Packet) (r : FRec) :
    (g.during f p).markInjected r = ((g.markInjected r).1, (g.markInjected r).2.during f p) := by
  unfold Fabric.markInjected
  extract_lets h k
  have hk : h = k.during f p := by
    unfold h k
    rw [show (g.during f p).fc = g.fc from rfl]
    split
    · split
      · exact consume_during f g p
      · rfl
    · rfl
  rw [hk, show (k.during f p).fc = k.fc from rfl]
  split <;> rfl

theorem raise_during (f g : Fabric) (p : Packet) (r : FRec) : (g.during f p).raise r = (g.raise r).during f p := by
  have stamped : stampSensors (g.during f p) { r with time := (g.during f p).now } = stampSensors g { r with time := g.now } := rfl
  have room (k : Fabric) : (k.during f p).fc = k.fc := rfl
  simp only [Fabric.raise, stamped, markInjected_during, room]
  split
  · split <;> rfl
  · rfl

/-! ### REPLICA_EXPEL (R272) -/

/-- An expelled member has no job. -/
def Member.expelled (x : Member) : Member := { x with state := 6, job := none }

/-- The job of a member, where it has one, is dropped. -/
def Fabric.dropJob (f : Fabric) : Option Nat → Fabric
  | some j => f.dropCau (fun k => k.id == j)
  | none => f

theorem dropJob_laneless (f : Fabric) (j : Option Nat) : (f.dropJob j).laneless = f.laneless := by
  cases j with
  | none => rfl
  | some j => exact dropCau_laneless f _

theorem dropJob_during (f g : Fabric) (p : Packet) (j : Option Nat) : (g.during f p).dropJob j = (g.dropJob j).during f p := by
  cases j with
  | none => rfl
  | some j => exact assignLanes_during f (g.onCau (fun c => { c with jobs := c.jobs.filter (fun k => !(k.id == j)) })) p 12

theorem dropJob_arrivals_le (f : Fabric) (k : Nat) (j : Option Nat) : (f.reg k).arrivals ≤ ((f.dropJob j).reg k).arrivals := by
  cases j with
  | none => exact Nat.le_refl _
  | some j => exact assignLanes_arrivals_le (f.onCau _) k 12

/-- The record that reports an expulsion. -/
def expelNote (n m s : Nat) : FRec :=
  { source := srcBelay, unit := centralUnit srcBelay, cause := 0x0403, owners := [s], syndrome := syn3 n m 0 }

theorem expel_def (f : Fabric) (n m : Nat) : f.expel n m =
    ((f.dropJob ((f.replica n).members.getD m {}).job).onMember n m Member.expelled).raise
      (expelNote n m ((f.replica n).members.getD m {}).slice) := rfl

/-- Beside the jobs, an expulsion changes its member, and reports to the fault collector. -/
theorem expel_laneless (f : Fabric) (n m : Nat) :
    (f.expel n m).laneless = { (f.onMember n m Member.expelled).laneless with fc := (f.expel n m).fc } := by
  have h := dropJob_laneless f ((f.replica n).members.getD m {}).job
  rw [expel_def, raise_eq]
  exact (congrArg (fun g : Fabric => ({ (g.onMember n m Member.expelled).laneless with fc := (Fabric.raise _ _).fc } : Fabric)) h :)

theorem expel_during (f g : Fabric) (p : Packet) (n m : Nat) : (g.during f p).expel n m = (g.expel n m).during f p := by
  rw [expel_def, expel_def, replica_during, dropJob_during]
  exact raise_during f ((g.dropJob _).onMember n m Member.expelled) p _

theorem expel_arrivals_le (f : Fabric) (k n m : Nat) : (f.reg k).arrivals ≤ ((f.expel n m).reg k).arrivals := by
  rw [expel_def, raise_eq]
  exact dropJob_arrivals_le f k _

theorem quiet_expel (f : Fabric) (n m : Nat) : (f.expel n m).quiet = f.quiet := by
  have h := expel_laneless f n m
  generalize f.expel n m = g at h ⊢
  exact (congrArg Fabric.quiet h :).trans (quiet_onMember f n m Member.expelled)

theorem expel_keeps (f : Fabric) (n m : Nat) :
    (f.expel n m).mem = f.mem ∧ (f.expel n m).rs = f.rs ∧ (f.expel n m).fns = f.fns := by
  have h := expel_laneless f n m
  generalize f.expel n m = g at h ⊢
  exact ⟨(congrArg Fabric.mem h :), (congrArg Fabric.rs h :), (congrArg Fabric.fns h :)⟩

/-- The expelled member as the set lists it. -/
theorem expel_member (f : Fabric) (n m : Nat) :
    ((f.expel n m).replica n).members.find m = ((f.replica n).members.find m).map Member.expelled := by
  have h := expel_laneless f n m
  generalize f.expel n m = g at h ⊢
  have hset : g.replica n = (f.replica n).onMember m Member.expelled :=
    (congrArg (fun g : Fabric => g.replica n) h :).trans (replica_onMember_self f n m Member.expelled)
  rw [hset]
  exact Tab.find_onKey _ _ _

theorem replicaExpel_expels (f : Fabric) (p : Packet) (m : Member)
    (h : (f.replica (pfield p 0x18 1)).members.find (pfield p 0x19 1) = some m) (hq : f.quiet = true) :
    rowReplicaExpel.body p (preq p) (f.during f p) = ((f.expel (pfield p 0x18 1) (pfield p 0x19 1)).during f p, some repOk) := by
  simp only [rowReplicaExpel, replica_during, h, Option.isNone_some, Bool.false_eq_true, if_false]
  rw [expel_during, settle_quiet _ ((quiet_during _ _ _).trans ((quiet_expel _ _ _).trans hq))]

theorem replicaExpel_refused (f : Fabric) (p : Packet)
    (h : (f.replica (pfield p 0x18 1)).members.find (pfield p 0x19 1) = none) :
    rowReplicaExpel.body p (preq p) (f.during f p) = (f.during f p, some (rep stState)) := by
  simp only [rowReplicaExpel, replica_during, h, Option.isNone_none, if_true]

/-- Settles O17: a definition, a check and an expulsion of a replica set do what the lemmas of each row say. -/
theorem replicaSetPackets : Obligations.ReplicaSetPackets := by
  unfold Obligations.ReplicaSetPackets
  refine ⟨?sets, ?empties, ?inCheck, ?forTag, ?starts, ?pair, ?notChecked, ?expels, ?notExpelled, expel_member⟩
  case sets =>
    intro s p x m hp hr hlen hx hs hm
    subst hm
    exact control_does s _ p _ _ hp (replicaDefine_sets s.fab p x hr hlen hx hs) rfl rfl rfl
  case empties => exact fun s p hp hr hlen => control_does s _ p _ _ hp (replicaDefine_empties s.fab p hr hlen) rfl rfl rfl
  case inCheck => exact fun s p hp hr => control_does s _ p _ _ hp (replicaDefine_refused_in_check s.fab p hr) rfl rfl rfl
  case forTag => exact fun s p hp hr hlen h => control_does s _ p _ _ hp (replicaDefine_refused_for_tag s.fab p hr hlen h) rfl rfl rfl
  case starts =>
    intro s p f hp hr hmany hlen hf
    subst hf
    refine control_ends s _ p _ hp (replicaCheck_starts (s.fab.taking p) p ?_)
    rw [taking_during]
    exact ⟨hr, hmany, hlen⟩
  case pair =>
    intro s p a b x y hp hr hm hab hlen hx hy hq
    obtain ⟨t, run, waits, result, req, members, jobs, kept⟩ :=
      run_check_of_pair s p a b x y hp (checkable_of_pair _ a b x y hr hm hlen) hm hab hx hy hq
    exact ⟨t, run, waits, result, req, members, jobs, kept⟩
  case notChecked => exact fun s p hp h => control_does s _ p _ _ hp (replicaCheck_refused s.fab p h) rfl rfl rfl
  case expels =>
    intro s p m hp h hq
    obtain ⟨hmem, hrs, hfns⟩ := expel_keeps s.fab (pfield p 0x18 1) (pfield p 0x19 1)
    exact control_does s _ p _ _ hp (replicaExpel_expels s.fab p m h hq) hmem hrs hfns (expel_arrivals_le s.fab 48 _ _)
  case notExpelled => exact fun s p hp h => control_does s _ p _ _ hp (replicaExpel_refused s.fab p h) rfl rfl rfl

end Sys2Proof.Machine
end
